-- ==== Sys2Proof/Word.lean ====
section
/-! DEFINITION. The plainest word types of the Twigen: bytes, 32-bit words, doublewords (R6), and the references
by which its parts are named (R33, R53, R222). -/

namespace Sys2Proof

/-- R6: a byte is 8 bits. -/
abbrev Byte := BitVec 8
/-- R6: a word is 32 bits. -/
abbrev Word := BitVec 32
/-- R6: a doubleword is 64 bits. -/
abbrev DWord := BitVec 64

/-- R33: a physical core reference, DIE[8:7], CLUSTER[6:4], SLOT[3:0]. -/
abbrev CoreRef := BitVec 9

/-- A command interface (R218): a core, or a gang of a job. The job is named by its place in the job table. -/
inductive IfaceId where
  | core (c : CoreRef)
  | gang (job : Nat) (g : BitVec 12)
  deriving DecidableEq, Repr

/-- The two streams of an interface (R218). -/
inductive Strm where
  | acc
  | exe
  deriving DecidableEq, Repr

/-- The four parties that can change control registers (R477), highest rank first. -/
inductive Party where
  | thimble
  | secureHost
  | viloth
  | host
  deriving DecidableEq, Repr

end Sys2Proof
end

