-- ==== Sys2Proof/Syntax.lean ====
section
/-! DEFINITION. The commands of the Twigen as a block: one constructor of `Instr` per row of spec/opcode_table.json.
The table gives no operand bits; each row's operands are what its rule needs from outside the device, or the name of
the interface, core, channel, ring or port at which an internal step happens (log 4). -/

namespace Sys2Proof

/-- The way on which a word in flight fails, where it is no datapath of the reader's own (R573, R578): a Seam link, the Cupboard
port of a die, or a crossing between the core domain and an island. -/
inductive ParityPath where
  | seam
  | cupbPort (d : Fin 4)
  | crossing
  deriving DecidableEq, Repr

/-- SRAM outside the core domain that carries parity (R574): of a clocked island or of Viloth. -/
inductive ParitySram where
  | hbm (s : Fin 8)
  | endpoint
  | port (p : Fin 13)
  | spi
  | smbus
  | pmbus
  | jtag
  | viloth
  | lintRing
  deriving DecidableEq, Repr

/-- Where a parity error is found (R573, R575, R578): in a Darn unit of an engine, in control state, or at rest. -/
inductive ParitySite where
  /-- engine state of the Mangle: the oldest tile of the core that has not been written -/
  | mangle (c : CoreRef)
  | vector (c : CoreRef)
  | iron (c : CoreRef)
  /-- a transfer or OPTSTEP of an access engine, by command index -/
  | access (i : IfaceId) (idx : Nat)
  | coll (ch : Fin 16)
  /-- control state of one core: Bobbin entries, token counters, scoreboard -/
  | coreCtl (c : CoreRef)
  /-- state of the cluster scheduler of cluster k -/
  | scheduler (k : Fin 32)
  /-- a Basket word, an explicit Cupboard word or a dirty cache line at rest, read by a command of the interface, or by the
  host or another device -/
  | atRest (addr : DWord) (reader : Option (IfaceId × Strm × Nat))
  /-- a clean Cupboard cache line -/
  | cleanLine (line : BitVec 31)
  /-- a word in flight to the reader at a site -/
  | via (p : ParityPath) (site : ParitySite)
  /-- SRAM outside the core domain -/
  | sram (b : ParitySram)
  deriving DecidableEq, Repr

/-- What Rinse reads next (R378). -/
inductive RinseTarget where
  | hbmLine (line : BitVec 31)
  | cupbWord (addr : DWord)
  deriving DecidableEq, Repr

/-- What Rinse finds there (R378). -/
inductive RinseFinding where
  | clean
  | corrected
  | uncorrected
  deriving DecidableEq, Repr

/-- One BAR0 or BAR4 write, or a write by Viloth or Thimble through its own interface (R477). `bar4` is false for
BAR0 offsets; `wide` is an 8-byte access. -/
structure RegWrite where
  party : Party
  bar4  : Bool
  off   : BitVec 26
  wide  : Bool
  value : DWord
  deriving DecidableEq, Repr

/-- Which bytes of a mailbox word an access covers (R489, R490). -/
inductive MbxBytes where
  | low
  | high
  | all
  deriving DecidableEq, Repr

/-- The outcome of FEC decoding for a received frame (R394, R414). -/
inductive FecResult where
  | clean
  | corrected
  | uncorrected
  deriving DecidableEq, Repr

/-- The readings a 100 us power decision is taken from (R550, R551): the 256 die sensors in 1/16 C, die d's from 64 d on,
the 1 ms mean package power, the pace of the 32 clusters, and HOT_N. -/
structure PolicyReading where
  temps  : List (BitVec 16)
  powerW : BitVec 16
  pace   : List (BitVec 12)
  hotN   : Bool
  deriving DecidableEq, Repr

/-- R603: the causes of Fold, in the order of CFG_FT_STATUS.CAUSE. -/
inductive FoldCause where
  | attribution2
  | vcoreLost
  | pmbFault
  | tj115
  | startUp
  deriving DecidableEq, Repr

/-- What a PMBus controller answers (R515, R517). -/
inductive PmbResult where
  | readings (voutMv ioutA : BitVec 16)
  | statusFault (status : BitVec 16)
  | noAck
  | pecFail
  deriving DecidableEq, Repr

/-- The groups of rails with an enable and a power-good input each (R504). -/
inductive PowerGroup where
  | ana
  | io
  | mem
  | core (d : Fin 4)
  deriving DecidableEq, Repr

/-- What start-up observes in phases 1 to 3 (R521, R525, R546, R548). -/
structure BootObs where
  mgtClk    : Bool
  thimbleOk : Bool
  sfdpOk    : Bool
  deriving DecidableEq, Repr

/-- The result of the self-test of phase 9 (R546, R547). -/
structure SelfTest where
  badCores  : List CoreRef
  schedFail : Bool
  cupbFail  : Bool
  deriving DecidableEq, Repr

/-- The three causes that reset as PERST_N does (R493). -/
inductive PerstKind where
  | perst
  | hotReset
  | linkDisable
  deriving DecidableEq, Repr

/-- A reference clock that can be missing after boot began (R521). -/
inductive RefClock where
  | serdes (pair : Fin 4)
  | pcie
  deriving DecidableEq, Repr

/-- An IDE_KM request over DOE (R461): bind or tear down a stream. -/
inductive IdeRequest where
  | bind (stream : Byte)
  | teardown (stream : Byte)
  deriving DecidableEq, Repr

/-- The commands of the block, one constructor per row of spec/opcode_table.json. -/
inductive Instr where
  /-- R224 -/
  | nop (i : IfaceId) (st : Strm)
  /-- R231 -/
  | wait (i : IfaceId) (st : Strm)
  /-- R206 -/
  | genAcquire (i : IfaceId) (st : Strm)
  /-- R226 -/
  | signal (i : IfaceId) (st : Strm)
  /-- R207 -/
  | genRelease (i : IfaceId) (st : Strm)
  /-- R233 -/
  | remoteSignal (i : IfaceId) (st : Strm)
  /-- R422 -/
  | backwardComplete (i : IfaceId) (st : Strm)
  /-- R232 -/
  | fence (i : IfaceId) (st : Strm)
  /-- R152 -/
  | layerBegin (i : IfaceId)
  /-- R154 -/
  | layerEnd (i : IfaceId) (st : Strm)
  /-- R168 -/
  | spanCommit (i : IfaceId)
  /-- R167 -/
  | layerRepeat (i : IfaceId)
  /-- R227 -/
  | load (i : IfaceId)
  /-- R132 -/
  | loadForwardTable (i : IfaceId)
  /-- R192 -/
  | loadDerivativeTable (i : IfaceId)
  /-- R227 -/
  | store (i : IfaceId)
  /-- R372 -/
  | atomicAdd (i : IfaceId)
  /-- R373 -/
  | atomicMin (i : IfaceId)
  /-- R373 -/
  | atomicMax (i : IfaceId)
  /-- R376 -/
  | gather (i : IfaceId)
  /-- R376 -/
  | scatter (i : IfaceId)
  /-- R111 -/
  | mma (i : IfaceId)
  /-- R188 -/
  | mmaT (i : IfaceId)
  /-- R188 -/
  | mmaOs (i : IfaceId)
  /-- R117 -/
  | semi (i : IfaceId)
  /-- R123 -/
  | tileSlotTake (c : CoreRef)
  /-- R126 -/
  | tileSeqCheck (i : IfaceId)
  /-- R129 -/
  | pressRow (c : CoreRef)
  /-- R138 -/
  | tileComplete (c : CoreRef)
  /-- R170 -/
  | carefulRetry (c : CoreRef)
  /-- R177 -/
  | creaseSampleDecide (c : CoreRef)
  /-- R275 -/
  | vrun (i : IfaceId)
  /-- R284 -/
  | vadd (c : CoreRef)
  /-- R284 -/
  | vsub (c : CoreRef)
  /-- R284 -/
  | vmul (c : CoreRef)
  /-- R284 -/
  | vfma (c : CoreRef)
  /-- R284 -/
  | vfms (c : CoreRef)
  /-- R284 -/
  | vdiv (c : CoreRef)
  /-- R284 -/
  | vsqrt (c : CoreRef)
  /-- R284 -/
  | vmin (c : CoreRef)
  /-- R284 -/
  | vmax (c : CoreRef)
  /-- R284 -/
  | vabs (c : CoreRef)
  /-- R284 -/
  | vneg (c : CoreRef)
  /-- R284 -/
  | vsad (c : CoreRef)
  /-- R284 -/
  | vexp (c : CoreRef)
  /-- R284 -/
  | vmov (c : CoreRef)
  /-- R284 -/
  | vmerge (c : CoreRef)
  /-- R284 -/
  | vcmpeq (c : CoreRef)
  /-- R284 -/
  | vcmpne (c : CoreRef)
  /-- R284 -/
  | vcmplt (c : CoreRef)
  /-- R284 -/
  | vcmple (c : CoreRef)
  /-- R284 -/
  | vand (c : CoreRef)
  /-- R284 -/
  | vor (c : CoreRef)
  /-- R284 -/
  | vxor (c : CoreRef)
  /-- R284 -/
  | vshl (c : CoreRef)
  /-- R284 -/
  | vshr (c : CoreRef)
  /-- R284 -/
  | vsra (c : CoreRef)
  /-- R295 -/
  | vredsum (c : CoreRef)
  /-- R295 -/
  | vredmax (c : CoreRef)
  /-- R295 -/
  | vredmin (c : CoreRef)
  /-- R295 -/
  | vredsad (c : CoreRef)
  /-- R296 -/
  | vsegsum (c : CoreRef)
  /-- R296 -/
  | vsegmax (c : CoreRef)
  /-- R296 -/
  | vsegmin (c : CoreRef)
  /-- R298 -/
  | vinterp (c : CoreRef)
  /-- R284 -/
  | vext (c : CoreRef)
  /-- R300 -/
  | vcvt (c : CoreRef)
  /-- R301 -/
  | vpack (c : CoreRef)
  /-- R301 -/
  | vunpack (c : CoreRef)
  /-- R289 -/
  | vld (c : CoreRef)
  /-- R292 -/
  | vst (c : CoreRef)
  /-- R289 -/
  | vldx (c : CoreRef)
  /-- R292 -/
  | vstx (c : CoreRef)
  /-- R294 -/
  | vqpop (c : CoreRef)
  /-- R294 -/
  | vqpush (c : CoreRef)
  /-- R280 -/
  | sld (c : CoreRef)
  /-- R280 -/
  | sst (c : CoreRef)
  /-- R282 -/
  | beq (c : CoreRef)
  /-- R282 -/
  | bne (c : CoreRef)
  /-- R282 -/
  | blt (c : CoreRef)
  /-- R282 -/
  | bge (c : CoreRef)
  /-- R282 -/
  | bltu (c : CoreRef)
  /-- R282 -/
  | bgeu (c : CoreRef)
  /-- R282 -/
  | jump (c : CoreRef)
  /-- R303 -/
  | jumpRegister (c : CoreRef)
  /-- R303 -/
  | add (c : CoreRef)
  /-- R303 -/
  | sub (c : CoreRef)
  /-- R303 -/
  | mul (c : CoreRef)
  /-- R303 -/
  | andS (c : CoreRef)
  /-- R303 -/
  | orS (c : CoreRef)
  /-- R303 -/
  | xor (c : CoreRef)
  /-- R303 -/
  | shl (c : CoreRef)
  /-- R303 -/
  | shr (c : CoreRef)
  /-- R303 -/
  | sra (c : CoreRef)
  /-- R303 -/
  | slt (c : CoreRef)
  /-- R303 -/
  | sltu (c : CoreRef)
  /-- R303 -/
  | fadd (c : CoreRef)
  /-- R303 -/
  | fsub (c : CoreRef)
  /-- R303 -/
  | fmul (c : CoreRef)
  /-- R303 -/
  | fdiv (c : CoreRef)
  /-- R303 -/
  | fmin (c : CoreRef)
  /-- R303 -/
  | fmax (c : CoreRef)
  /-- R303 -/
  | flt (c : CoreRef)
  /-- R303 -/
  | fle (c : CoreRef)
  /-- R303 -/
  | feq (c : CoreRef)
  /-- R303 -/
  | fsqrt (c : CoreRef)
  /-- R303 -/
  | cvtIntToFp64 (c : CoreRef)
  /-- R303 -/
  | cvtFp64ToInt (c : CoreRef)
  /-- R303 -/
  | cvtFp32ToFp64 (c : CoreRef)
  /-- R303 -/
  | cvtFp64ToFp32 (c : CoreRef)
  /-- R304 -/
  | addi (c : CoreRef)
  /-- R304 -/
  | andi (c : CoreRef)
  /-- R304 -/
  | ori (c : CoreRef)
  /-- R304 -/
  | xori (c : CoreRef)
  /-- R304 -/
  | slli (c : CoreRef)
  /-- R304 -/
  | srli (c : CoreRef)
  /-- R304 -/
  | srai (c : CoreRef)
  /-- R304 -/
  | slti (c : CoreRef)
  /-- R280 -/
  | scalarUpper (c : CoreRef)
  /-- R297 -/
  | mand (c : CoreRef)
  /-- R297 -/
  | mor (c : CoreRef)
  /-- R297 -/
  | mxor (c : CoreRef)
  /-- R297 -/
  | mandn (c : CoreRef)
  /-- R297 -/
  | mnot (c : CoreRef)
  /-- R297 -/
  | mpop (c : CoreRef)
  /-- R297 -/
  | mfirst (c : CoreRef)
  /-- R297 -/
  | mset (c : CoreRef)
  /-- R276 -/
  | vend (c : CoreRef)
  /-- R272 -/
  | setvl (c : CoreRef)
  /-- R299 -/
  | cvtset (c : CoreRef)
  /-- R305 -/
  | psetp (c : CoreRef)
  /-- R305 -/
  | vcond (c : CoreRef)
  /-- R298 -/
  | vtbl (c : CoreRef)
  /-- R305 -/
  | vlen (c : CoreRef)
  /-- R307 -/
  | vecInstructionRestart (c : CoreRef)
  /-- R341 -/
  | solve (i : IfaceId)
  /-- R338 -/
  | adjoint (i : IfaceId)
  /-- R338 -/
  | adjointPattern (i : IfaceId)
  /-- R213 -/
  | patternGradient (i : IfaceId)
  /-- R335 -/
  | solveEnd (i : IfaceId)
  /-- R182 -/
  | optstep (i : IfaceId)
  /-- R429 -/
  | allReduce (i : IfaceId)
  /-- R429 -/
  | reduceScatter (i : IfaceId)
  /-- R429 -/
  | allGather (i : IfaceId)
  /-- R449 -/
  | allToAll (i : IfaceId)
  /-- R423 -/
  | collMoveData (ch : Fin 16)
  /-- R420 -/
  | collComplete (ch : Fin 16)
  /-- R446 -/
  | backupDeadline (ch : Fin 16)
  /-- R455 -/
  | collWatchdog (ch : Fin 16)
  /-- R454 -/
  | collAliveTimer (ch : Fin 16)
  /-- R220 -/
  | commandFetch (i : IfaceId) (st : Strm)
  /-- R233 -/
  | commandComplete (i : IfaceId) (st : Strm) (idx : Nat)
  /-- R60 -/
  | gangCommandComplete (i : IfaceId) (st : Strm) (idx : Nat)
  /-- R369 -/
  | speculativeFetch (i : IfaceId) (addr : DWord)
  /-- R64 -/
  | jobStart (ring : Fin 8)
  /-- R64 -/
  | jobComplete (job : Nat)
  /-- R256 -/
  | jobHalt (job : Nat)
  /-- R575 -/
  | parityError (site : ParitySite) (rereadOk : Bool)
  /-- R577 -/
  | darnRecompute (site : ParitySite) (ok : Bool)
  /-- R580 -/
  | hbmUncorrectable (line : BitVec 31)
  /-- R358 -/
  | hbmRefresh (stack : Fin 8)
  /-- R361 -/
  | quotaWindow (stack : Fin 8)
  /-- R378 -/
  | rinseScrub (tgt : RinseTarget) (found : RinseFinding)
  /-- R463 -/
  | bar2Read (off : BitVec 39) (len : Nat)
  /-- R463 -/
  | bar2Write (off : BitVec 39) (data : List Byte)
  /-- R49 -/
  | mirrorUpdate (off : BitVec 26)
  /-- R15 -/
  | registerWrite (w : RegWrite)
  /-- R468 -/
  | hifRingTail (p : Party) (k : Fin 8) (v : Word)
  /-- R487 -/
  | hifRingCommit (p : Party) (k : Fin 8)
  /-- R493 -/
  | hifResetWarm (p : Party)
  /-- R480 -/
  | groupClaim (p : Party) (g : Fin 18)
  /-- R480 -/
  | groupRelease (p : Party) (g : Fin 18)
  /-- R412 -/
  | fabRtCommit (p : Party)
  /-- R395 -/
  | fabRetrain (p : Party) (ports : BitVec 13)
  /-- R263 -/
  | bobResumeA (p : Party) (tgt : IfaceId)
  /-- R263 -/
  | bobResumeX (p : Party) (tgt : IfaceId)
  /-- R257 -/
  | bobRelease (p : Party) (tgt : IfaceId)
  /-- R414 -/
  | fabPortRetryRead (port : Fin 13)
  /-- R414 -/
  | fabPortFecRead (port : Fin 13)
  /-- R414 -/
  | fabPortErrRead (port : Fin 13)
  /-- R489 -/
  | mbxWordWrite (p : Party) (n : Fin 16) (b : MbxBytes) (v : DWord)
  /-- R490 -/
  | mbxWordRead (p : Party) (n : Fin 16) (b : MbxBytes)
  /-- R491 -/
  | mbxWinWrite (p : Party) (n : Fin 16) (v : Word)
  /-- R491 -/
  | mbxWinRead (p : Party) (n : Fin 16)
  /-- R563 -/
  | ping (n : Fin 4)
  /-- R559 -/
  | lintRead (n : Fin 4)
  /-- R553 -/
  | setPolicy (n : Fin 4)
  /-- R563 -/
  | powerOff (n : Fin 4)
  /-- R563 -/
  | restartWarm (n : Fin 4)
  /-- R549 -/
  | restartCold (n : Fin 4)
  /-- R563 -/
  | sensorDump (n : Fin 4)
  /-- R563 -/
  | info (n : Fin 4)
  /-- R567 -/
  | fwBegin (n : Fin 4)
  /-- R567 -/
  | fwData (n : Fin 4)
  /-- R567 -/
  | fwEnd (n : Fin 4)
  /-- R568 -/
  | fwAbort (n : Fin 4)
  /-- R538 -/
  | otpSettings (n : Fin 4) (readBackOk : Bool)
  /-- R565 -/
  | svnCommit (n : Fin 4)
  /-- R564 -/
  | nonce (n : Fin 4)
  /-- R566 -/
  | debugUnlock (n : Fin 4)
  /-- R560 -/
  | smbUnsupported (write : Bool) (code : Byte)
  /-- R394 -/
  | linkFrameReceive (port : Fin 13) (frame : BitVec 2176) (fec : FecResult)
  /-- R395 -/
  | portFecLockLoss (port : Fin 13)
  /-- R395 -/
  | portTrainingDone (port : Fin 13) (peer : BitVec 14) (reversed : Bool)
  /-- R405 -/
  | packetForward (src : Option (Fin 13)) (vc : BitVec 3)
  /-- R413 -/
  | fabTimeout (txn : BitVec 16)
  /-- R450 -/
  | hbmTempTick (temps : List Byte)
  /-- R551 -/
  | vcorePolicyTick (r : PolicyReading)
  /-- R598 -/
  | fold (cause : FoldCause)
  /-- R524 -/
  | pmbAlert (plane : Fin 4) (r : PmbResult)
  /-- R546 -/
  | bootRomStart (o : BootObs)
  /-- R521 -/
  | mgtClkRecheck (present : Bool)
  /-- R506 -/
  | powerGoodRise (g : PowerGroup)
  /-- R508 -/
  | powerGoodTimeout (g : PowerGroup)
  /-- R546 -/
  | hbmTrainDone (stack : Fin 8) (ok : Bool)
  /-- R547 -/
  | selfTestDone (r : SelfTest)
  /-- R511 -/
  | powerGoodFall (g : PowerGroup)
  /-- R524 -/
  | rstN (lowNs : Nat)
  /-- R493 -/
  | perstN (kind : PerstKind)
  /-- R521 -/
  | refclkMissing (clk : RefClock)
  /-- R526 -/
  | samplePreload (sampled preload : List Bool)
  /-- R461 -/
  | ideKmRequest (r : IdeRequest)
  /-- R492 -/
  | pciPmStateChange (toD3 : Bool)
  /-- R581 -/
  | hbmCaParityError (stack : Fin 8) (retryOk : Bool)
  /-- R550 -/
  | pmbusVcoreRead (plane : Fin 4) (r : PmbResult)
  /-- R50 -/
  | postedWriteDrain
  /-- R412 -/
  | routeTableApply
  /-- R41 -/
  | cfgPaceRead
  /-- R380 -/
  | memRinseCorrRead
  /-- R380 -/
  | memRinseUncorrRead
  /-- R414 -/
  | fabDiscardCntRead
  /-- R569 -/
  | mgtLintSkipRead
  /-- R569 -/
  | mgtLintLostRead
  /-- R602 -/
  | cfgFtRereadRead
  /-- R602 -/
  | cfgFtDarnRead
  /-- R568 -/
  | updateSessionTimeout
  /-- R560 -/
  | smbReadStatus
  /-- R560 -/
  | smbReadTj
  /-- R560 -/
  | smbReadPower
  /-- R560 -/
  | smbReadHbmTemp
  /-- R560 -/
  | smbReadSetpoint
  /-- R560 -/
  | smbReadLastCode
  /-- R560 -/
  | smbReadIdentity
  /-- R371 -/
  | readReq
  /-- R371 -/
  | write
  /-- R372 -/
  | atomic
  /-- R398 -/
  | readData
  /-- R398 -/
  | writeAck
  /-- R398 -/
  | readRefused
  /-- R169 -/
  | schedMsg
  /-- R584 -/
  | faultNote
  /-- R404 -/
  | mcastData
  /-- R432 -/
  | collData
  /-- R440 -/
  | credit
  /-- R449 -/
  | count
  /-- R445 -/
  | backupDone
  /-- R454 -/
  | alive
  /-- R455 -/
  | abort
  /-- R514 -/
  | vcoreStep
  /-- R598 -/
  | cupboardWritebackDone
  /-- R506 -/
  | vauxRise
  /-- R508 -/
  | sequenceRetry
  /-- R544 -/
  | firmwareLoadDone
  /-- R546 -/
  | jobReady
  /-- R509 -/
  | pwrFailNFall
  /-- R527 -/
  | thermtrip
  /-- R531 -/
  | vilothWatchdog
  /-- R493 -/
  | flr
  /-- R493 -/
  | resetReady
  /-- R557 -/
  | lintHubMove
  /-- R558 -/
  | lintFlashWindow
  /-- R526 -/
  | bypass
  /-- R526 -/
  | idcode
  /-- R526 -/
  | extest
  /-- R526 -/
  | clamp
  /-- R526 -/
  | highz
  /-- R493 -/
  | pcieLinkUp
  /-- R524 -/
  | rstNRelease
  /-- R527 -/
  | vauxFall
  /-- R549 -/
  | restartAtPhase2
  /-- R356 -/
  | warmWritebackDone
  deriving DecidableEq, Repr

end Sys2Proof
end

