-- ==== Sys2Proof/Decode.lean ====
section
/-! DEFINITION. The command that a word spells by the bits of spec/opcode_table.json. No row of the table gives bits
(log 4), so no word spells a command; the words of command streams and vector programs are decoded where they are
fetched, by the meanings (Machine/Stream.lean, Machine/VecOps.lean). -/

namespace Sys2Proof

/-- No row of the table gives bits: every word spells none. -/
def decodeTableWord (_nbits _w : Nat) : Option Instr := none

end Sys2Proof
end

