-- ==== Sys2Proof/Machine/Tab.lean ====
section
/-! DEFINITION. A sparse table: the one shape in which State holds memory and every numbered bank of registers.
It lists (index, value) pairs in strictly rising order of index, and lists no entry that equals what an unlisted
index reads as, so that equal tables are equal data. -/

namespace Sys2Proof.Machine

/-- A sparse table. What an unlisted index reads as is given at each use (`Tab.get`, `Tab.set`). -/
structure Tab (α : Type) where
  cells : List (Nat × α)
  deriving DecidableEq, Repr

/-- The table with nothing listed. -/
def Tab.empty {α : Type} : Tab α := ⟨[]⟩

/-- The listed value of `k`, or `d`. -/
def cellsGet {α : Type} (d : α) : List (Nat × α) → Nat → α
  | [], _ => d
  | (i, v) :: r, k => if i = k then v else cellsGet d r k

/-- The list without `k`. -/
def cellsDel {α : Type} (k : Nat) : List (Nat × α) → List (Nat × α)
  | [] => []
  | (i, v) :: r => if i = k then cellsDel k r else (i, v) :: cellsDel k r

/-- The list with `k` holding `v`, put in at its place. -/
def cellsIns {α : Type} (k : Nat) (v : α) : List (Nat × α) → List (Nat × α)
  | [] => [(k, v)]
  | (i, w) :: r => if k < i then (k, v) :: (i, w) :: r else if i = k then (k, v) :: r else (i, w) :: cellsIns k v r

/-- Read index `k`; an unlisted index reads as `d`. -/
def Tab.get {α : Type} (t : Tab α) (d : α) (k : Nat) : α := cellsGet d t.cells k

/-- Write index `k`, in canonical form: writing `d` removes the entry. -/
def Tab.set {α : Type} [DecidableEq α] (t : Tab α) (d : α) (k : Nat) (v : α) : Tab α :=
  if v = d then ⟨cellsDel k t.cells⟩ else ⟨cellsIns k v t.cells⟩

/-- Set every index from `lo` up to and without `hi` back to the unlisted value. -/
def Tab.clear {α : Type} (t : Tab α) (lo hi : Nat) : Tab α :=
  ⟨t.cells.filter fun c => decide (c.1 < lo) || decide (hi ≤ c.1)⟩

/-- Change the entry of `k` by `f`. -/
def Tab.upd {α : Type} [DecidableEq α] (t : Tab α) (d : α) (k : Nat) (f : α → α) : Tab α := t.set d k (f (t.get d k))

/-- The indices listed. -/
def Tab.keys {α : Type} (t : Tab α) : List Nat := t.cells.map (·.1)

/-- The canonical form of a list of cells: indices strictly rise from `lo`, and no value equals `d`. -/
def cellsWf {α : Type} [DecidableEq α] (d : α) : Nat → List (Nat × α) → Bool
  | _, [] => true
  | lo, (i, v) :: r => decide (lo ≤ i) && decide (v ≠ d) && cellsWf d (i + 1) r

/-- The canonical form (memory's, and every bank's). -/
def Tab.wf {α : Type} [DecidableEq α] (t : Tab α) (d : α) : Bool := cellsWf d 0 t.cells

end Sys2Proof.Machine
end

