-- ==== Sys2Proof/Machine/Bits.lean ====
section
/-! DEFINITION. Bit fields and byte order (R6, R7, R10): the fields of a number, and the little-endian bytes of it. -/

namespace Sys2Proof.Machine

/-- R10: the field of `len` bits that begins at bit `lo`. -/
def fld (w lo len : Nat) : Nat := (w >>> lo) % 2 ^ len

/-- R10: one bit. -/
def bitOf (w n : Nat) : Bool := w.testBit n

/-- A Bool as the bit it stands for. -/
def b2n (b : Bool) : Nat := if b then 1 else 0

/-- R7: the number that bytes stand for, the first byte lowest. -/
def leNat : List Byte → Nat
  | [] => 0
  | b :: r => b.toNat + 256 * leNat r

/-- R7: the `k` low bytes of a number, lowest first. -/
def leBytes : Nat → Nat → List Byte
  | 0, _ => []
  | k + 1, n => BitVec.ofNat 8 n :: leBytes k (n / 256)

/-- The words of a byte list, four bytes each, lowest first; a rest of fewer than four bytes is dropped. -/
def leWords : List Byte → List Word
  | a :: b :: c :: d :: r => BitVec.ofNat 32 (leNat [a, b, c, d]) :: leWords r
  | _ => []

/-- The bytes of a list of words. -/
def wordBytes : List Word → List Byte
  | [] => []
  | w :: r => leBytes 4 w.toNat ++ wordBytes r

/-- The bytes of a list of words given as numbers. -/
def bytesOf (ws : List Nat) : List Byte := ws.flatMap (leBytes 4)

/-- Word `i` of a wide structure (R7). -/
def wordAt (w i : Nat) : Nat := fld w (32 * i) 32

/-- Doubleword whose low word is word `i` of a wide structure. -/
def dwordAt (w i : Nat) : Nat := fld w (32 * i) 64

/-- The bits at and above `lo`, and under `lo + len`, are zero. -/
def zeroBits (w lo len : Nat) : Bool := fld w lo len == 0

/-- Replace the field of `len` bits at `lo`. -/
def setFld (w lo len v : Nat) : Nat := w - (fld w lo len <<< lo) + ((v % 2 ^ len) <<< lo)

/-- The largest multiple of 2^k that is not above `n`. -/
def alignDown (n k : Nat) : Nat := n / 2 ^ k * 2 ^ k

/-- Quotient rounded up. -/
def ceilDiv (a b : Nat) : Nat := (a + b - 1) / b

/-- Two's-complement value of the low `w` bits. -/
def toSigned (w n : Nat) : Int := if n.testBit (w - 1) then (n % 2 ^ w : Nat) - (2 ^ w : Nat) else ((n % 2 ^ w : Nat) : Int)

/-- The low `w` bits of an integer, two's complement. -/
def ofSigned (w : Nat) (i : Int) : Nat := (i % (2 ^ w : Nat)).toNat

/-- The numbers from `lo`, `n` of them. -/
def rangeFrom (lo : Nat) : Nat → List Nat
  | 0 => []
  | n + 1 => lo :: rangeFrom (lo + 1) n

/-- The numbers under `n`. -/
def upto (n : Nat) : List Nat := rangeFrom 0 n

/-- Element `i` of a list, or `d`. -/
def nth {α : Type} (l : List α) (i : Nat) (d : α) : α := (l.drop i).headD d

/-- Replace element `i` of a list. -/
def setNth {α : Type} : List α → Nat → α → List α
  | [], _, _ => []
  | _ :: r, 0, v => v :: r
  | x :: r, i + 1, v => x :: setNth r i v

/-- Apply `f` to a state once for each element of a list, in order. -/
def forEach {σ α : Type} (f : α → σ → σ) : List α → σ → σ
  | [], s => s
  | a :: r, s => forEach f r (f a s)

/-- The first result of `f` on a list. -/
def firstSome {α β : Type} (f : α → Option β) : List α → Option β
  | [] => none
  | a :: r => match f a with
    | some b => some b
    | none => firstSome f r

/-- Cut a list into pieces of `n` (the last may be shorter); `fuel` bounds their number. -/
def chunks {α : Type} (n : Nat) : Nat → List α → List (List α)
  | 0, _ => []
  | _ + 1, [] => []
  | f + 1, l => l.take n :: chunks n f (l.drop n)

/-- A list without repeats, first occurrences kept. -/
def dedup {α : Type} [DecidableEq α] : List α → List α
  | [] => []
  | a :: r => a :: (dedup r).filter (fun b => decide (b ≠ a))

end Sys2Proof.Machine
end

