-- ==== Sys2Proof/Machine/Crypto.lean ====
section
/-! DEFINITION. What Thimble computes: CRC-16 (R534), SHA-512 and Ed25519 verification (R530, R535, R542, R566) as FIPS 180-4
and RFC 8032 define them (R31; log 13). -/

namespace Sys2Proof.Machine

/-! ### CRC-16 (R534) -/

/-- One bit of the register, polynomial 0x1021. -/
def crc16Bit (c : Nat) : Nat := if c.testBit 15 then (2 * c % 65536) ^^^ 0x1021 else 2 * c

/-- Eight bits. -/
def crc16Byte (c b : Nat) : Nat :=
  crc16Bit (crc16Bit (crc16Bit (crc16Bit (crc16Bit (crc16Bit (crc16Bit (crc16Bit (c ^^^ (b * 256)))))))))

/-- R534: the CRC of bytes in ascending order, from 0xFFFF, with no final inversion. -/
def crc16 (bs : List Byte) : Nat := bs.foldl (fun c b => crc16Byte c b.toNat) 0xFFFF

/-! ### SHA-512 -/

/-- The round constants. -/
def shaK : List DWord :=
  [0x428A2F98D728AE22, 0x7137449123EF65CD, 0xB5C0FBCFEC4D3B2F, 0xE9B5DBA58189DBBC, 0x3956C25BF348B538] ++
  [0x59F111F1B605D019, 0x923F82A4AF194F9B, 0xAB1C5ED5DA6D8118, 0xD807AA98A3030242, 0x12835B0145706FBE] ++
  [0x243185BE4EE4B28C, 0x550C7DC3D5FFB4E2, 0x72BE5D74F27B896F, 0x80DEB1FE3B1696B1, 0x9BDC06A725C71235] ++
  [0xC19BF174CF692694, 0xE49B69C19EF14AD2, 0xEFBE4786384F25E3, 0x0FC19DC68B8CD5B5, 0x240CA1CC77AC9C65] ++
  [0x2DE92C6F592B0275, 0x4A7484AA6EA6E483, 0x5CB0A9DCBD41FBD4, 0x76F988DA831153B5, 0x983E5152EE66DFAB] ++
  [0xA831C66D2DB43210, 0xB00327C898FB213F, 0xBF597FC7BEEF0EE4, 0xC6E00BF33DA88FC2, 0xD5A79147930AA725] ++
  [0x06CA6351E003826F, 0x142929670A0E6E70, 0x27B70A8546D22FFC, 0x2E1B21385C26C926, 0x4D2C6DFC5AC42AED] ++
  [0x53380D139D95B3DF, 0x650A73548BAF63DE, 0x766A0ABB3C77B2A8, 0x81C2C92E47EDAEE6, 0x92722C851482353B] ++
  [0xA2BFE8A14CF10364, 0xA81A664BBC423001, 0xC24B8B70D0F89791, 0xC76C51A30654BE30, 0xD192E819D6EF5218] ++
  [0xD69906245565A910, 0xF40E35855771202A, 0x106AA07032BBD1B8, 0x19A4C116B8D2D0C8, 0x1E376C085141AB53] ++
  [0x2748774CDF8EEB99, 0x34B0BCB5E19B48A8, 0x391C0CB3C5C95A63, 0x4ED8AA4AE3418ACB, 0x5B9CCA4F7763E373] ++
  [0x682E6FF3D6B2B8A3, 0x748F82EE5DEFB2FC, 0x78A5636F43172F60, 0x84C87814A1F0AB72, 0x8CC702081A6439EC] ++
  [0x90BEFFFA23631E28, 0xA4506CEBDE82BDE9, 0xBEF9A3F7B2C67915, 0xC67178F2E372532B, 0xCA273ECEEA26619C] ++
  [0xD186B8C721C0C207, 0xEADA7DD6CDE0EB1E, 0xF57D4F7FEE6ED178, 0x06F067AA72176FBA, 0x0A637DC5A2C898A6] ++
  [0x113F9804BEF90DAE, 0x1B710B35131C471B, 0x28DB77F523047D84, 0x32CAAB7B40C72493, 0x3C9EBE0A15C9BEBC] ++
  [0x431D67C49C100D4C, 0x4CC5D4BECB3E42B6, 0x597F299CFC657E2A, 0x5FCB6FAB3AD6FAEC, 0x6C44198C4A475817]

/-- The initial hash value. -/
def shaH : List DWord :=
  [0x6A09E667F3BCC908, 0xBB67AE8584CAA73B, 0x3C6EF372FE94F82B, 0xA54FF53A5F1D36F1] ++
  [0x510E527FADE682D1, 0x9B05688C2B3E6C1F, 0x1F83D9ABFB41BD6B, 0x5BE0CD19137E2179]

def shaS0 (x : DWord) : DWord := x.rotateRight 1 ^^^ x.rotateRight 8 ^^^ x >>> 7
def shaS1 (x : DWord) : DWord := x.rotateRight 19 ^^^ x.rotateRight 61 ^^^ x >>> 6
def shaB0 (x : DWord) : DWord := x.rotateRight 28 ^^^ x.rotateRight 34 ^^^ x.rotateRight 39
def shaB1 (x : DWord) : DWord := x.rotateRight 14 ^^^ x.rotateRight 18 ^^^ x.rotateRight 41

/-- The message schedule: `w` holds the last 16 words, oldest first; `n` more are formed. -/
def shaSchedule (w : List DWord) : Nat → List DWord
  | 0 => []
  | n + 1 =>
    let x := nth w 0 0 + shaS0 (nth w 1 0) + nth w 9 0 + shaS1 (nth w 14 0)
    x :: shaSchedule (w.drop 1 ++ [x]) n

/-- One round. -/
def shaRound (h : List DWord) (kw : DWord × DWord) : List DWord := match h with
  | [a, b, c, d, e, f, g, i] =>
    let t1 := i + shaB1 e + ((e &&& f) ^^^ (~~~e &&& g)) + kw.1 + kw.2
    let t2 := shaB0 a + ((a &&& b) ^^^ (a &&& c) ^^^ (b &&& c))
    [t1 + t2, a, b, c, d + t1, e, f, g]
  | _ => h

/-- A block of 128 bytes as 16 big-endian words. -/
def shaWords (bs : List Byte) : List DWord := (chunks 8 16 bs).map fun c => BitVec.ofNat 64 (leNat c.reverse)

/-- One block. -/
def shaBlock (h : List DWord) (bs : List Byte) : List DWord :=
  let w := shaWords bs
  let all := w ++ shaSchedule w 64
  (h.zip ((shaK.zip all).foldl shaRound h)).map fun x => x.1 + x.2

/-- The padded message. -/
def shaPad (bs : List Byte) : List Byte :=
  bs ++ [0x80] ++ List.replicate ((239 - bs.length % 128) % 128) 0 ++ (leBytes 16 (8 * bs.length)).reverse

/-- SHA-512: 64 bytes. -/
def sha512 (bs : List Byte) : List Byte :=
  let m := shaPad bs
  ((chunks 128 (m.length / 128) m).foldl shaBlock shaH).flatMap fun w => (leBytes 8 w.toNat).reverse

/-! ### Ed25519 -/

/-- The field prime, the group order, and the curve constant d. -/
def edP : Nat := 2 ^ 255 - 19
def edL : Nat := 2 ^ 252 + 27742317777372353535851937790883648493

/-- x to the power `e`, of `bits` bits, modulo p. -/
def edPow (x e : Nat) : Nat → Nat
  | 0 => 1
  | bits + 1 =>
    let h := edPow x (e / 2) bits
    if e % 2 = 1 then h * h % edP * x % edP else h * h % edP

/-- The inverse modulo p. -/
def edInv (x : Nat) : Nat := edPow x (edP - 2) 256

def edD : Nat := (edP - 121665) * edInv 121666 % edP

/-- Subtraction modulo p. -/
def edSub (a b : Nat) : Nat := (a + edP - b % edP) % edP

/-- A point in extended coordinates. -/
structure EdPt where
  x : Nat
  y : Nat
  z : Nat
  t : Nat
  deriving DecidableEq, Repr

def edZero : EdPt := ⟨0, 1, 1, 0⟩

/-- The sum of two points. -/
def edAdd (a b : EdPt) : EdPt :=
  let u := edSub a.y a.x * edSub b.y b.x % edP
  let v := (a.y + a.x) * (b.y + b.x) % edP
  let w := 2 * a.t % edP * b.t % edP * edD % edP
  let z := 2 * a.z * b.z % edP
  let e := edSub v u
  let f := edSub z w
  let g := (z + w) % edP
  let h := (v + u) % edP
  ⟨e * f % edP, g * h % edP, f * g % edP, e * h % edP⟩

/-- `n` times a point, `n` of `bits` bits. -/
def edMul (a : EdPt) (n : Nat) : Nat → EdPt
  | 0 => edZero
  | bits + 1 =>
    let h := edMul a (n / 2) bits
    let h2 := edAdd h h
    if n % 2 = 1 then edAdd h2 a else h2

/-- Two points are equal. -/
def edEq (a b : EdPt) : Bool := decide (a.x * b.z % edP = b.x * a.z % edP) && decide (a.y * b.z % edP = b.y * a.z % edP)

/-- The point that 32 bytes encode. -/
def edDecode (bs : List Byte) : Option EdPt :=
  let n := leNat bs
  let y := n % 2 ^ 255
  let sign := n / 2 ^ 255
  if edP ≤ y then none
  else
    let u := edSub (y * y % edP) 1
    let v := (edD * (y * y % edP) + 1) % edP
    let x2 := u * edInv v % edP
    let r := edPow x2 ((edP + 3) / 8) 256
    let r := if r * r % edP = x2 then r else r * edPow 2 ((edP - 1) / 4) 256 % edP
    if r * r % edP ≠ x2 then none
    else if r = 0 ∧ sign = 1 then none
    else
      let x := if r % 2 = sign then r else edP - r
      some ⟨x, y, 1, x * y % edP⟩

/-- The base point: y = 4/5 and x even. -/
def edBase : EdPt := (edDecode (leBytes 32 (4 * edInv 5 % edP))).getD edZero

/-- A signature of 64 bytes over a message verifies under a public key of 32 bytes. -/
def edVerify (key msg sig : List Byte) : Bool :=
  let rb := sig.take 32
  let s := leNat (sig.drop 32)
  match edDecode key, edDecode rb with
  | some a, some r =>
    let k := leNat (sha512 (rb ++ key ++ msg)) % edL
    let eight (q : EdPt) : EdPt := edMul q 8 4
    decide (s < edL) && edEq (eight (edMul edBase s 256)) (eight (edAdd r (edMul a k 256)))
  | _, _ => false

end Sys2Proof.Machine
end

