-- ==== Sys2Proof/Config.lean ====
section
/-! DEFINITION. What the spec leaves open (log 6): free values. Each is an opaque constant applied to the counter
`State.free`, so that no proof can see a value of it. -/

namespace Sys2Proof

/-- A value that no rule of spec/ states (log 6): one doubleword for each value of the counter. -/
opaque Config.freeValue : Nat → BitVec 64

/-- The number by which a Lint record's ARG_0 names a rail, a group of rails or a clock (R556), which no rule gives (log 6):
0 to 2 stand for the groups ANA, IO and MEM, 3 to 6 for the VCORE planes, 8 for MGT_CLK25, 9 to 12 for the SerDes pairs and 13
for PE_REFCLK. -/
opaque Config.supplyArg : Nat → BitVec 32

/-- The exponent that a VCORE plane's controller reports in VOUT_MODE, negated: the board's (R515, log 6). -/
opaque Config.voutExp : Nat → Nat

/-- The set of its home cache that an HBM line maps to: the mapping is fixed and is not stated (R355, log 6). -/
opaque Config.cacheSet : Nat → Nat

end Sys2Proof
end

