-- ==== Sys2Proof/Machine/State.lean ====
section
/-! DEFINITION. The state of the Twigen: every register, FIFO, buffer, counter, mode and pin that spec/ gives it, as
plain data, and the queue of the commands that wait. A field's default is its reset value (R14); INVENTORY.md lists
each with its rule. A `Tab` holds a bank whose unlisted entries are at their reset value. -/

namespace Sys2Proof.Machine

/-- A value of a number format, exactly (R69, R77): a NaN, an infinity by sign, or sign, magnitude and binary
exponent, (-1)^neg * mag * 2^exp. A zero has magnitude 0 and keeps its sign (R72). -/
inductive FVal where
  | nan
  | inf (neg : Bool)
  | fin (neg : Bool) (mag : Nat) (exp : Int)
  deriving DecidableEq, Repr

/-- Counts of the conditions a command has raised (R87, R138, R308). -/
structure Conds where
  inv    : Nat := 0
  ovf    : Nat := 0
  /-- overflows into INT8 or INT32 of a vector program (R308) -/
  iovf   : Nat := 0
  deriving DecidableEq, Repr

/-- A command that has begun and not completed (R231, R232). -/
structure Flight where
  idx     : Nat
  cmd     : BitVec 256
  /-- its engine has finished with it and its writes are visible (R232) -/
  fin     : Bool := false
  /-- sub-commands of a gang that have not completed (R60) -/
  parts   : Nat := 0
  /-- HIF_TIME at its begin, for the command-tag timers (R258) -/
  begunAt : Nat := 0
  conds   : Conds := {}
  /-- predicate writes applied at its completion (R241) -/
  preds   : List (Nat × Bool) := []
  /-- predicate writes of a gang's VRUN, by the place of the member (R279) -/
  mpreds  : Tab (List (Nat × Bool)) := ⟨[]⟩
  /-- global requests of it that have no reply yet (R232, R408) -/
  reqs    : Nat := 0
  /-- the generation entry an OPTSTEP writes (R209) -/
  gen     : Option Nat := none
  /-- its completion on this device has been told to the hem group (R254) -/
  told    : Bool := false
  /-- the data queue it takes from and the one it pushes into (R248) -/
  qsrc    : Option Nat := none
  qdst    : Option Nat := none
  /-- entries of its source queue that it has still to take, and the bytes it has taken (R250) -/
  qneed   : Nat := 0
  buf     : List Byte := []
  /-- the descriptor of a SCATTER, as it stood when the command began (R375) -/
  gdesc   : BitVec 512 := 0
  /-- where its last entry stands in its destination queue, counted from the head (R250); 0 for none -/
  qend    : Nat := 0
  /-- payloads of its global read, by offset (R398) -/
  got     : List (Nat × List Byte) := []
  /-- earlier tiles that name the Press slot it fills, by index, and whether its image has still to fill the slot (R134) -/
  after   : List Nat := []
  image   : Bool := false
  /-- what a Mangle command delivers beside its conditions (R138, R166, R170) -/
  seq     : Option (BitVec 12) := none
  rung    : Option Nat := none
  isInt   : Bool := false
  scaled  : Nat := 0
  deriving DecidableEq, Repr

/-- One stream of an interface and its Bobbin (R218, R220, R231). -/
structure Stream where
  base    : DWord := 0
  count   : Nat := 0
  /-- fetched commands that have not begun, oldest first; the first has index `head` -/
  fetched : List (BitVec 256) := []
  /-- index of the head command: the number of commands that have begun or been skipped -/
  head    : Nat := 0
  /-- the head has taken its WAIT counters and read this predicate (steps 3 and 4 of R231) -/
  taken   : Option Bool := none
  /-- the run-ahead limit that applies to the head (R245) -/
  limit   : BitVec 10 := 512
  flight  : List Flight := []
  /-- TAGs of the commands that began and have failed, which never complete (R256, R259) -/
  lost    : List Nat := []
  /-- stopped at a breakpoint (R262) -/
  broken  : Bool := false
  deriving DecidableEq, Repr

/-- One command-tag timer (R258). -/
structure TagTimer where
  mtch  : Word := 0
  count : Word := 0
  time  : DWord := 0
  deriving DecidableEq, Repr

/-- The Bobbin registers of an interface that are not views of other state (R264 to R266). -/
structure Bob where
  brkEn    : BitVec 4 := 0
  runahead : BitVec 10 := 512
  brkIdxA  : Word := 0
  brkIdxX  : Word := 0
  brkTagA  : Word := 0
  brkTagX  : Word := 0
  haltIdx  : Word := 0
  haltInfo : Word := 0
  lastCode : BitVec 16 := 0
  tt       : Tab TagTimer := ⟨[]⟩
  stBusy   : Tab DWord := ⟨[]⟩
  stWait   : Tab DWord := ⟨[]⟩
  deriving DecidableEq, Repr

/-- What a Mangle command is at the accumulator store (R126): a tile, a zero-extent tile (R128) or a skip marker. -/
inductive StoreKind where
  | marker
  | zeroTile
  | tile
  deriving DecidableEq, Repr

/-- A Mangle command that the accumulator store of its interface has not handled (R126). -/
structure StoreEnt where
  idx  : Nat
  seq  : BitVec 12
  kind : StoreKind
  /-- the core whose sub-tile reaches the check first (R125) -/
  lead : CoreRef
  deriving DecidableEq, Repr

/-- A condition that a command of a span delivered (R138, R166). -/
structure Delivery where
  idx    : Nat
  strm   : Strm
  tag    : BitVec 16
  seq    : Option (BitVec 12)
  /-- the ladder rung of FMT_OUT; none off the ladder or for a vector program -/
  rung   : Option Nat
  /-- FMT_OUT is INT8 or INT32 -/
  isInt  : Bool
  /-- the kept attempt of careful mode, 0 when none (R170) -/
  scaled : Nat
  conds  : Conds
  deriving DecidableEq, Repr

/-- The span snapshot (R153). -/
structure Snap where
  tokens : Tab (BitVec 16)
  preds  : BitVec 16
  seq    : BitVec 12
  crease : Word
  posA   : Nat
  posX   : Nat
  deriving DecidableEq, Repr

/-- The summary a scheduler of a hem gang sends and keeps (R169). -/
structure HemSummary where
  ovf  : Bool
  rung : Nat
  inv  : Bool
  base : Nat
  deriving DecidableEq, Repr

/-- A layer span that has taken effect and not committed (R150 to R158). -/
structure Span where
  addr     : DWord
  desc     : BitVec 256
  snap     : Snap
  rung     : Nat
  repeats  : Nat := 0
  /-- additions to each counter from outside the span during the attempt (R239) -/
  outside  : Tab Nat := ⟨[]⟩
  /-- deliveries of the attempt, in order -/
  got      : List Delivery := []
  /-- an overflow that leads to a repeat has stopped the span (R167 phase 1) -/
  stopped  : Bool := false
  endA     : Bool := false
  endX     : Bool := false
  /-- generation entries and slots that the attempt acquired (R208) -/
  acquired : List (Nat × Bool) := []
  /-- generation releases that wait for the commit (R208) -/
  released : List (Nat × Word) := []
  sampled  : Nat := 0
  disagree : Nat := 0
  /-- the first tile found to disagree (R177, R556) -/
  odd      : Option Delivery := none
  worst    : Word := 0
  skipped  : Nat := 0
  /-- this device's summary has been sent to the hem group (R169) -/
  told     : Bool := false
  /-- the rung on which the hem group has agreed without a repeat, and whether one of its devices has an INVALID (R169) -/
  agreed   : Option Nat := none
  groupInv : Bool := false
  deriving DecidableEq, Repr

/-- What a solve has found when a test of R333 ended it, held until SOLVE_END (R335). -/
structure SolveOut where
  codes      : List (BitVec 16) := []
  /-- the last phase of R341 that it comes to before its end -/
  phase      : Nat := 6
  reason     : Nat := 0
  /-- x, or lambda, as Q integers of the solve's format and X_TAG -/
  x          : List Int := []
  iters      : Nat := 0
  /-- norms, a breach, the index and the first floored row, where the solve has come to one (R336) -/
  resNorm    : Option DWord := none
  bNorm      : Option DWord := none
  breach     : Option (Nat × Nat) := none
  index      : Option Nat := none
  pivCount   : Nat := 0
  pivFirst   : Option Nat := none
  warmUsed   : Bool := false
  warmReason : Nat := 0
  factReused : Bool := false
  hash       : DWord := 0
  nnz        : Nat := 0
  deriving DecidableEq, Repr

/-- A SOLVE or ADJOINT that has begun (R341). -/
structure Solve where
  idx  : Nat
  addr : DWord
  adj  : Bool
  desc : BitVec 2048
  /-- ITER at its begin (R100) -/
  iter : Word := 0
  out  : SolveOut
  deriving DecidableEq, Repr

/-- Sums of a row of another device's part of a K-split hem gang tile (R59, R139, log 67). -/
structure HemSum where
  slot   : BitVec 3
  /-- index of the command and repeats of its span -/
  key    : Nat
  shadow : Bool
  /-- its part has met an OVERFLOW in accumulation (R170) -/
  early  : Bool
  row    : Nat
  col    : Nat
  vals   : List DWord
  deriving DecidableEq, Repr

/-- A command interface: its scoreboard, streams and registers (R218, R231, R235, R241). -/
structure Iface where
  /-- the job that holds it, and whether it is a top-level interface of it (R218, R221) -/
  job    : Option Nat := none
  top    : Bool := false
  tokens : Tab (BitVec 16) := ⟨[]⟩
  preds  : BitVec 16 := 1
  acc    : Stream := {}
  exe    : Stream := {}
  bob    : Bob := {}
  halted : Bool := false
  /-- index of the Mangle command that halted it: tiles that stand before it complete (R256) -/
  stopAt : Option Nat := none
  /-- tile counter (R125) -/
  seq    : BitVec 12 := 0
  crease : Word := 0
  store  : List StoreEnt := []
  /-- span summaries of the hem group's devices, by hem slot, in the order of their arrival (R169) -/
  hem    : List (Nat × HemSummary) := []
  /-- commands that other devices of the hem group have completed: stream, index, hem slot (R254) -/
  hemDone : List (Strm × Nat × Nat) := []
  /-- predicate writes that came with them: index, hem slot, flags written and their values (R279) -/
  hemPreds : List (Nat × Nat × Word) := []
  /-- rows of their parts of K-split tiles that they have told (R59, R139, log 67) -/
  hemSums : List HemSum := []
  span   : Option Span := none
  solve  : Option Solve := none
  deriving DecidableEq, Repr

/-- A weight buffer (R112): the value in each cell's register, cell (k, n) at 128 k + n, +0 where none is listed. -/
structure WBuf where
  valid : Bool := false
  tag   : BitVec 16 := 0
  vals  : Tab FVal := ⟨[]⟩
  deriving DecidableEq, Repr

/-- A table slot (R132, R192, R298): 1,032 words. -/
structure TblSlot where
  valid : Bool := false
  deriv : Bool := false
  image : List Word := []
  deriving DecidableEq, Repr

/-- An entry of a data queue (R247, R249): 512 bytes, and whether it ends its group. -/
structure QEnt where
  data : List Byte
  last : Bool
  deriving DecidableEq, Repr

/-- Where a tile stands (R122, R123, R126). -/
inductive TilePhase where
  /-- begun, waiting at the Mangle's input for a slot -/
  | input
  /-- it has its slot and loads W into the named buffer (phase 1) -/
  | load
  /-- its rows stream into the array (phase 2) -/
  | stream
  /-- its reduction is complete in its bank; it waits for its check -/
  | array
  /-- its check has passed; rows go through the Press -/
  | press
  /-- its last row is written -/
  | done
  deriving DecidableEq, Repr

/-- A tile, or a member's sub-tile, that a core's Mangle has begun (R114, R123). The ranges are the part of the
command's extents that this core carries (R58). -/
structure Tile where
  owner   : IfaceId
  idx     : Nat
  op      : Byte
  /-- the descriptor, with its handles resolved (R114, R205) -/
  desc    : BitVec 1024
  /-- ITER at its begin (R100) -/
  iter    : Word := 0
  /-- frozen flag of each output row of the command, read with the descriptor (R201) -/
  frozen  : List Bool := []
  m0      : Nat
  mN      : Nat
  n0      : Nat
  nN      : Nat
  k0      : Nat
  kN      : Nat
  /-- part of a SPLIT 2 sum that drains raw accumulators (R139): its place at each nested SPLIT 2, outermost first -/
  raw     : Option (List Nat) := none
  /-- the core whose Press takes the combined rows of the sum, and their ranges m0, mN, n0, nN (R139) -/
  presser : CoreRef := 0
  region  : List Nat := []
  /-- members on other devices whose sums its Press combines with its own: place, hem slot (R59, log 67) -/
  peers   : List (Nat × Nat) := []
  /-- the hem slot of the device whose Press combines its sums, where that is another (R139) -/
  home    : Option Nat := none
  phase   : TilePhase := .input
  /-- its command's check under R126 has passed -/
  checked : Bool := false
  slot    : Option Nat := none
  /-- tiles of its HOLD chain up to this one (R575) -/
  chain   : Nat := 1
  /-- W stands in its buffer (R112) -/
  loaded  : Bool := false
  /-- the bank it has taken over, until its own sums are formed (R121) -/
  bank    : Option (List (List DWord)) := none
  /-- accumulators, one list per output row, as bits of the accumulator format -/
  acc     : List (List DWord) := []
  /-- weight values loaded, for the norm tap of kind 0 (R141) -/
  wts     : List FVal := []
  /-- entries taken from the queues of A and W (R250) -/
  qA      : List QEnt := []
  qW      : List QEnt := []
  /-- the image of the Press table slot it names, and whether it is a derivative table (R134, R193) -/
  tblImg  : List Word := []
  tblDer  : Bool := false
  /-- the LOAD, by index, that has begun before it and has still to fill that slot (R134) -/
  tblFrom : Option Nat := none
  row     : Nat := 0
  /-- conditions of the reduction, and those of the Press in this attempt -/
  conds   : Conds := {}
  pconds  : Conds := {}
  /-- OVERFLOW arose outside the conversion (R170) -/
  early   : Bool := false
  /-- attempt of careful mode, and the scale bytes first supplied to each row (R170) -/
  attempt : Nat := 0
  sup     : List (List Nat) := []
  /-- entries formed that have still to enter the output queue: those of a row that found it full (R250), and in careful
  mode those of every row, until the kept attempt (R170) -/
  rowsQ   : List QEnt := []
  /-- a row of it waits for room in its output queue (R250, R266) -/
  full    : Bool := false
  /-- converted and pre-conversion values whose taps wait for the kept attempt (R170) -/
  taps    : List (FVal × FVal) := []
  /-- conversion-error sum, count and exclusions of the tile (R142) -/
  ct      : DWord := 0
  ctCnt   : Nat := 0
  ctExcl  : Nat := 0
  /-- selected by the Crease watch and captured (R174, R175): shadow accumulators, shadow rows and converted rows -/
  sampled : Bool := false
  shadAcc : List (List DWord) := []
  shads   : List (List FVal) := []
  outs    : List (List FVal) := []
  deriving DecidableEq, Repr

/-- A held accumulator bank (R121, R146), with the output extents of its tile as the tile's descriptor gives them
(R116). -/
structure Held where
  owner : IfaceId
  seq   : BitVec 12
  slot  : Nat
  rows  : Nat
  cols  : Nat
  fp64  : Bool
  chain : Nat := 1
  acc   : List (List DWord)
  deriving DecidableEq, Repr

/-- A pending Crease sample (R175, R176): converted rows and shadow rows. -/
structure Sample where
  owner : IfaceId
  idx   : Nat
  tag   : BitVec 16 := 0
  seq   : BitVec 12 := 0
  outs  : List (List FVal)
  shad  : List (List FVal)
  deriving DecidableEq, Repr

/-- A conversion-error slot (R142, R144), or its staged copy. -/
structure Cerr where
  sum : DWord := 0
  cnt : BitVec 48 := 0
  exc : BitVec 16 := 0
  deriving DecidableEq, Repr

/-- Squares that a tile feeds to a norm slot after those of earlier tiles (R141, R158). -/
structure NormFeed where
  owner  : IfaceId
  idx    : Nat
  staged : Bool
  slot   : Nat
  vals   : List FVal
  deriving DecidableEq, Repr

/-- The Mangle and Press of a core (R105, R112, R121, R123, R132, R144 to R148). -/
structure Mangle where
  lastCode : BitVec 16 := 0
  wbuf     : Tab WBuf := ⟨[]⟩
  tiles    : List Tile := []
  held     : Option Held := none
  skew     : Word := 0
  tbl      : Tab TblSlot := ⟨[]⟩
  norm     : Tab DWord := ⟨[]⟩
  /-- feeds of norm slots that wait for earlier tiles, oldest first (R141) -/
  normWait : List NormFeed := []
  cerr     : Tab Cerr := ⟨[]⟩
  stNorm   : Tab DWord := ⟨[]⟩
  stCerr   : Tab Cerr := ⟨[]⟩
  tileCnt  : Word := 0
  tileExcl : Word := 0
  tileSum  : DWord := 0
  sample   : Option Sample := none
  deriving DecidableEq, Repr

/-- A VRUN that a vector engine runs (R275, R294, R305, R308). -/
structure VRun where
  owner : IfaceId
  idx   : Nat
  gang  : Bool
  tag   : BitVec 16 := 0
  /-- place of this core among those of the command -/
  place : Nat := 0
  /-- index of the instruction that begins next, relative to PROG -/
  next  : DWord := 0
  /-- ITER at its begin (R100) -/
  iter  : Word := 0
  conds : Conds := {}
  preds : List (Nat × Bool) := []
  /-- bytes taken from the head entry of queues 0 and 1, and whether the last byte taken ended in a last entry -/
  off0  : Nat := 0
  off1  : Nat := 0
  pop0  : Option Bool := none
  pop1  : Option Bool := none
  /-- bytes that do not yet fill an entry of queues 2 and 3, and whether any byte was pushed -/
  push2 : List Byte := []
  push3 : List Byte := []
  any2  : Bool := false
  any3  : Bool := false
  /-- the instruction that begins next has found a data queue empty or full, and waits (R250, R266) -/
  qwait : Bool := false
  deriving DecidableEq, Repr

/-- The vector engine of a core (R269, R311 to R313). S0 is never listed: it reads 0. -/
structure Vec where
  v         : Tab (BitVec 2048) := ⟨[]⟩
  s         : Tab DWord := ⟨[]⟩
  m         : Tab (BitVec 2048) := ⟨[]⟩
  vl        : BitVec 13 := 0
  vtype     : BitVec 7 := 0
  cvtCtl    : DWord := 0
  cvtIdx    : BitVec 48 := 0
  cond      : BitVec 3 := 0
  tbl       : Tab TblSlot := ⟨[]⟩
  pc        : Word := 0
  faultAddr : DWord := 0
  prog      : DWord := 0
  rsel      : Word := 0
  halted    : Bool := false
  lastCode  : BitVec 16 := 0
  run       : Option VRun := none
  deriving DecidableEq, Repr

/-- The Iron registers of a core (R343, R344). -/
structure Iron where
  state    : BitVec 2 := 0
  phase    : BitVec 3 := 0
  /-- the phase up to which PHASE counts: that in which the solve's outcome is found, or the last (log 64) -/
  last     : BitVec 3 := 6
  adj      : Bool := false
  lastCode : BitVec 16 := 0
  iter     : Word := 0
  res      : DWord := 0
  desc     : DWord := 0
  fprint   : DWord := 0
  deriving DecidableEq, Repr

/-- A sub-command of a gang's VRUN that stands in a member's Bobbin (R221, R253): the program it will run, and what it is
launched with (R275, R278). -/
structure VSub where
  run    : VRun
  prog   : DWord
  argA   : DWord
  len    : Nat
  first  : Nat
  member : Nat
  count  : Nat
  deriving DecidableEq, Repr

/-- A physical core (R32, R33). -/
structure Core where
  ifc  : Iface := {}
  mng  : Mangle := {}
  vec  : Vec := {}
  subs : List VSub := []
  iron : Iron := {}
  dq   : Tab (List QEnt) := ⟨[]⟩
  deriving DecidableEq, Repr

/-- An entry of a generation table as the schedulers hold it (R203, R204, R209). -/
structure GenEnt where
  base0   : DWord
  base1   : DWord
  size    : DWord
  gen0    : Word
  gen1    : Word
  ref0    : Nat := 0
  ref1    : Nat := 0
  ret0    : Bool := false
  ret1    : Bool := false
  writing : Bool := false
  held    : Bool := false
  deriving DecidableEq, Repr

/-- A job that runs, or has ended with its cores held (R64, R257, R471). -/
structure Job where
  ring    : Fin 8
  entry   : DWord
  desc    : BitVec 1536
  gangs   : List (BitVec 512) := []
  ifaces  : List (BitVec 256) := []
  wins    : List (BitVec 256) := []
  gens    : List GenEnt := []
  /-- state of each gang's interface, by GANG_ID (R606) -/
  gangSt  : Tab Iface := ⟨[]⟩
  iter    : Word := 0
  bcCount : BitVec 16 := 0
  /-- rung at which each LAYER_ID's patch list was last applied (R164) -/
  rungs   : Tab Nat := ⟨[]⟩
  /-- CFG_NUM_CTRL and CFG_CREASE_OFFSET as they stood at job start (R185) -/
  numCtrl : Word := 0
  crsOff  : Word := 0
  /-- physical cores held (R473) -/
  cores   : List CoreRef := []
  startNs : DWord := 0
  code    : BitVec 16 := 0
  /-- the job is halting: code and INDEX, and the offending interface where there is one (R256, R476) -/
  halt    : Option (BitVec 16 × Word × Option IfaceId × Strm) := none
  /-- the schedulers have halted every interface and the fault note is out (R256, R583) -/
  halted  : Bool := false
  /-- its completion record has been written and its cores are held (R257) -/
  ended   : Bool := false
  /-- cores marked failed while it ran (R588) -/
  failed  : List CoreRef := []
  /-- words to be zeroed and lines to be poisoned when it ends (R578) -/
  fatal   : List DWord := []
  /-- the kind of fault note its end originates, with PORT and SUBJECT; none when a remote note ends it (R582, R583) -/
  note    : Option (Nat × Nat × Nat) := none
  deriving DecidableEq, Repr

/-- One unit of a collective as it travels (R432, R433, R438). -/
structure CUnit where
  esc   : Bool := false
  scale : Byte := 0
  bits  : BitVec 1024 := 0
  deriving DecidableEq, Repr

/-- A fabric packet (R396, R397): the common header, then 48 bytes and the payload. -/
structure Packet where
  hdr  : BitVec 128
  body : List Byte
  deriving DecidableEq, Repr

/-- The state of an operation on a channel (R419, R423, R455, R458). -/
inductive COpState where
  /-- it waits for its predecessor, or for its start -/
  | waiting
  /-- it waits for its trigger or its backup decision -/
  | armed
  | moving
  | failed
  deriving DecidableEq, Repr

/-- An operation of a collective channel that has begun and not completed (R418 to R420). -/
structure COp where
  seq      : Word
  owner    : IfaceId
  idx      : Nat
  tag      : BitVec 16
  desc     : BitVec 1024
  /-- logical node of this device when the operation began (R427) -/
  node     : BitVec 14
  state    : COpState
  armIter  : Word := 0
  armedAt  : Nat := 0
  movedAt  : Nat := 0
  /-- HIF_TIME at its last progress (R454) -/
  prog     : Nat := 0
  iter     : Word := 0
  /-- DEADLINE_US has passed (R446) -/
  late     : Bool := false
  /-- units of the backup copy that have arrived, and the decision: the backup's copy is taken (R445, R446) -/
  bkUnits  : Nat := 0
  taken    : Option Bool := none
  /-- contributions of the hem reduce-scatter that have arrived, at 8 unit + slot -/
  hem      : Tab (Option CUnit) := ⟨[]⟩
  /-- sums of the hem reduce-scatter, by unit: the own contributions of the X stages -/
  part     : Tab (Option CUnit) := ⟨[]⟩
  /-- units of a reduction that must still arrive -/
  owed     : Nat := 0
  /-- packets whose credit has not returned, at 8 node + stage, by physical node (R440) -/
  out      : Tab Nat := ⟨[]⟩
  /-- packets that wait for a credit: physical node, stage -/
  stalled  : List (Nat × Nat × Packet) := []
  /-- all-to-all, per source z: rows written, and the count announced (R449) -/
  rows     : Tab Nat := ⟨[]⟩
  counts   : Tab (Option Nat) := ⟨[]⟩
  escBlk   : Nat := 0
  escDet   : Nat := 0
  firstEsc : Word := 0xFFFFFFFF
  dropped  : Nat := 0
  /-- units of SRC that it has read, and units read ahead into the spill region (R451) -/
  got      : Tab Bool := ⟨[]⟩
  ahead    : List (Nat × List Byte) := []
  /-- bytes of SRC read at its start that wait in the spill region (R451) -/
  early    : Nat := 0
  /-- DST bytes in the spill region, by offset in DST (R451) -/
  spill    : List (Nat × List Byte) := []
  /-- bytes have passed the spill region (R451, R456) -/
  spilled  : Bool := false
  /-- the stacks whose DST bytes it hands off (R452, R453) -/
  hotOff   : List Nat := []
  handed   : Bool := false
  hoFirst  : DWord := 0
  /-- handoff writes without an acknowledgement -/
  unacked  : Nat := 0
  code     : BitVec 16 := 0
  conds    : Conds := {}
  deriving DecidableEq, Repr

/-- A collective channel (R417 to R419, R457, R458). -/
structure Chan where
  seq      : Word := 0
  job      : Option Nat := none
  ops      : List COp := []
  lastCode : BitVec 16 := 0
  busyNs   : DWord := 0
  waitNs   : DWord := 0
  /-- packets that its unit had served when it last served this channel (R417) -/
  turn     : Nat := 0
  /-- keys of the jobs that held the channel and have ended (R440) -/
  past     : List Word := []
  deriving DecidableEq, Repr

/-- A route table in effect (R410). `map` holds the 16-bit entries, VALID in bit 15. -/
structure RouteTable where
  myPhys : BitVec 14
  dims   : Word
  brk    : Word
  portEn : BitVec 13
  map    : Tab (BitVec 16)
  deriving DecidableEq, Repr

/-- What stands in an input port's buffer (R393, R399). -/
inductive Load where
  /-- a control packet -/
  | ctl (p : Packet)
  /-- a flit of a data packet -/
  | flit (b : BitVec 2048)
  deriving DecidableEq, Repr

/-- A place of an input port's buffer, and the route table that it came under where another has been applied since (R412). -/
structure Cell where
  load : Load
  old  : Option RouteTable := none
  deriving DecidableEq, Repr

/-- A data packet on its way through the switch, from its head flit to its tail flit (R399). -/
structure Worm where
  /-- the header that its head flit goes on with -/
  hdr   : BitVec 128
  /-- the output port; none where nothing goes on -/
  out   : Option (Fin 13) := none
  /-- a copy is for this device -/
  here  : Bool := false
  /-- flits that have moved, and the bytes of the copy -/
  moved : Nat := 0
  bytes : List Byte := []
  deriving DecidableEq, Repr

/-- A half of a hem gang's descriptor on another device, as it told it before a job starts (R61, log 67). -/
structure HemCopy where
  key  : Word
  gang : BitVec 12
  slot : BitVec 3
  high : Bool
  bits : BitVec 256
  deriving DecidableEq, Repr

/-- A fabric port and its link layer (R393 to R395, R400, R415). -/
structure Port where
  state    : BitVec 2 := 0
  fecLock  : Bool := false
  reversed : Bool := false
  peer     : BitVec 14 := 0
  retry    : Word := 0
  fec      : Word := 0
  err      : Word := 0
  /-- the SEQ that is accepted next, and a NAK that no accepted frame has answered (R394) -/
  rxSeq    : BitVec 12 := 0
  nakSent  : Bool := false
  /-- a NAK that waits for room in the replay store -/
  nakDue   : Bool := false
  txSeq    : BitVec 12 := 0
  /-- frames sent and not acknowledged, oldest first, up to 1,024 (R394) -/
  replay   : List (BitVec 2176) := []
  /-- successive retries without progress (R395) -/
  noProg   : Nat := 0
  /-- what the input buffer holds, by VC, oldest first -/
  inq      : Tab (List Cell) := ⟨[]⟩
  /-- VCs of this link that a data packet holds until its tail has gone out (R399) -/
  held     : Tab Bool := ⟨[]⟩
  /-- the island's own packets for this port that wait for room, with their VCs (R584) -/
  outq     : List (Nat × Packet) := []
  /-- 64-byte blocks of the partner's pool in use, by VC, and blocks freed here and not yet told (R400) -/
  used     : Tab Nat := ⟨[]⟩
  owe      : Tab Nat := ⟨[]⟩
  deriving DecidableEq, Repr

/-- What an outstanding global request is (R362, R408, R452). -/
inductive ReqKind where
  | read
  | write
  | atomic
  | handoff
  deriving DecidableEq, Repr

/-- An outstanding global request: its tag, its command, and where a read's payload goes (R398, R408). -/
structure Remote where
  txn   : BitVec 16
  kind  : ReqKind
  owner : IfaceId
  /-- physical destination node -/
  node  : BitVec 14
  idx   : Nat
  chan  : Option (Fin 16) := none
  /-- global address asked -/
  addr  : DWord
  dst   : DWord := 0
  len   : Nat := 0
  got   : Nat := 0
  deriving DecidableEq, Repr

/-- The fabric island (R386, R408, R410 to R416, R584). -/
structure Fabric where
  ports    : Tab Port := ⟨[]⟩
  rt       : Option RouteTable := none
  rtShadow : DWord := 0
  rtAddr   : DWord := 0
  /-- a commit accepted and not yet applied (R412) -/
  rtWait   : Option DWord := none
  timeout  : Word := 0x3E8
  discard  : Word := 0
  lastCode : BitVec 16 := 0
  /-- packets injected from the core domain -/
  inject   : List Packet := []
  /-- packets for this device, by class -/
  eject    : Tab (List Packet) := ⟨[]⟩
  remote   : List Remote := []
  nextTxn  : BitVec 16 := 0
  /-- fault notes that have arrived, with the port each came by, oldest first (R584) -/
  noteIn   : List (Option (Fin 13) × Packet) := []
  /-- FAULT_NOTE queue that Viloth reads, 256 entries (R408) -/
  notes    : List Packet := []
  /-- origin and number of the notes seen, newest first, with HIF_TIME (R584) -/
  seen     : List (BitVec 14 × Word × Nat) := []
  /-- notes originated so far (R582) -/
  noted    : Nat := 0
  /-- global requests that wait for a reservation, and scheduler messages that wait for a credit (R362, R408) -/
  waiting  : List (Option Remote × Packet) := []
  /-- data packets on their way through the switch: at 8 port + VC, and at 104 + class for the injection queue (R399) -/
  worms    : Tab (Option Worm) := ⟨[]⟩
  /-- scheduler messages whose credit has not come back, by physical destination (R408) -/
  msgOut   : Tab Nat := ⟨[]⟩
  /-- copies of hem gangs' descriptors that other devices have told, and the keys of the jobs whose copies this one has told
  (R61, log 67) -/
  copies   : List HemCopy := []
  copied   : List Word := []
  deriving DecidableEq, Repr

/-- A job ring (R467, R468). -/
structure Ring where
  baseSh : DWord := 0
  base   : DWord := 0
  sizeSh : Word := 0
  size   : Word := 0
  tail   : BitVec 16 := 0
  head   : BitVec 16 := 0
  done   : BitVec 16 := 0
  vec    : Word := 0
  /-- the job of the entry at HEAD, read and checked, while it waits for the hem group's copies (R61, R470, log 67) -/
  taken  : Option Job := none
  deriving DecidableEq, Repr

/-- The completion of the last read or message that this model shows to its reader (log 10). -/
inductive ReplyStatus where
  | none
  | ok
  | unsupported
  | aborted
  | nack
  deriving DecidableEq, Repr

/-- Where a host's write goes (R462): BAR0, BAR2, BAR4, or, by a command of its own, a mailbox word or data window. -/
inductive PostedTo where
  | bar0
  | bar2 (off : BitVec 39) (data : List Byte)
  | bar4
  | word (p : Party) (n : Fin 16) (b : MbxBytes)
  | win (p : Party) (n : Fin 16)
  deriving DecidableEq, Repr

/-- A host's write that waits in the posted-write queue (R50), or behind one that waits there (R464). -/
structure Posted where
  off   : BitVec 26
  wide  : Bool
  value : DWord
  dest  : PostedTo := .bar0
  deriving DecidableEq, Repr

/-- The host interface (R461 to R497). -/
structure Hif where
  ready    : Bool := false
  cause    : BitVec 3 := 0
  seen     : Bool := true
  /-- IDE streams that are bound to the function, by number (R461) -/
  ideStr   : List Byte := []
  lastCode : BitVec 16 := 0
  irq      : Word := 0
  time     : DWord := 0
  rings    : Tab Ring := ⟨[]⟩
  /-- owner of each group, rank minus 1; an unlisted group has its reset owner (R478, R497) -/
  owner    : Tab (BitVec 2) := ⟨[]⟩
  /-- last outcome per group and party, at 4 g + rank - 1 (R482) -/
  status   : Tab (BitVec 16) := ⟨[]⟩
  posted   : List Posted := []
  /-- values the endpoint last received of core-domain registers, by BAR0 offset (R49) -/
  mirror   : Tab DWord := ⟨[]⟩
  msixTab  : Tab (BitVec 128) := ⟨[]⟩
  msixPend : DWord := 0
  /-- MSI-X vectors sent, newest first -/
  msixSent : List (BitVec 6) := []
  pmeSent  : Nat := 0
  d3hot    : Bool := false
  /-- vectors held until the function is back in D0 (R492) -/
  heldVec  : List (BitVec 6) := []
  linkUp   : Bool := false
  /-- PCIe configuration space is loaded (R524, R546) -/
  cfgReady : Bool := false
  /-- Uncorrectable Error Status of AER (R461) -/
  aer      : Word := 0
  deriving DecidableEq, Repr

/-- R496: an IDE stream is bound. -/
def Hif.ideUp (h : Hif) : Bool := !h.ideStr.isEmpty

/-- A mailbox channel (R489 to R491). -/
structure Mbox where
  word : DWord := 0
  low  : Word := 0
  full : Bool := false
  win  : List Word := []
  ovr  : Bool := false
  undr : Bool := false
  deriving DecidableEq, Repr

/-- The mailboxes (R488, R498). -/
structure Mbx where
  ch      : Tab Mbox := ⟨[]⟩
  irqEn   : Byte := 0
  sirqEn  : Byte := 0
  sirqVec : BitVec 6 := 0
  /-- wake events raised for Viloth and Thimble (R492) -/
  wakeV   : Bool := false
  wakeT   : Bool := false
  /-- channels whose words wait for Viloth or Thimble, in the order in which the words completed (R562) -/
  order   : List (Fin 16) := []
  deriving DecidableEq, Repr

/-- A Lint record (R554). -/
structure LintRec where
  code    : BitVec 16
  source  : Byte
  flashed : Bool := false
  seq     : Word := 0
  time    : DWord
  key     : Word
  loc     : BitVec 16
  rep     : BitVec 16 := 1
  args    : List Word
  deriving DecidableEq, Repr

/-- The Lint hub, ring and flash region (R557, R558). -/
structure Lint where
  queue    : List LintRec := []
  /-- core-domain events that wait for a free entry -/
  waiting  : List LintRec := []
  ring     : List LintRec := []
  flash    : List LintRec := []
  nextSeq  : Word := 0
  winCount : Nat := 0
  winSkip  : Nat := 0
  skip     : Word := 0
  lost     : Word := 0
  lostNew  : Nat := 0
  deriving DecidableEq, Repr

/-- The power-control lands, reset lands and clocks (R504, R520, R524). -/
structure Pins where
  vaux      : Bool := false
  enAna     : Bool := false
  enIo      : Bool := false
  enMem     : Bool := false
  enCore    : BitVec 4 := 0
  pgAna     : Bool := false
  pgIo      : Bool := false
  pgMem     : Bool := false
  pgCore    : BitVec 4 := 0
  pwrFailN  : Bool := true
  thermtrip : Bool := false
  hotN      : Bool := true
  rstN      : Bool := true
  perstN    : Bool := false
  smbAlert  : Bool := false
  mgtClk    : Bool := true
  sdClk     : BitVec 4 := 15
  peClk     : Bool := true
  /-- PMBus OPERATION on, per plane (R506) -/
  operation : BitVec 4 := 0
  deriving DecidableEq, Repr

/-- A reset or restart that is under way (R493, R549). -/
structure ResetWait where
  cause     : BitVec 3
  causeDone : Bool
  wbDone    : Bool
  linkDone  : Bool
  deriving DecidableEq, Repr

/-- The power policy (R551, R553, R571) in mV, W and 1/16 C. -/
structure Policy where
  on       : Bool := false
  v        : Nat := 0
  /-- setpoint last written to the planes (R514) -/
  now      : Nat := 0
  vset     : Nat := 750
  cap      : Nat := 2400
  capSh    : Word := 0x960
  vsetSh   : Word := 0x2EE
  tjPrev   : Int := 0
  hold     : Bool := false
  capped   : Bool := false
  atFloor  : Bool := false
  lastCode : BitVec 16 := 0
  deriving DecidableEq, Repr

/-- What Viloth has written to a VCORE plane's controller, as ULINEAR16 codes (R515, R516). -/
structure Pmb where
  command : BitVec 16 := 0
  max     : BitVec 16 := 0
  min     : BitVec 16 := 0
  ovLimit : BitVec 16 := 0
  uvLimit : BitVec 16 := 0
  deriving DecidableEq, Repr

/-- A firmware update session (R567, R568). -/
structure Update where
  target : Bool
  bytes  : Nat
  words  : Nat := 0
  hdr    : List Word := []
  erased : Bool := false
  deriving DecidableEq, Repr

/-- Viloth, Thimble and the MGT block (R530 to R571). The mirror of the block holds these fields (R569). -/
structure Mgt where
  phase    : BitVec 4 := 0
  recovery : Bool := false
  careful  : Bool := false
  folded   : Bool := false
  lastCode : BitVec 16 := 0
  fwSeq    : Word := 0
  fwInfo   : Word := 0
  bootMs   : Word := 0
  time     : DWord := 0
  /-- nanoseconds since MGT_TIME last advanced: it counts periods of the 25 MHz clock (R569) -/
  sub      : Nat := 0
  ident    : BitVec 256 := 0
  tapOpen  : Bool := false
  lintSeq  : Word := 0
  pwrState : Word := 0
  tjMax    : Word := 0
  tjDie    : Tab Word := ⟨[]⟩
  hbmTemp  : Tab Byte := ⟨[]⟩
  vcore    : Tab Word := ⟨[]⟩
  /-- by plane: the voltage and current last read over PMBus (R550), and what its controller was told -/
  vread    : Tab Word := ⟨[]⟩
  pmb      : Tab Pmb := ⟨[]⟩
  power    : Word := 0
  setpoint : Word := 0
  pace     : Tab (BitVec 12) := ⟨[]⟩
  dieTemps : List (BitVec 16) := []
  otp      : BitVec 8192 := 0
  flash    : Tab Byte := ⟨[]⟩
  /-- settings generation in use, at start-up (R537, R538) -/
  settings : Option (BitVec 256) := none
  /-- running copy: false A, true B (R543) -/
  copy     : Option Bool := none
  /-- configuration in force: bytes 0x100 to 0x127 of the chosen header (R541, R545) -/
  config   : BitVec 320 := 0
  validA   : Bool := false
  validB   : Bool := false
  update   : Option Update := none
  nonce    : Option DWord := none
  pol      : Policy := {}
  /-- Thimble domain is powered (R492, R546) -/
  thimble  : Bool := false
  deriving DecidableEq, Repr

/-- Sequencing and start-up (R506, R508, R509, R546, R549). -/
structure Seq where
  /-- VAUX phase of R546 is MGT_STATUS.PHASE; this is the power-up phase of R506, 0 when off -/
  up       : Nat := 0
  fails    : Nat := 0
  /-- power-down phase of R509, 0 when none runs -/
  down     : Nat := 0
  downCode : BitVec 16 := 0
  /-- start-up stopped until VAUX is cycled (R508, R548) -/
  stopped  : Bool := false
  retry    : Bool := false
  /-- a restart at phase 2 follows the power-down (R549) -/
  restart  : Bool := false
  coreRun  : Bool := false
  reset    : Option ResetWait := none
  /-- copies that failed their digest, kept on VAUX (R544) -/
  badA     : Bool := false
  badB     : Bool := false
  /-- stacks that have finished training, and self-test done (R546) -/
  trained  : Byte := 0
  selfDone : Bool := false
  foldAtStart : Bool := false
  /-- while Viloth restarts from ROM (R531): what the mirror of the MGT block showed when the restart began -/
  still    : Option (Mgt × Lint) := none
  deriving DecidableEq, Repr

/-- The home caches and what waits at the HBM controllers (R354, R355, R360, R361). -/
structure Home where
  /-- lines of the home caches: bit 0 present, bit 1 dirty -/
  lines : Tab (BitVec 2) := ⟨[]⟩
  /-- when each present line was last used, by a count of the accesses -/
  used  : Tab Nat := ⟨[]⟩
  clock : Nat := 0
  /-- 256-byte requests that a stack has not served, newest first: at 4 stack + class, their lines -/
  asks  : Tab (List Nat) := ⟨[]⟩
  deriving DecidableEq, Repr

/-- The memory system's registers and line states (R354, R361, R378 to R384, R580, R581). -/
structure MemSys where
  cupb      : Tab (BitVec 5) := ⟨[]⟩
  quota     : Tab Word := ⟨[]⟩
  quotaNow  : Tab Word := ⟨[]⟩
  /-- bytes that each class has received in the present window, at 4 stack + class (R361) -/
  quotaUsed : Tab Nat := ⟨[]⟩
  rinse     : Word := 0x003C1801
  rinsePass : Word := 0
  rinseCor  : Word := 0
  rinseUnc  : Word := 0
  rinseHbm  : Nat := 0
  rinseCup  : Nat := 0
  faultAddr : DWord := 0
  faultInfo : Word := 0
  hbm       : Word := 0
  critical  : Byte := 0
  home      : Home := {}
  poison    : Tab Bool := ⟨[]⟩
  lost      : Tab Bool := ⟨[]⟩
  /-- lines poisoned in the last second: stack and HIF_TIME, newest first (R581) -/
  recent    : List (Nat × Nat) := []
  retries   : Tab Nat := ⟨[]⟩
  /-- refresh commands the controller has issued, per stack (R358) -/
  refreshes : Tab Nat := ⟨[]⟩
  deriving DecidableEq, Repr

/-- The fault-tolerance registers and the Fold bridge (R602, R603, R600). -/
structure Ft where
  folded   : Bool := false
  cause    : BitVec 3 := 0
  stale    : Byte := 0
  lastCode : BitVec 16 := 0
  reread   : Word := 0
  darn     : Word := 0
  fatalLoc : Word := 0
  poison   : Word := 0
  /-- CFG_FT_NOTE_SEQ -/
  noteSeq  : Word := 0
  failed   : Tab (BitVec 9) := ⟨[]⟩
  /-- logical core that each failed core served, by physical reference (R589) -/
  served   : Tab (Option Nat) := ⟨[]⟩
  foldKey  : List Word := []
  /-- window tables of the jobs that a Fold ended, in the order of the keys (R600) -/
  foldWin  : List (List (BitVec 256)) := []
  bridge   : Bool := false
  /-- a cause of Fold that has arisen and on which Viloth has not acted (R598) -/
  want     : Option FoldCause := none
  /-- Darn recomputations under way (R575) -/
  darning  : List ParitySite := []
  deriving DecidableEq, Repr

/-- The package-level and numeric configuration registers (R39 to R42, R185, R215, R267, R457). -/
structure Cfg where
  paceNow : BitVec 12 := 0
  paceMin : BitVec 12 := 0
  coreMap : Tab Word := ⟨[]⟩
  numCtrl : Word := 0xA2
  crsOff  : Word := 0
  genSel  : Word := 0
  gangSel : Word := 0
  wdog    : Word := 0x7D0
  therm   : Word := 0x0005695F
  deriving DecidableEq, Repr

/-- The JTAG instruction register and boundary register (R526). -/
inductive JtagInstr where
  | reset
  | bypass
  | idcode
  | samplePreload
  | extest
  | clamp
  | highz
  deriving DecidableEq, Repr

/-- The test access port (R523, R526). -/
structure Jtag where
  instr  : JtagInstr := .reset
  /-- data register between TDI and TDO: the bypass bit, IDCODE, or the captured lands -/
  dr     : List Bool := []
  /-- update latches of the boundary register -/
  latch  : List Bool := []
  /-- the latches drive the lands -/
  drives : Bool := false
  floats : Bool := false
  deriving DecidableEq, Repr

/-- The block that raises a code (R555), with what its LOC names. -/
inductive Src where
  | sched (k : Nat)
  | ring (k : Nat)
  | mng (c : CoreRef)
  | vec (c : CoreRef)
  | iron (c : CoreRef)
  | bob (i : IfaceId)
  | coll (ch : Nat)
  | fab (port : Nat)
  | hif (loc : Nat)
  | mem (loc : Nat)
  | viloth
  | thimble
  deriving DecidableEq, Repr

/-- A change that the present command makes to memory, in order (log 8). -/
inductive MemOp where
  | byte (a : Nat) (v : Byte)
  | zero (lo hi : Nat)
  deriving DecidableEq, Repr

/-- The state of the Twigen. -/
structure State where
  pending  : List Instr := []
  /-- memory by physical address: HBM and Cupboard at their device addresses, Baskets by physical core (R35, R346) -/
  mem      : Tab Byte := ⟨[]⟩
  /-- changes the present command has made to memory, newest first; empty between commands (log 8) -/
  wlog     : List MemOp := []
  /-- codes the present command has raised, by block; empty between commands (R29) -/
  raised   : List (Src × BitVec 16) := []
  /-- the counter of free values (log 6) -/
  free     : Nat := 0
  replySt  : ReplyStatus := .none
  reply    : List Byte := []
  cores    : Tab Core := ⟨[]⟩
  jobs     : Tab (Option Job) := ⟨[]⟩
  jobCount : Nat := 0
  ms       : MemSys := {}
  chans    : Tab Chan := ⟨[]⟩
  fab      : Fabric := {}
  hif      : Hif := {}
  mbx      : Mbx := {}
  lint     : Lint := {}
  mgt      : Mgt := {}
  cfg      : Cfg := {}
  ft       : Ft := {}
  pins     : Pins := {}
  seq      : Seq := {}
  jtag     : Jtag := {}
  deriving DecidableEq, Repr

/-- The state after a cold start's reset, every field at its reset value. -/
def State.reset : State := {}

/-- The faults of the model: none. The Twigen has no exception that stops it; every condition is a status code, a
halted interface or a Fold, all of them next states. The one constructor is never raised by a well-formed command. -/
inductive Fault where
  /-- A command whose operands no rule gives a meaning (`Instr.wf` is false). Raised by `exec`'s meanings; safe. -/
  | illFormed
  deriving DecidableEq, Repr

/-- The refusals of the model. -/
inductive Refusal where
  /-- A command that has no meaning yet, by its mnemonic. Raised by `exec`; safe. -/
  | notModelled (mnemonic : String)
  deriving DecidableEq, Repr

end Sys2Proof.Machine
end

