-- ==== Sys2Proof/WellFormed.lean ====
section
/-! DEFINITION. The commands whose operands a rule of spec/ gives a meaning. Every other operand value is one that
the hardware cannot be given (a list of temperatures of another length than the stacks, a read above R461's request size), and its command faults. -/

namespace Sys2Proof

/-- The operands of a command are ones that can be given to the device. -/
def Instr.wf : Instr → Bool
  | .bar2Read off len => decide (len ≤ 4096) && decide (off.toNat + len ≤ 2 ^ 39)
  | .bar2Write off data => decide (data.length ≤ 512) && decide (off.toNat + data.length ≤ 2 ^ 39)
  | .hbmTempTick temps => decide (temps.length = 8)
  | .vcorePolicyTick r => decide (r.temps.length = 256) && decide (r.pace.length = 32)
  | .samplePreload a b => decide (a.length = b.length)
  | _ => true

end Sys2Proof
end

