-- ==== Sys2Proof/Machine/Ops.lean ====
section
/-! DEFINITION. The named operations over State that every meaning uses: finding a core, an interface and a job,
reading and writing memory by place, ending a command, free values and the idle tick. -/

namespace Sys2Proof.Machine

/-- The outcome of a step of this machine. -/
abbrev Out := Host.Outcome State Fault Refusal

/-! ### Memory by place, and the end of a command (log 8) -/

/-- Apply one change to memory; an unlisted byte reads 0 (log 1). -/
def MemOp.apply (o : MemOp) (m : Tab Byte) : Tab Byte :=
  match o with
  | .byte a v => m.set 0 a v
  | .zero lo hi => m.clear lo hi

/-- Apply changes to memory, first to last. -/
def writeAll : List MemOp → Tab Byte → Tab Byte
  | [], m => m
  | o :: r, m => writeAll r (o.apply m)

/-- The value the newest change gives byte `a`, if one does. -/
def logFind : List MemOp → Nat → Option Byte
  | [], _ => none
  | .byte b v :: r, a => if b = a then some v else logFind r a
  | .zero lo hi :: r, a => if lo ≤ a ∧ a < hi then some 0 else logFind r a

/-- The byte at place `a`, as the present command sees it. -/
def State.rd (s : State) (a : Nat) : Byte := (logFind s.wlog a).getD (s.mem.get 0 a)

/-- Write the byte at place `a`. -/
def State.wr (s : State) (a : Nat) (v : Byte) : State := { s with wlog := .byte a v :: s.wlog }

/-- Zero the places from `lo` up to and without `hi`. -/
def State.zeroRange (s : State) (lo hi : Nat) : State := { s with wlog := .zero lo hi :: s.wlog }

/-- The `n` bytes from place `a` up. -/
def State.rdN (s : State) (a : Nat) : Nat → List Byte
  | 0 => []
  | n + 1 => s.rd a :: s.rdN (a + 1) n

/-- Write bytes from place `a` up. -/
def State.wrN (s : State) (a : Nat) : List Byte → State
  | [] => s
  | b :: r => (s.wr a b).wrN (a + 1) r

/-- The canonical form of memory: addresses strictly rise, and no entry equals 0, which an unlisted byte reads as. -/
abbrev Memory.wf (m : Tab Byte) : Bool := m.wf 0

/-- The end of a command: the changes it made to memory take effect, and the queue is as it was. -/
def commit (s t : State) : State :=
  { t with mem := writeAll t.wlog.reverse s.mem, wlog := [], raised := [], pending := s.pending }

/-- A meaning's outcome: the command's effect `f`, or a fault for operands that the device cannot be given. -/
def run (i : Instr) (s : State) (f : State → State) : Out :=
  if i.wf then .next (commit s (f s)) else .fault .illFormed

/-! ### Free values (log 6) -/

/-- A fresh free value, and the state with the counter advanced. -/
def State.fresh (s : State) : DWord × State := (Config.freeValue s.free, { s with free := s.free + 1 })

/-! ### Cores (R33 to R36) -/

/-- CFG_CORE_MAP_k. -/
def State.mapReg (s : State) (k : Nat) : Nat := (s.cfg.coreMap.get 0x76543210#32 k).toNat

/-- R33: the reference of physical slot `slot` of cluster `k` = 8 die + cluster. -/
def refOf (k slot : Nat) : CoreRef := BitVec.ofNat 9 (16 * k + slot)

/-- R34: the physical core that serves logical core `c`, or none (R36). -/
def State.physOf (s : State) (c : Nat) : Option CoreRef :=
  let slot := fld (s.mapReg (c / 8)) (4 * (c % 8)) 4
  if c < 256 ∧ slot ≤ 8 then some (refOf (c / 8) slot) else none

/-- The logical core that a physical core serves, or none for a spare (R34). -/
def State.logicalOf (s : State) (r : CoreRef) : Option Nat :=
  let k := r.toNat / 16
  (upto 8).map (fun i => 8 * k + i) |>.find? (fun c => decide (s.physOf c = some r))

/-- The logical core number shown for a core in records and registers; a spare shows 0. -/
def State.logNo (s : State) (r : CoreRef) : Nat := (s.logicalOf r).getD 0

/-- The die of a core (R33). -/
def dieOf (r : CoreRef) : Nat := r.toNat / 128

/-- The cluster k = 8 die + cluster of a core (R33, R39). -/
def clusterOf (r : CoreRef) : Nat := r.toNat / 16

/-- A physical core. -/
def State.core (s : State) (r : CoreRef) : Core := s.cores.get {} r.toNat

/-- Replace a physical core. -/
def State.setCore (s : State) (r : CoreRef) (c : Core) : State := { s with cores := s.cores.set {} r.toNat c }

/-- Change a physical core. -/
def State.updCore (s : State) (r : CoreRef) (f : Core → Core) : State := s.setCore r (f (s.core r))

/-! ### Jobs and interfaces (R64, R218) -/

/-- A job by its number. -/
def State.job (s : State) (n : Nat) : Option Job := s.jobs.get none n

/-- Replace a job. -/
def State.setJob (s : State) (n : Nat) (j : Option Job) : State := { s with jobs := s.jobs.set none n j }

/-- Change a job, if there is one of that number. -/
def State.updJob (s : State) (n : Nat) (f : Job → Job) : State :=
  match s.job n with
  | some j => s.setJob n (some (f j))
  | none => s

/-- The job numbers in use, in ascending order. -/
def State.jobNos (s : State) : List Nat := s.jobs.keys

/-- An interface's own state. -/
def State.ifc (s : State) : IfaceId → Iface
  | .core c => (s.core c).ifc
  | .gang n g => match s.job n with
    | some j => j.gangSt.get {} g.toNat
    | none => {}

/-- Replace an interface's own state. -/
def State.setIfc (s : State) (i : IfaceId) (x : Iface) : State :=
  match i with
  | .core c => s.updCore c fun k => { k with ifc := x }
  | .gang n g => s.updJob n fun j => { j with gangSt := j.gangSt.set {} g.toNat x }

/-- Change an interface's own state. -/
def State.updIfc (s : State) (i : IfaceId) (f : Iface → Iface) : State := s.setIfc i (f (s.ifc i))

/-- The job that holds an interface. -/
def State.jobNo (s : State) : IfaceId → Option Nat
  | .core c => (s.core c).ifc.job
  | .gang n _ => (s.job n).map fun _ => n

/-- The job that holds an interface. -/
def State.jobOf (s : State) (i : IfaceId) : Option Job := (s.jobNo i).bind s.job

/-- JOB_KEY (R471). -/
def Job.key (j : Job) : Word := BitVec.ofNat 32 (wordAt j.desc.toNat 1)

/-- SEED, ITER0, BC_NEED and CH_MASK (R471). -/
def Job.seed (j : Job) : Nat := dwordAt j.desc.toNat 2
def Job.iter0 (j : Job) : Nat := wordAt j.desc.toNat 4
def Job.bcNeed (j : Job) : Nat := fld (wordAt j.desc.toNat 5) 0 16
def Job.chMask (j : Job) : Nat := fld (wordAt j.desc.toNat 5) 16 16

/-- The key of the job that holds an interface, or 0 (R554). -/
def State.keyOf (s : State) (i : IfaceId) : Word := ((s.jobOf i).map Job.key).getD 0

/-- A stream of an interface. -/
def Iface.strm (x : Iface) : Strm → Stream
  | .acc => x.acc
  | .exe => x.exe

/-- Replace a stream of an interface. -/
def Iface.setStrm (x : Iface) (st : Strm) (v : Stream) : Iface :=
  match st with
  | .acc => { x with acc := v }
  | .exe => { x with exe := v }

/-- Change a stream of an interface. -/
def State.updStrm (s : State) (i : IfaceId) (st : Strm) (f : Stream → Stream) : State :=
  s.updIfc i fun x => x.setStrm st (f (x.strm st))

/-! ### Recomputation (R575) -/

/-- A Darn unit of a site is being recomputed: its engine does nothing else. -/
def State.darns (s : State) (x : ParitySite) : Bool := s.ft.darning.contains x

end Sys2Proof.Machine
end

