-- ==== Sys2Proof/Machine/Flags.lean ====
section
/-! DEFINITION. Status codes, their classes and how two codes meet in one field (R24 to R30), and the register
fields in which a block shows its last code. The names of the codes are those of the spec's status code tables. -/

namespace Sys2Proof.Machine

namespace Code

def ok : BitVec 16 := 0x0000#16
def badEncoding : BitVec 16 := 0x0080#16
def gangBad : BitVec 16 := 0x0180#16
def wbufMismatch : BitVec 16 := 0x0380#16
def tblEmpty : BitVec 16 := 0x0381#16
def layerRepeat : BitVec 16 := 0x0440#16
def tileRescaled : BitVec 16 := 0x0441#16
def crease : BitVec 16 := 0x0442#16
def nanInvalid : BitVec 16 := 0x0480#16
def ladderExhausted : BitVec 16 := 0x0481#16
def overflowKept : BitVec 16 := 0x0482#16
def spanBad : BitVec 16 := 0x0483#16
def optNonfinite : BitVec 16 := 0x0484#16
def genHeld : BitVec 16 := 0x0540#16
def genLeak : BitVec 16 := 0x0541#16
def genAbsent : BitVec 16 := 0x0580#16
def genRetired : BitVec 16 := 0x0581#16
def genBad : BitVec 16 := 0x0582#16
def bobBreak : BitVec 16 := 0x0640#16
def tagSkew : BitVec 16 := 0x0680#16
def badCommand : BitVec 16 := 0x0681#16
def queueSkew : BitVec 16 := 0x0682#16
def tokenOverflow : BitVec 16 := 0x0683#16
def vecIllegal : BitVec 16 := 0x0780#16
def vecAddr : BitVec 16 := 0x0781#16
def irnConverged : BitVec 16 := 0x0800#16
def irnEmpty : BitVec 16 := 0x0801#16
def warmRejected : BitVec 16 := 0x0840#16
def pivotFloored : BitVec 16 := 0x0841#16
def irnIterCap : BitVec 16 := 0x0842#16
def irnStagnated : BitVec 16 := 0x0843#16
def rangeBreach : BitVec 16 := 0x0880#16
def singular : BitVec 16 := 0x0881#16
def irnBreakdown : BitVec 16 := 0x0882#16
def irnInvalid : BitVec 16 := 0x0883#16
def irnBadMatrix : BitVec 16 := 0x0884#16
def irnFactStale : BitVec 16 := 0x0885#16
def rinseCorrected : BitVec 16 := 0x0940#16
def windowFault : BitVec 16 := 0x0980#16
def memWinBad : BitVec 16 := 0x0981#16
def fabLinkDown : BitVec 16 := 0x0A80#16
def fabRtBad : BitVec 16 := 0x0A81#16
def fabBusy : BitVec 16 := 0x0A82#16
def fabDiscard : BitVec 16 := 0x0A83#16
def fabTimeout : BitVec 16 := 0x0A84#16
def fabCabling : BitVec 16 := 0x0A85#16
def collEscalated : BitVec 16 := 0x0B40#16
def collBackupTaken : BitVec 16 := 0x0B41#16
def thermalHandoff : BitVec 16 := 0x0B42#16
def collDropped : BitVec 16 := 0x0B43#16
def collStall : BitVec 16 := 0x0B80#16
def collAborted : BitVec 16 := 0x0B81#16
def collMismatch : BitVec 16 := 0x0B82#16
def superseded : BitVec 16 := 0x0C80#16
def hifRingBusy : BitVec 16 := 0x0C81#16
def hifDoorbellBad : BitVec 16 := 0x0C82#16
def hifJobBad : BitVec 16 := 0x0C83#16
def mbxOverrun : BitVec 16 := 0x0C84#16
def mbxUnderrun : BitVec 16 := 0x0C85#16
def mbxInsecure : BitVec 16 := 0x0C86#16
def pwrSeqFail : BitVec 16 := 0x0D80#16
def pwrRailLost : BitVec 16 := 0x0D81#16
def pmbFault : BitVec 16 := 0x0D82#16
def clkMissing : BitVec 16 := 0x0D83#16
def pwrFail : BitVec 16 := 0x0D84#16
def thermtrip : BitVec 16 := 0x0D85#16
def cfgCopyInvalid : BitVec 16 := 0x0E40#16
def pwrHold : BitVec 16 := 0x0E41#16
def pwrCapped : BitVec 16 := 0x0E42#16
def dbgUnlocked : BitVec 16 := 0x0E43#16
def lintFlashSkipped : BitVec 16 := 0x0E44#16
def lintGone : BitVec 16 := 0x0E45#16
def coreBistFail : BitVec 16 := 0x0E46#16
def vilothRestart : BitVec 16 := 0x0E47#16
def lintLost : BitVec 16 := 0x0E48#16
def bootThimbleFail : BitVec 16 := 0x0E80#16
def bootOtpBad : BitVec 16 := 0x0E81#16
def bootSpiFail : BitVec 16 := 0x0E82#16
def bootNoImage : BitVec 16 := 0x0E83#16
def cfgBodyBad : BitVec 16 := 0x0E84#16
def hbmTrainFail : BitVec 16 := 0x0E85#16
def updRejected : BitVec 16 := 0x0E86#16
def updBusy : BitVec 16 := 0x0E87#16
def otpFull : BitVec 16 := 0x0E88#16
def otpProgFail : BitVec 16 := 0x0E89#16
def mbxBadRequest : BitVec 16 := 0x0E8A#16
def dbgDenied : BitVec 16 := 0x0E8B#16
def mgtPolicyRefused : BitVec 16 := 0x0E8C#16
def parityReplayed : BitVec 16 := 0x0F40#16
def patchApplied : BitVec 16 := 0x0F41#16
def folded : BitVec 16 := 0x0F80#16
def parityFatal : BitVec 16 := 0x0F81#16
def hbmUncorr : BitVec 16 := 0x0F82#16
def stackFailed : BitVec 16 := 0x0F83#16
def ftRemoteHalt : BitVec 16 := 0x0F84#16
def ftHandoffHalt : BitVec 16 := 0x0F85#16

/-- R26: the values that the chapters assign. -/
def all : List (BitVec 16) :=
  [ok, badEncoding, gangBad, wbufMismatch, tblEmpty, layerRepeat, tileRescaled, crease, nanInvalid, ladderExhausted,
   overflowKept, spanBad, optNonfinite, genHeld, genLeak, genAbsent, genRetired, genBad, bobBreak, tagSkew, badCommand,
   queueSkew, tokenOverflow, vecIllegal, vecAddr, irnConverged, irnEmpty, warmRejected, pivotFloored, irnIterCap,
   irnStagnated, rangeBreach, singular, irnBreakdown, irnInvalid, irnBadMatrix, irnFactStale, rinseCorrected, windowFault,
   memWinBad, fabLinkDown, fabRtBad, fabBusy, fabDiscard, fabTimeout, fabCabling, collEscalated, collBackupTaken,
   thermalHandoff, collDropped, collStall, collAborted, collMismatch, superseded, hifRingBusy, hifDoorbellBad, hifJobBad,
   mbxOverrun, mbxUnderrun, mbxInsecure, pwrSeqFail, pwrRailLost, pmbFault, clkMissing, pwrFail, thermtrip, cfgCopyInvalid,
   pwrHold, pwrCapped, dbgUnlocked, lintFlashSkipped, lintGone, coreBistFail, vilothRestart, lintLost, bootThimbleFail,
   bootOtpBad, bootSpiFail, bootNoImage, cfgBodyBad, hbmTrainFail, updRejected, updBusy, otpFull, otpProgFail,
   mbxBadRequest, dbgDenied, mgtPolicyRefused, parityReplayed, patchApplied, folded, parityFatal, hbmUncorr, stackFailed,
   ftRemoteHalt, ftHandoffHalt]

end Code

/-- R25: the class of a code: 0 completion, 1 notice, 2 error. -/
def codeClass (c : BitVec 16) : Nat :=
  let l := c.toNat % 256
  if l < 0x40 then 0 else if l < 0x80 then 1 else 2

/-- R25: an error-class code. -/
def isError (c : BitVec 16) : Bool := codeClass c == 2

/-- R29: the code that one field keeps of two: the higher class, then the higher value. -/
def mergeCode (a b : BitVec 16) : BitVec 16 :=
  if codeClass a < codeClass b then b
  else if codeClass b < codeClass a then a
  else if a.toNat < b.toNat then b else a

/-- The code that one field keeps of a list. -/
def mergeCodes : List (BitVec 16) → BitVec 16
  | [] => 0
  | c :: r => mergeCode c (mergeCodes r)

/-- The block whose LAST_CODE field a code reaches, LOC put aside where the blocks of all LOCs share one field. -/
def Src.field : Src → Src
  | .fab _ => .fab 0
  | .hif _ => .hif 0
  | .thimble => .viloth
  | x => x

/-- Set the LAST_CODE field of a block (R144, R266, R311, R343, R414, R457, R496, R570). -/
def State.setLast (s : State) (src : Src) (c : BitVec 16) : State :=
  match src with
  | .mng r => s.updCore r fun k => { k with mng := { k.mng with lastCode := c } }
  | .vec r => s.updCore r fun k => { k with vec := { k.vec with lastCode := c } }
  | .iron r => s.updCore r fun k => { k with iron := { k.iron with lastCode := c } }
  | .bob i => s.updIfc i fun x => { x with bob := { x.bob with lastCode := c } }
  | .coll ch => { s with chans := s.chans.upd {} ch fun x => { x with lastCode := c } }
  | .fab _ => { s with fab := { s.fab with lastCode := c } }
  | .hif _ => { s with hif := { s.hif with lastCode := c } }
  | .viloth | .thimble => { s with mgt := { s.mgt with lastCode := c } }
  | _ => s

/-- A code of the fault-tolerance chapter (R26). -/
def isFt (c : BitVec 16) : Bool := c.toNat / 256 == 0x0F

/-- R602, R29: the last code of the fault-tolerance chapter, merged with those of the chapter that this step has raised. -/
def State.setLastFt (s : State) (c : BitVec 16) : State :=
  if isFt c then
    { s with ft := { s.ft with lastCode := mergeCodes (c :: (s.raised.map (·.2)).filter isFt) } }
  else s

/-- A code reaches its block's LAST_CODE field, merged with those this step has put there (R29). -/
def State.noteLast (s : State) (src : Src) (c : BitVec 16) : State :=
  let f := src.field
  let v := mergeCodes (c :: (s.raised.filter fun x => decide (x.1 = f)).map (·.2))
  let s := (s.setLast src v).setLastFt c
  { s with raised := (f, c) :: s.raised }

end Sys2Proof.Machine
end

