-- ==== Sys2Proof/Machine/Gangs.lean ====
section
/-! DEFINITION. Gang descriptors and the membership they give a job's cores and gangs (R53 to R61, R589, R606). -/

namespace Sys2Proof.Machine

/-- R53: fields of a gang descriptor. -/
def gangId (d : BitVec 512) : Nat := fld (wordAt d.toNat 0) 0 12
def gangKind (d : BitVec 512) : Nat := fld (wordAt d.toNat 0) 12 2
def gangValid (d : BitVec 512) : Bool := bitOf d.toNat 14
def gangCount (d : BitVec 512) : Nat := fld (wordAt d.toNat 0) 16 5
def gangSplit (d : BitVec 512) : Nat := fld (wordAt d.toNat 1) 0 3
def gangWinBase (d : BitVec 512) : Nat := dwordAt d.toNat 2
def gangWinSize (d : BitVec 512) : Nat := dwordAt d.toNat 4
def gangMember (d : BitVec 512) (i : Nat) : Nat := fld d.toNat (256 + 16 * i) 16
def gangMembers (d : BitVec 512) : List Nat := (upto (gangCount d)).map (gangMember d)

/-- The valid descriptor of a GANG_ID. -/
def Job.gang (j : Job) (g : Nat) : Option (BitVec 512) := j.gangs.find? fun d => gangValid d && gangId d == g

/-- R589: the physical core that a KIND 0 member entry is read as: itself, or for a failed core the core that now
serves the logical core it served, none when the map holds 0xF. -/
def State.memberCore (s : State) (m : Nat) : Option CoreRef :=
  let r := BitVec.ofNat 9 m
  let f := (s.ft.failed.get 0 (r.toNat / 16)).toNat
  if bitOf f (r.toNat % 16) then
    match s.ft.served.get none r.toNat with
    | some c => s.physOf c
    | none => none
  else some r

/-- PHYS_NODE of the configuration in force (R389, R541). -/
def State.physNode (s : State) : Nat := fld s.mgt.config.toNat 32 14

/-- The hem slot of this device: bits [2:0] of its physical node ID (R387, R389). -/
def State.hemSlot (s : State) : Nat := s.physNode % 8

/-- The own logical node ID: the first valid entry of the route table that names the physical ID (R348, R414). -/
def State.ownNode (s : State) : Option Nat := s.fab.rt.bind fun r =>
  r.map.keys.find? fun k => decide ((r.map.get 0 k).toNat = 2 ^ 15 + r.myPhys.toNat)

/-- The gangs or core that a member entry of a gang names on this device (R54): a core, or a GANG_ID; a KIND 2 entry
of another hem slot names nothing here. -/
inductive Member where
  | core (r : CoreRef)
  | gang (g : Nat)
  | other
  deriving DecidableEq, Repr

/-- R54: read a member entry. -/
def State.member (s : State) (d : BitVec 512) (m : Nat) : Member :=
  match gangKind d with
  | 0 => match s.memberCore m with
    | some r => .core r
    | none => .other
  | 1 => .gang (m % 4096)
  | _ => if fld m 12 3 = s.hemSlot then .gang (m % 4096) else .other

/-- The cores reached through a gang, in member order; `fuel` bounds the nesting (R56). -/
def State.leavesGo (s : State) (j : Job) : Nat → Nat → List CoreRef
  | 0, _ => []
  | f + 1, g => match j.gang g with
    | none => []
    | some d => (gangMembers d).flatMap fun m => match s.member d m with
      | .core r => [r]
      | .gang h => s.leavesGo j f h
      | .other => []

/-- The cores reached through a gang. -/
def State.leaves (s : State) (j : Job) (g : Nat) : List CoreRef := s.leavesGo j 257 g

/-- R606: the first core of a gang of a job: member 0 followed down to a core. Where member 0 leads to none (a nested empty
gang, or a failed core without a spare) the spec names no core; the model takes the first core that the members reach in
order (DESIGN CHOICE, log 52). -/
def State.firstCore (s : State) (j : Job) (g : Nat) : Option CoreRef := (s.leaves j g).head?

/-- The gang that has a core as a member (R55 allows one). -/
def State.parentOfCore (s : State) (j : Job) (r : CoreRef) : Option Nat :=
  (j.gangs.find? fun d => gangValid d && gangKind d == 0 && (gangMembers d).any fun m => s.memberCore m == some r).map gangId

/-- The gang that has a gang as a member. -/
def State.parentOfGang (_s : State) (j : Job) (g : Nat) : Option Nat :=
  (j.gangs.find? fun d => gangValid d && gangKind d != 0 && (gangMembers d).any fun m => m % 4096 == g).map gangId

/-- The gangs at or above a gang. -/
def State.aboveGo (s : State) (j : Job) : Nat → Nat → List Nat
  | 0, _ => []
  | f + 1, g => g :: match s.parentOfGang j g with
    | some h => s.aboveGo j f h
    | none => []

/-- The gangs at or above an interface (R366 reason 4). -/
def State.above (s : State) (j : Job) : IfaceId → List Nat
  | .core r => match s.parentOfCore j r with
    | some g => s.aboveGo j 257 g
    | none => []
  | .gang _ g => s.aboveGo j 257 g.toNat

/-- The top-level interface at or above an interface (R218). -/
def State.topOf (s : State) (i : IfaceId) : IfaceId :=
  match s.jobNo i, s.jobOf i with
  | some n, some j => match (s.above j i).getLast? with
    | some g => .gang n (BitVec.ofNat 12 g)
    | none => i
  | _, _ => i

/-- The core whose access engine carries an interface's transfers: its own, or its first core's (R252). -/
def State.engineCore (s : State) (i : IfaceId) : Option CoreRef :=
  match i with
  | .core r => some r
  | .gang n g => (s.job n).bind fun j => s.firstCore j g.toNat

/-- R606: the cluster whose scheduler runs an interface; cluster 0 of die 0 for an empty gang, and so for a gang whose
members reach no core at all. Where only member 0 reaches none, the spec names no cluster, and the model takes that of the
first core reached (DESIGN CHOICE, log 52). -/
def State.schedOf (s : State) (i : IfaceId) : Nat :=
  match s.engineCore i with
  | some r => clusterOf r
  | none => 0

/-- The cores of an interface: itself, or those reached through the gang. -/
def State.coresOf (s : State) (i : IfaceId) : List CoreRef :=
  match i with
  | .core r => [r]
  | .gang n g => match s.job n with
    | some j => s.leaves j g.toNat
    | none => []

/-- The interface ID, with KIND in bit 16, that records and Lint name (R472, R556). -/
def State.ifaceNo (s : State) (i : IfaceId) : Nat :=
  match i with
  | .core r => s.logNo r
  | .gang _ g => g.toNat + 2 ^ 16

/-- The top-level interfaces of a job: its gangs and cores that are members of no gang (R218). -/
def State.topIfaces (s : State) (n : Nat) (j : Job) : List IfaceId :=
  ((j.gangs.filter fun d => gangValid d && (s.parentOfGang j (gangId d)).isNone).map fun d =>
    IfaceId.gang n (BitVec.ofNat 12 (gangId d)))
  ++ ((j.cores.filter fun r => (s.parentOfCore j r).isNone).map IfaceId.core)

/-- Every interface of a job, members included. -/
def State.allIfaces (_s : State) (n : Nat) (j : Job) : List IfaceId :=
  ((j.gangs.filter gangValid).map fun d => IfaceId.gang n (BitVec.ofNat 12 (gangId d))) ++ j.cores.map IfaceId.core

/-- R58: the sizes of `count` contiguous, nearly equal parts of `ext` units, in member order. -/
def partSizes (ext count : Nat) : List Nat :=
  (upto count).map fun i => ext / count + if i < ext % count then 1 else 0

/-- R58: the parts as (begin, size). -/
def parts (ext count : Nat) : List (Nat × Nat) :=
  (upto count).map fun i => ((partSizes ext count).take i |>.sum, nth (partSizes ext count) i 0)

/-- R58: the parts in elements where the unit is a block of 32: (begin, size), the last block cut at the extent. -/
def blockParts (ext count : Nat) : List (Nat × Nat) :=
  (parts (ceilDiv ext 32) count).map fun (b, n) => (32 * b, Nat.min (32 * (b + n)) ext - Nat.min (32 * b) ext)

end Sys2Proof.Machine
end

