-- ==== Sys2Proof/Machine/LintLog.lean ====
section
/-! DEFINITION. The Lint hub: how an event becomes a queued record (R554 to R557, R607), and the raising of a code by a
block (R30). -/

namespace Sys2Proof.Machine

/-- R555: SOURCE of a block. -/
def Src.code : Src → Byte
  | .sched _ | .ring _ => 0x01
  | .mng _ => 0x02
  | .vec _ => 0x03
  | .iron _ => 0x04
  | .bob _ => 0x05
  | .coll _ => 0x06
  | .fab _ => 0x07
  | .hif _ => 0x08
  | .mem _ => 0x09
  | .viloth => 0x0A
  | .thimble => 0x0B

/-- R555: LOC of a block. -/
def State.loc (s : State) : Src → BitVec 16
  | .sched k => BitVec.ofNat 16 k
  | .ring k => BitVec.ofNat 16 (0x100 + k)
  | .mng r | .vec r | .iron r => BitVec.ofNat 16 (s.logNo r)
  | .bob (.core r) => BitVec.ofNat 16 (s.logNo r)
  | .bob (.gang _ g) => BitVec.ofNat 16 (0x8000 + g.toNat)
  | .coll ch => BitVec.ofNat 16 ch
  | .fab p => BitVec.ofNat 16 p
  | .hif l | .mem l => BitVec.ofNat 16 l
  | .viloth | .thimble => 0

/-- R557: blocks whose events wait under back-pressure when the queue is full: those of the core domain. Of the memory system
the Cupboards (LOC 0x10 and up) stand in it, and the HBM controllers are clocked islands. -/
def Src.coreDomain : Src → Bool
  | .mem l => decide (0x10 ≤ l)
  | .sched _ | .ring _ | .mng _ | .vec _ | .iron _ | .bob _ | .coll _ => true
  | _ => false

/-- One more occurrence in a record; REPEAT stops at 0xFFFF (R554). -/
def LintRec.bump (r : LintRec) : LintRec := { r with rep := if r.rep = 0xFFFF then r.rep else r.rep + 1 }

/-- Merge an event into the newest record (the last of the list) for which `p` holds; none where no record does. -/
def bumpLast (p : LintRec → Bool) (l : List LintRec) : Option (List LintRec) :=
  let rec go : List LintRec → Option (List LintRec)
    | [] => none
    | r :: t => if p r then some (r.bump :: t) else (go t).map (r :: ·)
  (go l.reverse).map List.reverse

/-- R557: whether an event merges into a queued record of the same CODE, SOURCE, LOC and JOB_KEY. -/
def LintRec.same (a b : LintRec) : Bool := a.code == b.code && a.source == b.source && a.loc == b.loc && a.key == b.key

/-- Entries of the hub's queue (R557). -/
def lintQueueMax : Nat := 256

/-- R557: an event reaches the hub. -/
def Lint.event (l : Lint) (core : Bool) (e : LintRec) : Lint :=
  match bumpLast e.same l.queue with
  | some q => { l with queue := q }
  | none =>
    if l.queue.length < lintQueueMax ∧ l.waiting = [] then { l with queue := l.queue ++ [e] }
    else if core then { l with waiting := l.waiting ++ [e] }
    else if l.queue.length < lintQueueMax then { l with queue := l.queue ++ [e] }
    else match bumpLast (fun r => r.source == e.source && r.loc == e.loc) l.queue with
      | some q => { l with queue := q }
      | none => { l with lost := if l.lost = 0xFFFFFFFF then l.lost else l.lost + 1, lostNew := l.lostNew + 1 }

/-- R30: log a code in Lint. -/
def State.log (s : State) (src : Src) (code : BitVec 16) (key : Word) (args : List Nat) : State :=
  let e : LintRec :=
    { code := code, source := src.code, time := s.mgt.time, key := key, loc := s.loc src,
      args := (args.take 10).map fun a => BitVec.ofNat 32 a }
  { s with lint := s.lint.event src.coreDomain e }

/-- What an unlisted MSI-X table entry reads as: PCIe's reset value, its vector masked (log 11). -/
def msixReset : BitVec 128 := BitVec.ofNat 128 (2 ^ 96)

/-- R461, R492: send an MSI-X vector: a masked one sets its pending bit, and in D3hot it is held behind a PME. -/
def State.sendVec (s : State) (v : Nat) : State :=
  let w : BitVec 6 := BitVec.ofNat 6 v
  if s.hif.d3hot then { s with hif := { s.hif with heldVec := w :: s.hif.heldVec, pmeSent := s.hif.pmeSent + 1 } }
  else if bitOf (s.hif.msixTab.get msixReset w.toNat).toNat 96 then
    { s with hif := { s.hif with msixPend := s.hif.msixPend ||| BitVec.ofNat 64 (2 ^ w.toNat) } }
  else { s with hif := { s.hif with msixSent := w :: s.hif.msixSent } }

/-- R495: the error vector, for an error-class code that HIF raises. -/
def State.hifErr (s : State) (src : Src) (code : BitVec 16) : State :=
  match src with
  | .hif _ => if isError code && bitOf s.hif.irq.toNat 16 then s.sendVec (fld s.hif.irq.toNat 8 6) else s
  | _ => s

/-- A block raises a code: its LAST_CODE field takes it, and it is logged (R30). -/
def State.raise (s : State) (src : Src) (code : BitVec 16) (key : Word) (args : List Nat) : State :=
  ((s.noteLast src code).log src code key args).hifErr src code

end Sys2Proof.Machine
end

