-- ==== Sys2Proof/Machine/Memory.lean ====
section
/-! DEFINITION. The memory system: the address map, window checks, poisoned lines, the home caches' line states, and
reading and writing by device address (R346 to R368, R580, R581). -/

namespace Sys2Proof.Machine

/-! ### Address map (R346, R347, R353) -/

def hbmEnd : Nat := 2 ^ 39
def cupbBase : Nat := 2 ^ 40
def basketBase : Nat := 2 ^ 41
def regBase : Nat := 3 * 2 ^ 40
def basketSize : Nat := 2 ^ 22

/-- E_d, the explicit ways of die d (R352). -/
def State.ways (s : State) (d : Nat) : Nat := (s.ms.cupb.get 0 d).toNat

/-- The place in memory of a device address, or none where it is unbacked or in the core register region (R346). -/
def State.place (s : State) (a : Nat) : Option Nat :=
  if a < hbmEnd then some a
  else if cupbBase ≤ a ∧ a < cupbBase + 2 ^ 34 then
    let o := a - cupbBase
    if o % 2 ^ 32 < s.ways (o / 2 ^ 32) * 2 ^ 28 then some a else none
  else if basketBase ≤ a ∧ a < basketBase + 2 ^ 30 then
    let o := a - basketBase
    (s.physOf (o / basketSize)).map fun r => basketBase + r.toNat * basketSize + o % basketSize
  else none

/-- The place of a byte of a physical core's own Basket. -/
def basketPlace (r : CoreRef) (o : Nat) : Nat := basketBase + r.toNat * basketSize + o

/-- The core register that a device address names: logical core and offset (R346). -/
def regPlace (a : Nat) : Option (Nat × Nat) :=
  if regBase ≤ a ∧ a < regBase + 2 ^ 24 then some ((a - regBase) / 2 ^ 16, (a - regBase) % 2 ^ 16) else none

/-- The HBM stack of a device address (R346). -/
def stackOf (a : Nat) : Option Nat := if a < hbmEnd then some (a / 2 ^ 36) else none

/-- R384: a stack is marked FAILED. -/
def State.stackFailed (s : State) (st : Nat) : Bool := bitOf s.ms.hbm.toNat (4 * st + 2)

/-- R347: the forms of a plain address. -/
inductive Addr where
  | dev (a : Nat)
  | global (node a : Nat)
  | reserved
  deriving DecidableEq, Repr

/-- R347: read a plain address (bits [63:62] are 0b00). -/
def plainAddr (w : Nat) : Addr :=
  if bitOf w 47 then .global (fld w 48 14) (fld w 0 47)
  else if fld w 48 14 = 0 then .dev (fld w 0 47) else .reserved

/-! ### Reading and writing bytes -/

/-- The byte at a device address; an unbacked one reads 0 (no check lets it through). -/
def State.byteAt (s : State) (a : Nat) : Byte :=
  match s.place a with
  | some p => s.rd p
  | none => 0

/-- The `n` bytes from a device address up. -/
def State.bytesAt (s : State) (a : Nat) : Nat → List Byte
  | 0 => []
  | n + 1 => s.byteAt a :: s.bytesAt (a + 1) n

/-- The little-endian number of `n` bytes at a device address (R7). -/
def State.natAt (s : State) (a n : Nat) : Nat := leNat (s.bytesAt a n)

/-- Write one byte at a device address. -/
def State.putByte (s : State) (a : Nat) (v : Byte) : State :=
  match s.place a with
  | some p => s.wr p v
  | none => s

/-- Write bytes from a device address up, the lowest first. -/
def State.putRaw (s : State) (a : Nat) : List Byte → State
  | [] => s
  | b :: r => (s.putByte a b).putRaw (a + 1) r

/-! ### Poisoned lines (R580) -/

/-- A 256-byte line is poisoned. -/
def State.poisoned (s : State) (line : Nat) : Bool := s.ms.poison.get false line

/-- The first poisoned line that a range of bytes meets. -/
def State.poisonIn (s : State) (a n : Nat) : Option Nat :=
  s.ms.poison.keys.find? fun l => decide (a < 256 * (l + 1)) && decide (256 * l < a + n)

/-- The first poisoned line that a range covers in part. -/
def State.poisonPart (s : State) (a n : Nat) : Option Nat :=
  s.ms.poison.keys.find? fun l => decide (a < 256 * (l + 1)) && decide (256 * l < a + n)
    && !(decide (a ≤ 256 * l) && decide (256 * (l + 1) ≤ a + n))

/-- Poison a line; CFG_FT_POISON counts it and stops at its largest value (R580, R602). -/
def State.poisonLine (s : State) (line : Nat) : State :=
  if s.poisoned line then s
  else { s with
    ms := { s.ms with poison := s.ms.poison.set false line true }
    ft := { s.ft with poison := if s.ft.poison = 0xFFFFFFFF then s.ft.poison else s.ft.poison + 1 } }

/-- A write of bytes a to a + n - 1 clears the poison of every line it covers whole (R580). -/
def State.unpoison (s : State) (a n : Nat) : State :=
  forEach (fun l s =>
    if decide (a ≤ 256 * l) && decide (256 * (l + 1) ≤ a + n) then
      { s with ms := { s.ms with poison := s.ms.poison.set false l false }, ft := { s.ft with poison := if s.ft.poison = 0 then 0 else s.ft.poison - 1 } }
    else s) s.ms.poison.keys s

/-- Write bytes from a device address up. -/
def State.put (s : State) (a : Nat) (bs : List Byte) : State := (s.putRaw a bs).unpoison a bs.length

/-- Free bytes: the spec gives these places no value, so each doubleword is a fresh free value (log 6). -/
def State.freeBytes (s : State) (a n : Nat) : State :=
  forEach (fun k (s : State) =>
    let (f, s) := s.fresh
    s.put (a + 8 * k) (leBytes (Nat.min 8 (n - 8 * k)) f.toNat)) (upto (ceilDiv n 8)) s

/-! ### Stacks at half rate (R384, R450) -/

/-- R384, R450: a stack runs at half rate, or is critical. -/
def State.halfRate (s : State) (st : Nat) : Bool := bitOf s.ms.hbm.toNat (4 * st + 1)
def State.critical (s : State) (st : Nat) : Bool := bitOf s.ms.critical.toNat st

/-- A device address on a stack at half rate. -/
def State.onHot (s : State) (a : Nat) : Bool := match stackOf a with
  | some st => s.halfRate st
  | none => false

/-! ### Home caches (R354, R355, R369) -/

/-- The die that owns an HBM line, when it caches anything (R352, R354). -/
def State.caches (s : State) (line : Nat) : Bool :=
  decide (256 * line < hbmEnd) && decide (s.ways (line / 2 ^ 29) < 16)

/-- A 256-byte request joins those that wait at its HBM controller (R360, R361). -/
def Home.ask (h : Home) (cls line : Nat) : Home := { h with asks := h.asks.upd [] (4 * (line / 2 ^ 28) + cls) (line :: ·) }

/-- A present line is used: it becomes the most recently used one. -/
def Home.use (h : Home) (line : Nat) (v : BitVec 2) : Home :=
  { h with lines := h.lines.set 0 line v, used := h.used.set 0 line (h.clock + 1), clock := h.clock + 1 }

/-- A line leaves its home cache. -/
def Home.drop (h : Home) (line : Nat) : Home := { h with lines := h.lines.set 0 line 0, used := h.used.set 0 line 0 }

/-- R355: the least recently used line of the set that a line of the same die maps to, where `ways` lines fill the set. -/
def Home.victim (h : Home) (ways line : Nat) : Option Nat :=
  if h.lines.cells.length < ways then none
  else
    let l := h.lines.keys.filter fun k => k / 2 ^ 29 == line / 2 ^ 29 && Config.cacheSet k == Config.cacheSet line
    if l.length < ways then none
    else match l with
      | [] => none
      | a :: r => some (r.foldl (fun a b => if h.used.get 0 b < h.used.get 0 a then b else a) a)

/-- R355: a line takes its place in a set; the line that it replaces is written back where it is dirty. The write-back has
the class of the access that calls for it (DESIGN CHOICE, log 57). -/
def Home.room (h : Home) (ways cls line : Nat) : Home :=
  match h.victim ways line with
  | none => h
  | some k => (if bitOf (h.lines.get 0 k).toNat 1 then h.ask cls k else h).drop k

/-- An access to one HBM line passes the home lookup (R354, R355): a miss asks the HBM controller and allocates unless it
streams, and a write that hits or allocates leaves the line dirty. A die that caches nothing asks its stacks directly. -/
def State.touchLine (s : State) (cls : Nat) (stream write : Bool) (line : Nat) : State :=
  let h := s.ms.home
  let l := h.lines.get 0 line
  let new : BitVec 2 := if write then 3 else l ||| 1
  let h :=
    if hbmEnd ≤ 256 * line then h
    else if !s.caches line || (decide (l = 0) && stream) then h.ask cls line
    else if l = 0 then ((h.room (16 - s.ways (line / 2 ^ 29)) cls line).ask cls line).use line new
    else h.use line new
  { s with ms := { s.ms with home := h } }

/-- An access to a range of device addresses passes the home lookups of its HBM lines; `cls` and `stream` say of an address
which class the access has there (R360) and whether its window streams (R364). -/
def State.touch (s : State) (cls : Nat → Nat) (stream : Nat → Bool) (write : Bool) (a n : Nat) : State :=
  if n = 0 ∨ hbmEnd ≤ a then s
  else forEach (fun l s => s.touchLine (cls (256 * l)) (stream (256 * l)) write l)
    (rangeFrom (a / 256) ((a + n - 1) / 256 - a / 256 + 1)) s

/-- R360: the classes of requests. -/
def clsCritical : Nat := 0
def clsBulk : Nat := 1
def clsCollective : Nat := 2
def clsBackground : Nat := 3

/-- The lookup of an access that lies in no window of a job, and so streams nowhere. -/
def State.touchPlain (s : State) (cls : Nat) (write : Bool) (a n : Nat) : State := s.touch (fun _ => cls) (fun _ => false) write a n

/-! ### Windows (R364, R366) -/

def winBase (w : BitVec 256) : Nat := dwordAt w.toNat 0
def winSize (w : BitVec 256) : Nat := dwordAt w.toNat 2
def winRd (w : BitVec 256) : Bool := bitOf w.toNat 128
def winWr (w : BitVec 256) : Bool := bitOf w.toNat 129
def winGuard (w : BitVec 256) : Bool := bitOf w.toNat 130
def winRemote (w : BitVec 256) : Bool := bitOf w.toNat 131
def winLc (w : BitVec 256) : Bool := bitOf w.toNat 132
def winStream (w : BitVec 256) : Bool := bitOf w.toNat 133

/-- A byte lies in a window. -/
def inWin (w : BitVec 256) (a : Nat) : Bool := decide (winBase w ≤ a) && decide (a < winBase w + winSize w)

/-- R383: the kinds of access. -/
inductive Acc where
  | read
  | write
  | atomic
  | fetch
  deriving DecidableEq, Repr

/-- R383: ACCESS. -/
def Acc.code : Acc → Nat
  | .read => 0
  | .write => 1
  | .atomic => 2
  | .fetch => 3

/-- R366 reason 3: the permission an access needs. -/
def winAllows (w : BitVec 256) : Acc → Bool
  | .read | .fetch => winRd w
  | .write => winWr w
  | .atomic => winRd w && winWr w

/-- R366: the first of checks 1 to 4 that a byte fails, for a list of windows and the gangs' windows at or above the
interface; 0 when every check passes. -/
def reasonAt (wins : List (BitVec 256)) (gangs : List (BitVec 512)) (k : Acc) (a : Nat) : Nat :=
  match wins.find? fun w => !winGuard w && inWin w a with
  | none => 1
  | some w =>
    if wins.any fun w => winGuard w && inWin w a then 2
    else if !winAllows w k then 3
    else if !gangs.all (fun d => decide (gangWinBase d ≤ a) && decide (a < gangWinBase d + gangWinSize d)) then 4
    else 0

/-- The points of a range at which a check can begin to fail: its first byte and each 4 KiB boundary in it. -/
def rangePoints (a n : Nat) : List Nat :=
  if n = 0 then [] else a :: (rangeFrom (a / 4096 + 1) ((a + n - 1) / 4096 - a / 4096)).map (4096 * ·)

/-- Why an access is denied: the code raised, and for WINDOW_FAULT the failing byte and the reason (R368). -/
structure Denied where
  code   : BitVec 16
  addr   : Nat
  reason : Nat
  kind   : Acc
  deriving DecidableEq, Repr

/-- The window descriptors of the gangs at or above an interface. -/
def State.gangsAbove (s : State) (i : IfaceId) : List (BitVec 512) :=
  match s.jobOf i with
  | some j => (s.above j i).filterMap j.gang
  | none => []

/-- The windows of the job that holds an interface. -/
def State.winsOf (s : State) (i : IfaceId) : List (BitVec 256) := ((s.jobOf i).map Job.wins).getD []

/-- R366, R580, R581: whether an access to a range is denied. `reg` admits the core register region (R351). -/
def State.denied (s : State) (i : IfaceId) (reg : Bool) (k : Acc) (a n : Nat) : Option Denied :=
  let ws := s.winsOf i
  let gs := s.gangsAbove i
  match firstSome (fun b =>
      let r := if !reg && (regPlace b).isSome then 1 else reasonAt ws gs k b
      if r = 0 then none else some (⟨Code.windowFault, b, r, k⟩ : Denied)) (rangePoints a n) with
  | some d => some d
  | none =>
    if n = 0 then none
    else if (rangePoints a n).any (fun b => match stackOf b with
        | some st => s.stackFailed st
        | none => false) then some ⟨Code.stackFailed, a, 0, k⟩
    else match (if k = .write then s.poisonPart a n else s.poisonIn a n) with
      | some l => some ⟨Code.hbmUncorr, 256 * l, 0, k⟩
      | none => none

/-- The ranges a command names, in the order of its fields (R368). -/
abbrev Ranges := List (Acc × Nat × Nat)

/-- R368: the first denied range of a list. -/
def State.deniedAny (s : State) (i : IfaceId) (rs : Ranges) : Option Denied :=
  firstSome (fun (k, a, n) => s.denied i false k a n) rs

/-- Whether an HBM access of an interface is made in a STREAM window (R364). -/
def State.streams (s : State) (i : IfaceId) (a : Nat) : Bool :=
  match (s.winsOf i).find? fun w => !winGuard w && inWin w a with
  | some w => winStream w
  | none => false

/-- R360: reads in a window with LC = 1 are latency-critical, and every other demand access is bulk. -/
def demandClass (wins : List (BitVec 256)) (write : Bool) (a : Nat) : Nat :=
  if !write && (wins.find? fun w => !winGuard w && inWin w a).any winLc then clsCritical else clsBulk

/-- R360: the class of a command's access at an address: fetches of commands, instructions and descriptors are latency-critical. -/
def State.classOf (s : State) (i : IfaceId) (k : Acc) (a : Nat) : Nat :=
  match k with
  | .fetch => clsCritical
  | .read => demandClass (s.winsOf i) false a
  | .write | .atomic => clsBulk

/-- The accesses of a command pass the home lookups, each line in the window that it lies in. A descriptor is read as
`.fetch` (R360). -/
def State.touchAll (s : State) (i : IfaceId) (rs : Ranges) : State :=
  forEach (fun (k, a, n) s => s.touch (s.classOf i k) (s.streams i) (k == .write || k == .atomic) a n) rs s

/-- The accesses of a collective unit pass the home lookups (R360). -/
def State.touchColl (s : State) (i : IfaceId) (rs : Ranges) : State :=
  forEach (fun (k, a, n) s => s.touch (fun _ => clsCollective) (s.streams i) (k == .write || k == .atomic) a n) rs s

end Sys2Proof.Machine
end

