-- ==== Sys2Proof/Machine/Halt.lean ====
section
/-! DEFINITION. Codes raised for a job's interface and the halting of an interface (R256, R368, R476, R556). -/

namespace Sys2Proof.Machine

/-- R222, R225: fields of a command. -/
def cmdOp (c : BitVec 256) : Nat := fld c.toNat 0 8
def cmdClass (c : BitVec 256) : Nat := fld c.toNat 8 3
def cmdPneg (c : BitVec 256) : Bool := bitOf c.toNat 11
def cmdPsel (c : BitVec 256) : Nat := fld c.toNat 12 4
def cmdTag (c : BitVec 256) : Nat := fld c.toNat 16 16
def cmdWait (c : BitVec 256) : Nat := wordAt c.toNat 1
def cmdSig (c : BitVec 256) : Nat := wordAt c.toNat 2
def cmdWord (c : BitVec 256) (w : Nat) : Nat := wordAt c.toNat w
/-- Words 3 to 4: a descriptor, a program, or SRC. -/
def cmdAddr (c : BitVec 256) : Nat := dwordAt c.toNat 3
/-- Words 5 to 6: DST, or ARG_A. -/
def cmdDst (c : BitVec 256) : Nat := dwordAt c.toNat 5
/-- Word 7: LEN and XOP. -/
def cmdLen (c : BitVec 256) : Nat := fld (wordAt c.toNat 7) 0 24
def cmdXop (c : BitVec 256) : Nat := fld (wordAt c.toNat 7) 24 4
/-- Word 3 and 4 of WAIT and SIGNAL. -/
def cmdForm (c : BitVec 256) : Nat := fld (wordAt c.toNat 3) 0 2
def cmdTkind (c : BitVec 256) : Bool := bitOf (wordAt c.toNat 3) 2
def cmdTarget (c : BitVec 256) : Nat := fld (wordAt c.toNat 3) 4 12
def cmdToken (c : BitVec 256) : Nat := fld (wordAt c.toNat 3) 16 5
def cmdGen (c : BitVec 256) : Nat := wordAt c.toNat 4

/-- The number a stream is shown by: 0 access, 1 execute (R266, R476). -/
def strmNo : Strm → Nat
  | .acc => 0
  | .exe => 1

/-- The other stream of an interface. -/
def otherStrm : Strm → Strm
  | .acc => .exe
  | .exe => .acc

/-- A code reaches the job of an interface: its completion record keeps the code that R29 chooses (R476). -/
def State.jobCode (s : State) (i : IfaceId) (code : BitVec 16) : State :=
  match s.jobNo i with
  | some n => s.updJob n fun j => { j with code := mergeCode j.code code }
  | none => s

/-- A block raises a code for the job of an interface. -/
def State.raiseFor (s : State) (src : Src) (code : BitVec 16) (i : IfaceId) (args : List Nat) : State :=
  (s.jobCode i code).raise src code (s.keyOf i) args

/-- Which command a condition belongs to: its top-level interface, stream, index and TAG. -/
structure At where
  ifc : IfaceId
  st  : Strm
  idx : Nat
  tag : Nat
  deriving DecidableEq, Repr

/-- R556: the common arguments of a code that halts an interface. -/
def State.haltArgs (s : State) (a : At) : List Nat := [s.ifaceNo a.ifc, strmNo a.st, a.idx, a.tag]

/-- R583: the kind of note of a code that halts a job on this device. SUBJECT is then the origin. -/
def haltNote (code : BitVec 16) : Nat :=
  if code = Code.ftHandoffHalt then 4 else if code = Code.stackFailed then 3 else 0

/-- R256: the first of the Mangle commands that have offended. -/
def earliest (k : Option Nat) (idx : Nat) : Option Nat := some ((k.map (Nat.min idx)).getD idx)

/-- R256: an interface halts with its state preserved; `mangle` says that the offending command is a Mangle command,
before which the earlier tiles complete. One that has halted keeps its record, and a Mangle command that offends after the
halt stops there with those behind it. The job keeps the first halt for its completion record. -/
def State.haltQuiet (s : State) (a : At) (mangle : Bool) (code : BitVec 16) : State :=
  let s := if (s.ifc a.ifc).halted then
      (if mangle then s.updIfc a.ifc fun x => { x with stopAt := earliest x.stopAt a.idx } else s)
    else
    (s.updIfc a.ifc fun x =>
      { x with
        halted := true
        stopAt := if mangle then some a.idx else none
        bob := { x.bob with
          haltIdx := BitVec.ofNat 32 a.idx
          haltInfo := BitVec.ofNat 32 (strmNo a.st + a.tag * 2 ^ 16) } }).noteLast (.bob a.ifc) code
  match s.jobNo a.ifc with
  | some n => s.updJob n fun j =>
      { j with
        halt := if j.halt.isNone then some (code, BitVec.ofNat 32 a.idx, some a.ifc, a.st) else j.halt
        note := if j.halt.isNone then some (haltNote code, 0xF, 0) else j.note }
  | none => s

/-- A code that halts an interface is raised with given arguments, and the interface halts. -/
def State.haltWith (s : State) (a : At) (mangle : Bool) (code : BitVec 16) (src : Src) (args : List Nat) : State :=
  (s.raiseFor src code a.ifc args).haltQuiet a mangle code

/-- A code that halts an interface: the common arguments of R556, then `args`. -/
def State.halt (s : State) (a : At) (mangle : Bool) (code : BitVec 16) (src : Src) (args : List Nat) : State :=
  s.haltWith a mangle code src (s.haltArgs a ++ args)

/-- R380, R383: record a window fault. -/
def State.recordFault (s : State) (d : Denied) (core : Nat) : State :=
  { s with ms := { s.ms with
      faultAddr := BitVec.ofNat 64 d.addr
      faultInfo := BitVec.ofNat 32 (d.reason + d.kind.code * 16 + core * 256) } }

/-- The source that raises a denied access: the engine for WINDOW_FAULT, the HBM controller otherwise (R580, R581). -/
def Denied.src (d : Denied) (engine : Src) : Src :=
  if d.code = Code.windowFault then engine else .mem ((stackOf d.addr).getD 0)

/-- R368, R580, R581: a denied access halts its interface; a window fault is recorded first. -/
def State.haltDenied (s : State) (a : At) (mangle : Bool) (engine : Src) (core : Nat) (d : Denied) : State :=
  let s := if d.code = Code.windowFault then s.recordFault d core else s
  s.halt a mangle d.code (d.src engine)
    (if d.code = Code.windowFault then [fld d.addr 0 32, fld d.addr 32 32, d.reason] else [])

/-- The logical core whose engine makes an interface's transfers and fetches (R383). -/
def State.engineNo (s : State) (i : IfaceId) : Nat := ((s.engineCore i).map s.logNo).getD 0

end Sys2Proof.Machine
end

