-- ==== Sys2Proof/Machine/Operands.lean ====
section
/-! DEFINITION. The number formats, their rounding and their conversions (R67 to R104): every operand form in which a
value stands in memory or in a register. -/

namespace Sys2Proof.Machine

/-! ### Formats (R67 to R69) -/

/-- R67: the sixteen formats. -/
inductive Fmt where
  | fp64
  | fp32
  | fp16
  | e8m7
  | e4m3
  | e5m2
  | mx8e4
  | mx8e5
  | mx6e3
  | mx6e2
  | mx4
  | mxi8
  | int8
  | int32
  | q32
  | q64
  deriving DecidableEq, Repr

/-- R67: the format of an FMT code; 0x10 to 0x1F are reserved. -/
def Fmt.ofCode (c : Nat) : Option Fmt :=
  [Fmt.fp64, .fp32, .fp16, .e8m7, .e4m3, .e5m2, .mx8e4, .mx8e5, .mx6e3, .mx6e2, .mx4, .mxi8, .int8, .int32, .q32, .q64][c]?

/-- R67: element width in bits. -/
def Fmt.width : Fmt → Nat
  | .fp64 | .q64 => 64
  | .fp32 | .int32 | .q32 => 32
  | .fp16 | .e8m7 => 16
  | .e4m3 | .e5m2 | .mx8e4 | .mx8e5 | .mxi8 | .int8 => 8
  | .mx6e3 | .mx6e2 => 6
  | .mx4 => 4

/-- The block-scaled formats (R75 to R79). -/
def Fmt.isMx : Fmt → Bool
  | .mx8e4 | .mx8e5 | .mx6e3 | .mx6e2 | .mx4 | .mxi8 => true
  | _ => false

/-- The integer formats (R80). -/
def Fmt.isInt : Fmt → Bool
  | .int8 | .int32 => true
  | _ => false

/-- The fixed-point formats (R81). -/
def Fmt.isQ : Fmt → Bool
  | .q32 | .q64 => true
  | _ => false

/-- R69: a floating-point encoding: exponent and fraction widths, bias, and its special encodings. -/
structure Flt where
  e    : Nat
  m    : Nat
  bias : Nat
  /-- all-ones exponent holds infinity and NaN -/
  ieee : Bool
  /-- the one code e and f all ones is a NaN (E4M3) -/
  nan1 : Bool
  deriving DecidableEq, Repr

/-- The encoding of a floating-point format, or of the elements of a block-scaled one. -/
def Fmt.flt : Fmt → Option Flt
  | .fp64 => some ⟨11, 52, 1023, true, false⟩
  | .fp32 => some ⟨8, 23, 127, true, false⟩
  | .fp16 => some ⟨5, 10, 15, true, false⟩
  | .e8m7 => some ⟨8, 7, 127, true, false⟩
  | .e4m3 | .mx8e4 => some ⟨4, 3, 7, false, true⟩
  | .e5m2 | .mx8e5 => some ⟨5, 2, 15, true, false⟩
  | .mx6e3 => some ⟨3, 2, 3, false, false⟩
  | .mx6e2 => some ⟨2, 3, 1, false, false⟩
  | .mx4 => some ⟨2, 1, 1, false, false⟩
  | _ => none

/-- FP64 and FP32, the formats of accumulators and of scalar arithmetic. -/
def flt64 : Flt := ⟨11, 52, 1023, true, false⟩
def flt32 : Flt := ⟨8, 23, 127, true, false⟩

/-- Magnitude of the largest finite value, over 2^(exponent of its last place) (R69). -/
def Flt.maxMag (f : Flt) : Nat := if f.nan1 then 2 ^ (f.m + 1) - 2 else 2 ^ (f.m + 1) - 1

/-- Exponent of the last place of the largest finite value (R69). -/
def Flt.maxExp (f : Flt) : Int := ((if f.ieee then 2 ^ f.e - 2 else 2 ^ f.e - 1 : Nat) : Int) - f.bias - f.m

/-- Exponent of the smallest subnormal (R69). -/
def Flt.quantum (f : Flt) : Int := 1 - (f.bias : Int) - f.m

/-- R68: the order of formats by width, wider is larger. -/
def Fmt.rank : Fmt → Nat
  | .mx4 => 0
  | .mx6e2 => 1
  | .mx6e3 => 2
  | .mxi8 => 3
  | .int8 => 4
  | .e4m3 | .mx8e4 => 5
  | .e5m2 | .mx8e5 => 6
  | .fp16 => 7
  | .e8m7 => 8
  | .int32 | .q32 => 9
  | .fp32 => 10
  | .q64 => 11
  | .fp64 => 12

/-! ### Exact values -/

/-- +0. -/
def FVal.zero : FVal := .fin false 0 0

/-- An integer. -/
def FVal.ofInt (i : Int) : FVal := .fin (decide (i < 0)) i.natAbs 0

/-- An integer times a power of two. -/
def FVal.ofScaled (i : Int) (e : Int) : FVal := .fin (decide (i < 0)) i.natAbs e

def FVal.isNan : FVal → Bool
  | .nan => true
  | _ => false

def FVal.isInf : FVal → Bool
  | .inf _ => true
  | _ => false

def FVal.isFinite : FVal → Bool
  | .fin .. => true
  | _ => false

def FVal.isZero : FVal → Bool
  | .fin _ m _ => m == 0
  | _ => false

/-- The sign bit; a NaN counts as positive (R71). -/
def FVal.sign : FVal → Bool
  | .nan => false
  | .inf n => n
  | .fin n _ _ => n

def FVal.neg : FVal → FVal
  | .nan => .nan
  | .inf n => .inf !n
  | .fin n m e => .fin (!n) m e

def FVal.abs : FVal → FVal
  | .nan => .nan
  | .inf _ => .inf false
  | .fin _ m e => .fin false m e

/-- A value times 2^k, exactly. -/
def FVal.scale (k : Int) : FVal → FVal
  | .fin n m e => .fin n m (e + k)
  | x => x

/-- The smaller exponent of two. -/
def minExp (a b : Int) : Int := if a ≤ b then a else b

/-- Signed magnitude over 2^e, for e not above the value's own exponent. -/
def signedAt (n : Bool) (m : Nat) (x e : Int) : Int :=
  let k := (m <<< (x - e).toNat : Nat)
  if n then -(k : Int) else (k : Int)

/-- Order of two values that are not NaN: negative when a < b, zero when equal. -/
def FVal.cmp : FVal → FVal → Int
  | .inf a, .inf b => (if a then -1 else 1) - (if b then -1 else 1)
  | .inf a, _ => if a then -1 else 1
  | _, .inf b => if b then 1 else -1
  | .fin na ma ea, .fin nb mb eb =>
    if ma = 0 then (if mb = 0 then 0 else if nb then 1 else -1)
    else if mb = 0 then (if na then -1 else 1)
    else let e := minExp ea eb
      signedAt na ma ea e - signedAt nb mb eb e
  | _, _ => 0

/-- a < b; false when either is a NaN. -/
def FVal.lt (a b : FVal) : Bool := !a.isNan && !b.isNan && decide (a.cmp b < 0)

/-- a ≤ b; false when either is a NaN. -/
def FVal.le (a b : FVal) : Bool := !a.isNan && !b.isNan && decide (a.cmp b ≤ 0)

/-- a = b as numbers; false when either is a NaN. -/
def FVal.eq (a b : FVal) : Bool := !a.isNan && !b.isNan && decide (a.cmp b = 0)

/-- The exact sum, and INVALID for infinities of unlike sign (R72, R87, R88). -/
def FVal.add : FVal → FVal → FVal × Bool
  | .nan, _ | _, .nan => (.nan, false)
  | .inf a, .inf b => if a = b then (.inf a, false) else (.nan, true)
  | .inf a, _ => (.inf a, false)
  | _, .inf b => (.inf b, false)
  | .fin na ma ea, .fin nb mb eb =>
    if ma = 0 ∧ mb = 0 then (.fin (na && nb) 0 0, false)
    else if ma = 0 then (.fin nb mb eb, false)
    else if mb = 0 then (.fin na ma ea, false)
    else
      let e := minExp ea eb
      (FVal.ofScaled (signedAt na ma ea e + signedAt nb mb eb e) e, false)

/-- The exact difference. -/
def FVal.sub (a b : FVal) : FVal × Bool := a.add b.neg

/-- The exact product, and INVALID for 0 × ∞ (R87). -/
def FVal.mul : FVal → FVal → FVal × Bool
  | .nan, _ | _, .nan => (.nan, false)
  | .inf a, .inf b => (.inf (a != b), false)
  | .inf a, .fin nb mb _ => if mb = 0 then (.nan, true) else (.inf (a != nb), false)
  | .fin na ma _, .inf b => if ma = 0 then (.nan, true) else (.inf (na != b), false)
  | .fin na ma ea, .fin nb mb eb => (.fin (na != nb) (ma * mb) (ea + eb), false)

/-- Bits that a quotient or a root is taken to beyond the destination's, with a sticky bit below them: enough for
every format here to round it as if it were exact. -/
def extraBits : Nat := 140

/-- The quotient to 140 bits and a sticky bit; INVALID for 0 ÷ 0 and ∞ ÷ ∞, OVERFLOW for a finite non-zero value
divided by zero (R87). -/
def FVal.div : FVal → FVal → FVal × Bool × Bool
  | .nan, _ | _, .nan => (.nan, false, false)
  | .inf _, .inf _ => (.nan, true, false)
  | .inf a, .fin nb _ _ => (.inf (a != nb), false, false)
  | .fin na _ _, .inf b => (.fin (na != b) 0 0, false, false)
  | .fin na ma ea, .fin nb mb eb =>
    if mb = 0 then (if ma = 0 then (.nan, true, false) else (.inf (na != nb), false, true))
    else if ma = 0 then (.fin (na != nb) 0 0, false, false)
    else
      let k := extraBits + mb.log2
      let n := ma <<< k
      (.fin (na != nb) (2 * (n / mb) + (if n % mb = 0 then 0 else 1)) (ea - eb - k - 1), false, false)

/-- Integer square root by `fuel` bits from the top. -/
def isqrtGo : Nat → Nat → Nat → Nat
  | 0, _, r => r
  | f + 1, n, r => let c := r + 2 ^ f
    isqrtGo f n (if c * c ≤ n then c else r)

/-- The largest r with r² ≤ n. -/
def isqrt (n : Nat) : Nat := isqrtGo (n.log2 / 2 + 1) n 0

/-- The square root to 140 bits and a sticky bit; INVALID below −0 (R87). -/
def FVal.sqrt : FVal → FVal × Bool
  | .nan => (.nan, false)
  | .inf n => if n then (.nan, true) else (.inf false, false)
  | .fin n m e =>
    if m = 0 then (.fin n 0 0, false)
    else if n then (.nan, true)
    else
      let (m, e) := if e % 2 = 0 then (m, e) else (2 * m, e - 1)
      let x := m <<< (2 * extraBits)
      let r := isqrt x
      (.fin false (2 * r + (if r * r = x then 0 else 1)) (e / 2 - extraBits - 1), false)

/-- min of R118 and R373: a NaN if either is, and −0 below +0. -/
def FVal.min (a b : FVal) : FVal :=
  if a.isNan || b.isNan then .nan
  else if a.cmp b < 0 then a else if a.cmp b > 0 then b else if a.sign then a else b

/-- max: a NaN if either is, and +0 above −0. -/
def FVal.max (a b : FVal) : FVal :=
  if a.isNan || b.isNan then .nan
  else if a.cmp b > 0 then a else if a.cmp b < 0 then b else if a.sign then b else a

/-! ### Rounding (R85, R86, R98) -/

/-- How a value is rounded: to nearest even, or by Sprinkle with 16 random bits. -/
inductive Rnd where
  | rne
  | spr (r : Nat)
  deriving DecidableEq, Repr

/-- The integer nearest a magnitude over 2^d, by R85 or R98. -/
def roundShift (rn : Rnd) (m d : Nat) : Nat :=
  let lo := m >>> d
  let rem := m % 2 ^ d
  match rn with
  | .rne => if 2 * rem > 2 ^ d ∨ (2 * rem = 2 ^ d ∧ lo % 2 = 1) then lo + 1 else lo
  | .spr r => if (rem * 2 ^ 16) >>> d + r ≥ 2 ^ 16 then lo + 1 else lo

/-- The integer to which mag × 2^e rounds. -/
def roundInt (rn : Rnd) (m : Nat) (e : Int) : Nat :=
  if 0 ≤ e then m <<< e.toNat else roundShift rn m (-e).toNat

/-- Exponent of the last place at which a non-zero magnitude rounds in a format (R69, R86; log 20). -/
def Flt.place (f : Flt) (m : Nat) (e : Int) : Int :=
  let q := (m.log2 : Int) + e - f.m
  if q < f.quantum then f.quantum else q

/-- Rounded magnitude and its place, with the exponent unbounded above (R86). -/
def Flt.roundMag (f : Flt) (rn : Rnd) (m : Nat) (e : Int) : Nat × Int :=
  if m = 0 then (0, f.quantum)
  else let q := f.place m e
    (roundInt rn m (e - q), q)

/-- Whether a magnitude n × 2^q is above the largest finite value (R86). -/
def Flt.isOver (f : Flt) (n : Nat) (q : Int) : Bool :=
  let e := minExp q f.maxExp
  decide (n <<< (q - e).toNat > f.maxMag <<< (f.maxExp - e).toNat)

/-- Round a value to a format with infinities (FP64, FP32, FP16, E8M7, E5M2) or E4M3 as arithmetic does: the rounded
value, and OVERFLOW. In E4M3 an overflow gives a NaN (R88). -/
def Flt.round (f : Flt) (rn : Rnd) (x : FVal) : FVal × Bool :=
  match x with
  | .nan => (.nan, false)
  | .inf s => if f.ieee then (.inf s, false) else (.nan, true)
  | .fin s m e =>
    let (n, q) := f.roundMag rn m e
    if f.isOver n q then (if f.ieee then .inf s else .nan, true) else (.fin s n q, false)

/-- The encoding of a finite magnitude n × 2^q that the format holds. -/
def Flt.encMag (f : Flt) (n : Nat) (q : Int) : Nat :=
  if n = 0 then 0
  else if n < 2 ^ f.m then n
  else if n < 2 ^ (f.m + 1) then ((q + f.m + f.bias).toNat <<< f.m) + (n - 2 ^ f.m)
  else ((q + 1 + f.m + f.bias).toNat <<< f.m) + (n / 2 - 2 ^ f.m)

/-- The sign bit of a format, set. -/
def Flt.signBit (f : Flt) (s : Bool) : Nat := if s then 2 ^ (f.e + f.m) else 0

/-- The canonical NaN (R71); formats without a NaN have none and hold zero bits. -/
def Flt.nanBits (f : Flt) : Nat :=
  if f.nan1 then 2 ^ (f.e + f.m) - 1
  else if f.ieee then ((2 ^ f.e - 1) <<< f.m) + 2 ^ (f.m - 1)
  else 0

/-- The infinity of a sign. -/
def Flt.infBits (f : Flt) (s : Bool) : Nat := f.signBit s + ((2 ^ f.e - 1) <<< f.m)

/-- The exact value of an encoding (R69, R71). -/
def Flt.dec (f : Flt) (b : Nat) : FVal :=
  let s := b.testBit (f.e + f.m)
  let e := fld b f.m f.e
  let fr := fld b 0 f.m
  if f.ieee && e == 2 ^ f.e - 1 then (if fr = 0 then .inf s else .nan)
  else if f.nan1 && e == 2 ^ f.e - 1 && fr == 2 ^ f.m - 1 then .nan
  else if e = 0 then .fin s fr f.quantum
  else .fin s (2 ^ f.m + fr) ((e : Int) - f.bias - f.m)

/-- The conditions an operation or conversion raises (R87). -/
structure Cnd where
  inv : Bool := false
  ovf : Bool := false
  rng : Bool := false
  deriving DecidableEq, Repr

/-- Conditions of two works together. -/
def Cnd.or (a b : Cnd) : Cnd := ⟨a.inv || b.inv, a.ovf || b.ovf, a.rng || b.rng⟩

/-- Conversion to a floating-point scalar (R89 to R92): bits and conditions. -/
def Flt.cvt (f : Flt) (rn : Rnd) (x : FVal) : Nat × Cnd :=
  match x with
  | .nan => (f.nanBits, {})
  | .inf s => if f.ieee then (f.infBits s, {}) else (f.signBit s + f.nanBits, { ovf := true })
  | .fin s m e =>
    let (n, q) := f.roundMag rn m e
    if f.isOver n q then (if f.ieee then f.infBits s else f.signBit s + f.nanBits, { ovf := true })
    else (f.signBit s + f.encMag n q, {})

/-- The bits of a value that the format holds exactly, a NaN or an infinity. -/
def Flt.enc (f : Flt) (x : FVal) : Nat := (f.cvt .rne x).1

/-- Conversion to an integer of `w` bits (R87, R92, R97): bits and conditions. -/
def cvtInt (w : Nat) (rn : Rnd) (x : FVal) : Nat × Cnd :=
  match x with
  | .nan => (0, { inv := true })
  | .inf s => (if s then 2 ^ (w - 1) else 2 ^ (w - 1) - 1, { ovf := true })
  | .fin s m e =>
    let n := roundInt rn m e
    if s then (if n > 2 ^ (w - 1) then (2 ^ (w - 1), { ovf := true }) else (ofSigned w (-(n : Int)), {}))
    else if n ≥ 2 ^ (w - 1) then (2 ^ (w - 1) - 1, { ovf := true })
    else (n, {})

/-- Conversion to a Q integer of `w` bits with tag `t` (R81, R82, R87, R97): the integer and conditions. -/
def cvtQ (w : Nat) (t : Int) (rn : Rnd) (x : FVal) : Int × Cnd :=
  match x with
  | .nan => (0, { inv := true })
  | .inf s => (if s then -((2 ^ (w - 1) : Nat) : Int) + 1 else ((2 ^ (w - 1) : Nat) : Int) - 1, { rng := true })
  | .fin s m e =>
    let n := roundInt rn m (e + (w - 1 : Nat) - t)
    if n ≥ 2 ^ (w - 1) then (if s then -((2 ^ (w - 1) : Nat) : Int) + 1 else ((2 ^ (w - 1) : Nat) : Int) - 1, { rng := true })
    else (if s then -(n : Int) else (n : Int), {})

/-- The value of a Q integer (R81). -/
def qVal (w : Nat) (t n : Int) : FVal := FVal.ofScaled n (t - (w - 1 : Nat))

/-- R83: the Q64 integer of a Q32 integer of the same tag, and the narrowing back and between tags. -/
def qConv (w1 : Nat) (t1 : Int) (w2 : Nat) (t2 : Int) (n : Int) : Int × Cnd := cvtQ w2 t2 .rne (qVal w1 t1 n)

/-- The value of a scalar element's bits; `tag` is the range tag of a Q format (R69, R80, R81). A block-scaled
format's element is read with scale 2^0. -/
def Fmt.dec (f : Fmt) (tag : Int) (b : Nat) : FVal :=
  match f with
  | .int8 => FVal.ofInt (toSigned 8 b)
  | .int32 => FVal.ofInt (toSigned 32 b)
  | .q32 => qVal 32 tag (toSigned 32 b)
  | .q64 => qVal 64 tag (toSigned 64 b)
  | .mxi8 => FVal.ofScaled (toSigned 8 b) (-6)
  | f => match f.flt with
    | some l => l.dec b
    | none => .nan

/-- Conversion to a scalar format (R89 to R92, R97). -/
def Fmt.cvt (f : Fmt) (tag : Int) (rn : Rnd) (x : FVal) : Nat × Cnd :=
  match f with
  | .int8 => cvtInt 8 rn x
  | .int32 => cvtInt 32 rn x
  | .q32 => let (n, c) := cvtQ 32 tag rn x; (ofSigned 32 n, c)
  | .q64 => let (n, c) := cvtQ 64 tag rn x; (ofSigned 64 n, c)
  | f => match f.flt with
    | some l => l.cvt rn x
    | none => (0, {})

/-- The rounded value of a scalar arithmetic result in a format (R86, R87): bits and conditions. -/
def Fmt.result (f : Fmt) (tag : Int) (x : FVal) (inv : Bool) : Nat × Cnd :=
  let (b, c) := f.cvt tag .rne x
  (b, { c with inv := c.inv || inv })

/-! ### Block-scaled formats (R75 to R79, R93 to R96) -/

/-- R75: the exponent of a scale byte, none for the NaN. -/
def e8m0 (x : Nat) : Option Int := if x = 0xFF then none else some ((x : Int) - 127)

/-- R77: the value of an element of a block. -/
def mxVal (f : Fmt) (scale elem : Nat) : FVal :=
  match e8m0 scale with
  | none => .nan
  | some k => (f.dec 0 elem).scale k

/-- R94: emax of a block-scaled format. -/
def Fmt.emax : Fmt → Int
  | .mx8e4 => 8
  | .mx8e5 => 15
  | .mx6e3 => 4
  | .mx6e2 | .mx4 => 2
  | _ => 0

/-- The largest exponent of the leading bit among finite non-zero values (R94): ⌊log₂ a⌋, or none when a = 0. -/
def topLog : List FVal → Option Int
  | [] => none
  | .fin _ m e :: r =>
    if m = 0 then topLog r
    else match topLog r with
      | none => some ((m.log2 : Int) + e)
      | some k => some (if k < (m.log2 : Int) + e then (m.log2 : Int) + e else k)
  | _ :: r => topLog r

/-- An element rounded on the grid of a block-scaled format: its rounded bits without overflow treatment, and whether
its magnitude is above the largest finite value. -/
def mxElem (f : Fmt) (rn : Rnd) (x : FVal) : Nat × Bool :=
  match f with
  | .mxi8 => match x with
    | .fin s m e =>
      let n := roundInt rn m (e + 6)
      if n > 127 then (if s then 0x81 else 0x7F, true) else (ofSigned 8 (if s then -(n : Int) else (n : Int)), false)
    | .inf s => (if s then 0x81 else 0x7F, true)
    | .nan => (0, false)
  | f => match f.flt with
    | none => (0, false)
    | some l => match x with
      | .fin s m e =>
        let (n, q) := l.roundMag rn m e
        if l.isOver n q then (l.signBit s + l.encMag l.maxMag l.maxExp, true) else (l.signBit s + l.encMag n q, false)
      | .inf s => (l.signBit s + l.encMag l.maxMag l.maxExp, true)
      | .nan => (0, false)

/-- A converted block: its scale byte, its element fields and OVERFLOW. -/
structure MxBlock where
  scale : Nat
  elems : List Nat
  ovf   : Bool
  deriving DecidableEq, Repr

/-- A block written as scale 0xFF with zero element fields (R92 to R94). -/
def mxNanBlock (n : Nat) (ovf : Bool) : MxBlock := ⟨0xFF, List.replicate n 0, ovf⟩

/-- Elements of MXFP8 E5M2 with infinities for those that overflow (R92). -/
def mxE5Elems (rns : List Rnd) (vs : List FVal) (k : Int) : List Nat × Bool :=
  let r := (vs.zip rns).map fun (v, rn) => match Fmt.mx8e5.flt with
    | some l => let (b, c) := l.cvt rn (v.scale (-k)); (b, c.ovf)
    | none => (0, false)
  (r.map (·.1), r.any (·.2))

/-- R92 to R94: convert a block of up to 32 values (padding left out); `supplied` is the scale byte of SCALE_MODE 1.
R94 takes a over the finite values only and names none for a block of infinities alone: its scale byte is 0x00, as where a = 0
(DESIGN CHOICE, log 72). -/
def mxConvert (f : Fmt) (supplied : Option Nat) (rns : List Rnd) (vs : List FVal) : MxBlock :=
  if vs.any FVal.isNan then mxNanBlock vs.length false
  else match supplied with
    | some b => match e8m0 b with
      | none => mxNanBlock vs.length false
      | some k =>
        if f = .mx8e5 then
          let (es, o) := mxE5Elems rns vs k
          ⟨b, es, o⟩
        else
          let r := (vs.zip rns).map fun (v, rn) => mxElem f rn (v.scale (-k))
          if r.any (·.2) then mxNanBlock vs.length true else ⟨b, r.map (·.1), false⟩
    | none =>
      let hasInf := vs.any FVal.isInf
      let x : Int := match topLog vs with
        | none => -127
        | some l => if l - f.emax < -127 then -127 else l - f.emax
      if f = .mx8e5 then
        if x > 127 then
          let (es, _) := mxE5Elems rns vs 127
          ⟨0xFE, es, true⟩
        else
          let r := (vs.zip rns).map fun (v, rn) => match v, Fmt.mx8e5.flt with
            | .inf s, some l => l.infBits s
            | v, _ => (mxElem .mx8e5 rn (v.scale (-x))).1
          ⟨(x + 127).toNat, r, false⟩
      else if x > 127 || hasInf then mxNanBlock vs.length true
      else ⟨(x + 127).toNat, (vs.zip rns).map fun (v, rn) => (mxElem f rn (v.scale (-x))).1, false⟩

/-- Bytes of a block's element array: 32 fields of `w` bits, missing ones zero (R78, R79). -/
def packElems (w : Nat) : Nat → List Nat → Nat
  | _, [] => 0
  | k, e :: r => ((e % 2 ^ w) <<< (w * k)) + packElems w (k + 1) r

/-! ### Sprinkle (R98 to R104) -/

/-- One round of the generator of R99 on (k0, k1, c0, c1, c2, c3). -/
def sprinkleRound (x : Nat × Nat × Nat × Nat × Nat × Nat) : Nat × Nat × Nat × Nat × Nat × Nat :=
  let (k0, k1, c0, c1, c2, c3) := x
  let p := c0 * 0xC3A5C85D
  let q := c2 * 0xB492B66F
  ((k0 + 0x8A5CD789) % 2 ^ 32, (k1 + 0x6D2B79F5) % 2 ^ 32,
   (fld q 32 32 ^^^ c1) ^^^ k0, fld q 0 32, (fld p 32 32 ^^^ c3) ^^^ k1, fld p 0 32)

/-- Ten rounds. -/
def sprinkleRounds : Nat → Nat × Nat × Nat × Nat × Nat × Nat → Nat × Nat × Nat × Nat × Nat × Nat
  | 0, x => x
  | n + 1, x => sprinkleRounds n (sprinkleRound x)

/-- R99: the 16 random bits for SEED, ITER, TID and IDX. -/
def sprinkle (seed iter tid idx : Nat) : Nat :=
  let x := sprinkleRounds 10 (fld seed 0 32, fld seed 32 32, fld idx 0 32, fld idx 32 16, tid % 2 ^ 32, iter % 2 ^ 32)
  fld x.2.2.1 0 16

/-- R90, R91: how a conversion rounds, from its RND and GRAD fields and the inputs of R99. -/
def rndOf (rnd grad : Bool) (seed iter tid idx : Nat) : Rnd :=
  if rnd || grad then .spr (sprinkle seed iter tid idx) else .rne

end Sys2Proof.Machine
end

