-- ==== Sys2Proof/Machine/Stream.lean ====
section
/-! DEFINITION. Streams and the scoreboard: the checks at the head of a stream, token counters, predicates, breakpoints,
beginning, skipping and completing a command (R218 to R246, R258 to R263). -/

namespace Sys2Proof.Machine

/-! ### The opcode table (R224) and the checks of the 32 bytes (R229) -/

/-- R224: the class of an opcode, and whether the access and the execute stream allow it. -/
def opInfo (op : Nat) : Option (Nat × Bool × Bool) :=
  if op ≤ 0x05 then some (0, true, true)
  else if 0x10 ≤ op ∧ op ≤ 0x13 then some (1, true, false)
  else if 0x20 ≤ op ∧ op ≤ 0x23 then some (2, false, true)
  else if op = 0x30 then some (3, false, true)
  else if op = 0x40 ∨ op = 0x41 then some (4, false, true)
  else if op = 0x50 then some (5, true, false)
  else if op = 0x60 then some (6, true, false)
  else none

/-- A Mangle command. -/
def isMangleOp (op : Nat) : Bool := decide (0x20 ≤ op) && decide (op ≤ 0x23)

/-- R228: the form of an address field. -/
def addrForm (w : Nat) : Nat := fld w 62 2

/-- R228, R347, R348: a plain device address. -/
def plainDev (w : Nat) : Bool := decide (addrForm w = 0) && match plainAddr w with
  | .dev _ => true
  | _ => false

/-- A plain address: device or global. -/
def plainAny (w : Nat) : Bool := decide (addrForm w = 0) && decide (plainAddr w ≠ .reserved)

/-- A global address. -/
def isGlobal (w : Nat) : Bool := decide (addrForm w = 0) && match plainAddr w with
  | .global .. => true
  | _ => false

/-- R205: a generation handle. -/
def isHandle (w : Nat) : Bool := addrForm w == 2

/-- R247: a well-formed data-queue reference, and its queue. -/
def queueRef (w : Nat) : Option Nat := if addrForm w = 3 ∧ fld w 2 60 = 0 then some (fld w 0 2) else none

/-- A reference to one of two queues, on a core interface (R248). -/
def queueIn (gang : Bool) (w lo hi : Nat) : Bool := match queueRef w with
  | some q => !gang && decide (lo ≤ q) && decide (q ≤ hi)
  | none => false

/-- R227: element bytes of an atomic STORE by XOP: FP32, FP64, E8M7, INT32 in each group of four. -/
def atomicSize (xop : Nat) : Nat := nth [4, 8, 2, 4] ((xop - 1) % 4) 4

/-- R227: format of an atomic STORE by XOP. -/
def atomicFmt (xop : Nat) : Fmt := nth [Fmt.fp32, .fp64, .e8m7, .int32] ((xop - 1) % 4) .fp32

/-- The device address that an address field stands for on this device, own-node global addresses included (R348). -/
def State.devOf (s : State) (w : Nat) : Option Nat :=
  if addrForm w ≠ 0 then none
  else match plainAddr w with
    | .dev a => some a
    | .global n a => if s.ownNode = some n then some a else none
    | .reserved => none

/-- Whether a device address lies in the core register region. -/
def inRegs (a : Nat) : Bool := (regPlace a).isSome

/-- R311, R343, R144, R264: offsets of a core's debug window at which an 8-byte register stands. -/
def wideReg (o : Nat) : Bool :=
  decide (o = 0x2020) || (decide (0x2100 ≤ o) && decide (o < 0x2700) && decide (o % 8 = 0))
  || (decide (0x1100 ≤ o) && decide (o < 0x1200) && decide (o % 16 = 8))
  || (decide (0x1200 ≤ o) && decide (o < 0x1300) && decide (o % 8 = 0))
  || decide (o = 0x3018) || decide (o = 0x3020) || decide (o = 0x3028) || decide (o = 0x3030) || decide (o = 0x4008) || decide (o = 0x4010) || decide (o = 0x4018)

/-- R351: an access of LEN bytes names one register. -/
def oneReg (a len : Nat) : Bool := match regPlace a with
  | some (_, o) => (decide (len = 4) && decide (a % 4 = 0)) || (decide (len = 8) && decide (a % 8 = 0) && wideReg o)
  | none => false

/-- A range of LEN bytes reaches into the core register region (R351). -/
def meetsRegs (a len : Nat) : Bool := decide (a < regBase + 2 ^ 24) && decide (regBase < a + len)

/-- R227 to R229, R348, R351: a LOAD or STORE carries a reserved encoding. -/
def State.transferBad (s : State) (gang load : Bool) (c : BitVec 256) : Bool :=
  let src := cmdAddr c
  let dst := cmdDst c
  let len := cmdLen c
  let xop := cmdXop c
  let copyRegs (w : Nat) : Bool := match s.devOf w with
    | some a => decide (0 < len) && meetsRegs a len && !oneReg a len
    | none => false
  let anyRegs (w : Nat) : Bool := match s.devOf w with
    | some a => decide (0 < len) && meetsRegs a len
    | none => false
  !zeroBits c.toNat 252 4 ||
  if load then
    decide (2 < xop) ||
    if xop = 0 then
      !(plainAny src || isHandle src) || !(plainAny dst || queueIn gang dst 0 1) || (isGlobal src && isGlobal dst)
        || copyRegs src || copyRegs dst
    else
      !(plainAny src || isHandle src) || !zeroBits dst 4 60 || !(decide (1 ≤ fld dst 0 4) && decide (fld dst 0 4 ≤ 8))
        || !(decide (len = 0) || decide (len = 4128)) || anyRegs src
  else
    decide (12 < xop) ||
    if xop = 0 then
      !(plainAny src || queueIn gang src 2 3) || !plainAny dst || (isGlobal src && isGlobal dst) || copyRegs src || copyRegs dst
    else
      !plainAny src || !plainAny dst || (isGlobal src && isGlobal dst) || decide (len % atomicSize xop ≠ 0) || anyRegs src

/-- R226, R229: a WAIT or SIGNAL carries a reserved encoding. -/
def tokenCmdBad (signal : Bool) (c : BitVec 256) : Bool :=
  let w3 := cmdWord c 3
  !zeroBits w3 3 1 || !zeroBits w3 21 11 || !zeroBits c.toNat 160 96 ||
  match cmdForm c, signal with
  | 0, _ => !zeroBits w3 2 30 || !zeroBits (cmdWord c 4) 0 32
  | 1, _ => cmdTkind c || !decide (cmdToken c = 0)
  | 2, true => !decide (cmdGen c = 0) || (!cmdTkind c && decide (255 < cmdTarget c))
  | 3, true => !zeroBits w3 2 30 || !zeroBits (cmdWord c 4) 0 32
  | _, _ => true

/-- R227 to R229: a command whose payload is one descriptor address, aligned to 2^k bytes, in words 3 to 4. -/
def descCmdBad (k : Nat) (c : BitVec 256) : Bool :=
  !plainDev (cmdAddr c) || !decide (cmdAddr c % 2 ^ k = 0) || !zeroBits c.toNat 160 96

/-- R191, R229: the splits of a gang and of every gang below it that reserve a command. -/
def State.splitsOf (s : State) (i : IfaceId) : List Nat :=
  match i with
  | .core _ => []
  | .gang n g => match s.job n with
    | none => []
    | some j =>
      let rec go : Nat → Nat → List Nat
        | 0, _ => []
        | f + 1, g => match j.gang g with
          | none => []
          | some d => gangSplit d :: (gangMembers d).flatMap fun m => match s.member d m with
            | .gang h => go f h
            | _ => []
      go 257 g.toNat

/-- A gang of KIND 2. -/
def State.kindTwo (s : State) (i : IfaceId) : Bool :=
  match i with
  | .core _ => false
  | .gang n g => match (s.job n).bind (·.gang g.toNat) with
    | some d => decide (gangKind d = 2)
    | none => false

/-- Whether an interface is a gang. -/
def isGang : IfaceId → Bool
  | .core _ => false
  | .gang .. => true

/-- R229: the 32 bytes of a command of a stream carry a reserved encoding. -/
def State.cmdBad (s : State) (i : IfaceId) (st : Strm) (c : BitVec 256) : Bool :=
  match opInfo (cmdOp c) with
  | none => true
  | some (cl, a, x) =>
    let g := isGang i
    !decide (cmdClass c = cl) || !(match st with
      | .acc => a
      | .exe => x) ||
    match cmdOp c with
    | 0x00 => !zeroBits c.toNat 96 160
    | 0x01 => tokenCmdBad false c
    | 0x02 => tokenCmdBad true c || (decide (cmdForm c = 3) && decide (((s.jobOf i).map Job.bcNeed).getD 0 = 0))
    | 0x03 => !zeroBits c.toNat 97 159
    | 0x04 | 0x05 => !zeroBits c.toNat 160 96
    | 0x10 => s.transferBad g true c
    | 0x11 => s.transferBad g false c
    | 0x12 | 0x13 => descCmdBad 6 c
    | 0x20 | 0x23 => descCmdBad 7 c
    | 0x21 => descCmdBad 7 c || (s.splitsOf i).any (· == 1)
    | 0x22 => descCmdBad 7 c || (s.splitsOf i).any (· == 0)
    | 0x30 => !plainDev (cmdAddr c) || !decide (cmdAddr c % 4 = 0) || (s.splitsOf i).any (· == 2)
    | 0x40 | 0x41 => descCmdBad 8 c || (s.splitsOf i).any (· != 0) || s.kindTwo i
    | 0x50 => descCmdBad 7 c
    | _ => !plainDev (cmdAddr c) || !decide (cmdAddr c % 128 = 0) || !zeroBits c.toNat 164 92
        || !(match s.jobOf i with
          | some j => bitOf (wordAt j.desc.toNat 5) (16 + fld (cmdWord c 5) 0 4)
          | none => false)

/-! ### Tokens (R231, R233 to R237) -/

/-- Token counter Tn of an interface. -/
def Iface.tok (x : Iface) (n : Nat) : Nat := (x.tokens.get 0 n).toNat

/-- Set a token counter. -/
def Iface.setTok (x : Iface) (n v : Nat) : Iface := { x with tokens := x.tokens.set 0 n (BitVec.ofNat 16 v) }

/-- The token numbers named in a WAIT or SIG word. -/
def maskBits (m : Nat) : List Nat := (upto 32).filter (bitOf m)

/-- Every counter named in WAIT is at least 1 (step 1 of R231). -/
def Iface.waitsMet (x : Iface) (m : Nat) : Bool := (maskBits m).all fun n => decide (1 ≤ x.tok n)

/-- Step 3 of R231: take one from each counter named in WAIT. -/
def Iface.takeToks (x : Iface) (m : Nat) : Iface := forEach (fun n x => x.setTok n (x.tok n - 1)) (maskBits m) x

/-- R233, R237: add one to each counter named in SIG; a counter at 65,535 stays. -/
def Iface.addToks (x : Iface) (m : Nat) : Iface :=
  forEach (fun n x => if x.tok n = 65535 then x else x.setTok n (x.tok n + 1)) (maskBits m) x

/-- R237: some counter named in SIG stands at 65,535. -/
def Iface.toksFull (x : Iface) (m : Nat) : Bool := (maskBits m).any fun n => decide (x.tok n = 65535)

/-- R239: additions from outside a span are remembered for a repeat. -/
def Iface.outsideAdd (x : Iface) (m : Nat) : Iface :=
  match x.span with
  | none => x
  | some sp =>
    let t := forEach (fun n (t : Tab Nat) => t.upd 0 n (· + 1)) (maskBits m) sp.outside
    { x with span := some { sp with outside := t } }

/-- R242: the predicate of a command. -/
def Iface.pred (x : Iface) (c : BitVec 256) : Bool :=
  (if cmdPsel c = 0 then true else bitOf x.preds.toNat (cmdPsel c)) != cmdPneg c

/-- R241: apply predicate writes; a write to P0 is ignored. -/
def Iface.writePreds (x : Iface) (ps : List (Nat × Bool)) : Iface :=
  forEach (fun (n, b) x => if n = 0 then x else
    { x with preds := BitVec.ofNat 16 (setFld x.preds.toNat n 1 (b2n b)) }) ps x

/-! ### The span as it bears on streams (R157, R166) -/

/-- Commands that may not appear inside a span (R157). -/
def forbiddenInSpan (c : BitVec 256) : Bool :=
  match cmdOp c with
  | 0x04 | 0x13 | 0x40 | 0x41 | 0x50 | 0x60 => true
  | 0x11 => decide (cmdXop c ≠ 0)
  | 0x02 => decide (cmdForm c = 3)
  | _ => false

/-- R162: the rung of an output format; none for INT8 and INT32. -/
def rungOf (fmt : Nat) : Option Nat :=
  match fmt with
  | 0x0A => some 0
  | 0x08 | 0x09 => some 1
  | 0x04 | 0x05 | 0x06 | 0x07 | 0x0B => some 2
  | 0x02 | 0x03 => some 3
  | 0x01 => some 4
  | 0x00 => some 5
  | _ => none

/-- R159: fields of a layer descriptor. -/
def layerId (d : BitVec 256) : Nat := fld d.toNat 0 12
def layerMaxRung (d : BitVec 256) : Nat := fld d.toNat 12 3
def layerCrease (d : BitVec 256) : Bool := bitOf d.toNat 15
def layerPatches (d : BitVec 256) : Nat := fld d.toNat 16 8
def layerThr (d : BitVec 256) : Nat := wordAt d.toNat 1
def layerState (d : BitVec 256) : Nat := dwordAt d.toNat 2
def layerPatchAddr (d : BitVec 256) : Nat := dwordAt d.toNat 4

/-- R166: a delivery of OVERFLOW that leads to a repeat. -/
def Delivery.overflows (d : Delivery) : Bool := decide (0 < d.conds.ovf) && !d.isInt

/-- R166: a command of the span has delivered INVALID. -/
def Span.invalid (sp : Span) : Bool := sp.got.any fun d => decide (0 < d.conds.inv)

/-- R166, R308: an overflow that leads to no repeat: into INT8 or INT32. -/
def Delivery.intOverflow (d : Delivery) : Bool := (d.isInt && decide (0 < d.conds.ovf)) || decide (0 < d.conds.iovf)

/-- R166: an overflow of the span leads to a repeat. -/
def Span.overflowed (sp : Span) : Bool := !sp.invalid && sp.got.any Delivery.overflows

/-- R166: the new rung of a repeat. -/
def Span.newRung (sp : Span) : Nat :=
  (sp.got.filter Delivery.overflows).foldl (fun r d => match d.rung with
    | some k => Nat.max r (k + 1)
    | none => r) (sp.rung + 1)

/-! ### The head of a stream -/

/-- The head command of a stream, if it has been fetched. -/
def Stream.cur (t : Stream) : Option (BitVec 256) := t.fetched.head?

/-- The place of a stream's head command, for codes that name it. -/
def State.headAt (s : State) (i : IfaceId) (st : Strm) (c : BitVec 256) : At := ⟨i, st, ((s.ifc i).strm st).head, cmdTag c⟩

/-- R261: a breakpoint of the stream matches the head command. -/
def Bob.breaks (b : Bob) (st : Strm) (idx tag : Nat) : Bool :=
  let ie := bitOf b.brkEn.toNat (2 * strmNo st)
  let te := bitOf b.brkEn.toNat (2 * strmNo st + 1)
  let bi := match st with
    | .acc => b.brkIdxA
    | .exe => b.brkIdxX
  let bt := match st with
    | .acc => b.brkTagA
    | .exe => b.brkTagX
  (ie && decide (bi.toNat = idx)) || (te && decide ((tag ^^^ fld bt.toNat 0 16) &&& fld bt.toNat 16 16 = 0))

/-- The LAYER_END of a stream of the span has begun (R154). -/
def Span.ended (sp : Span) : Strm → Bool
  | .acc => sp.endA
  | .exe => sp.endX

/-- R57: the interface is an empty gang. -/
def State.emptyGang (s : State) (i : IfaceId) : Bool :=
  match i with
  | .core _ => false
  | .gang n g => match (s.job n).bind (·.gang g.toNat) with
    | some d => decide (gangCount d = 0)
    | none => false

/-- R157: the head command breaks the rules of spans. A command behind the LAYER_END of its stream stands outside the span.
On an empty gang a layer marker completes as a skipped command does (R57), so no span opens there and none is judged. Of two
LAYER_BEGIN with different addresses, the one that reaches the head of its stream second is the offending one (DEDUCED, log 37). -/
def State.spanBreaks (s : State) (i : IfaceId) (st : Strm) (c : BitVec 256) : Bool :=
  let x := s.ifc i
  !s.emptyGang i && match x.span.filter fun sp => !sp.ended st with
  | some sp => forbiddenInSpan c || (decide (cmdOp c = 0x05) && decide (cmdAddr c ≠ sp.addr.toNat))
  | none =>
    decide (cmdOp c = 0x05) ||
    (decide (cmdOp c = 0x04) && match (x.strm (otherStrm st)).cur with
      | some d => decide (cmdOp d = 0x04) && decide (cmdAddr d ≠ cmdAddr c)
      | none => false)

/-- A command reaches the head of its stream: its 32 bytes are checked (R230), then the rules of spans (R157), then
the breakpoints (R261, R262); an access command takes the run-ahead limit as it now stands (R245). -/
def State.arrive (s : State) (i : IfaceId) (st : Strm) : State :=
  match ((s.ifc i).strm st).cur with
  | none => s
  | some c =>
    if (s.ifc i).halted then s else
    let a := s.headAt i st c
    let mangle := isMangleOp (cmdOp c) && st == .exe
    let s := s.updStrm i st fun t => { t with limit := (s.ifc i).bob.runahead, taken := none }
    if s.cmdBad i st c then s.halt a mangle Code.badCommand (.bob i) []
    else if s.spanBreaks i st c then s.halt a mangle Code.spanBad (.sched (s.schedOf i)) []
    else if (s.ifc i).bob.breaks st a.idx a.tag then
      (s.updStrm i st fun t => { t with broken := true }).raiseFor (.bob i) Code.bobBreak i []
    else s

/-- Remove the head command: it has begun, or been skipped. -/
def State.popHead (s : State) (i : IfaceId) (st : Strm) : State :=
  s.updStrm i st fun t => { t with head := t.head + 1, fetched := t.fetched.tail, taken := none }

/-! ### The command-tag timers (R258) -/

/-- R258, R260: a timer register stops at its largest value. -/
def satAdd (w : Nat) (v : BitVec w) (n : Nat) : BitVec w :=
  if 2 ^ w ≤ v.toNat + n then BitVec.ofNat w (2 ^ w - 1) else BitVec.ofNat w (v.toNat + n)

/-- R258: a timer matches a command's TAG. -/
def TagTimer.matches (x : TagTimer) (tag : Nat) : Bool :=
  decide ((tag ^^^ fld x.mtch.toNat 0 16) &&& fld x.mtch.toNat 16 16 = 0)

/-- The timers that match a TAG change. -/
def Bob.tagged (b : Bob) (tag : Nat) (f : TagTimer → TagTimer) : Bob :=
  { b with tt := forEach (fun n (t : Tab TagTimer) =>
      let x := t.get {} n
      if x.matches tag then t.set {} n (f x) else t) (upto 16) b.tt }

/-- R258: a command begins with a true predicate: every matching COUNT goes up by one. -/
def Bob.tagBegins (b : Bob) (tag : Nat) : Bob := b.tagged tag fun x => { x with count := satAdd 32 x.count 1 }

/-- R258: it completes: the time since it began is added to every matching TIME. -/
def Bob.tagEnds (b : Bob) (tag ns : Nat) : Bob := b.tagged tag fun x => { x with time := satAdd 64 x.time ns }

/-- R258: the timers of an interface count a command that begins. -/
def State.countTag (s : State) (i : IfaceId) (c : BitVec 256) : State :=
  s.updIfc i fun x => { x with bob := x.bob.tagBegins (cmdTag c) }

/-- The command takes its place among the commands in flight. -/
def State.launch (s : State) (i : IfaceId) (st : Strm) (c : BitVec 256) : State :=
  let t := (s.ifc i).strm st
  let f : Flight := { idx := t.head, cmd := c, begunAt := s.hif.time.toNat }
  (s.countTag i c).updStrm i st fun t => { t with flight := t.flight ++ [f] }

/-- A command in flight, by index. -/
def State.flightOf (s : State) (i : IfaceId) (st : Strm) (idx : Nat) : Option Flight :=
  ((s.ifc i).strm st).flight.find? fun f => f.idx == idx

/-- Change a command in flight. -/
def State.updFlight (s : State) (i : IfaceId) (st : Strm) (idx : Nat) (f : Flight → Flight) : State :=
  s.updStrm i st fun t => { t with flight := t.flight.map fun x => if x.idx = idx then f x else x }

/-- A command leaves the flight list. -/
def State.dropFlight (s : State) (i : IfaceId) (st : Strm) (idx : Nat) : State :=
  s.updStrm i st fun t => { t with flight := t.flight.filter fun x => decide (x.idx ≠ idx) }

/-! ### Completing (R232, R233, R258) -/

/-- R233, R237: the SIG counters of a completed or skipped command change; one at its end halts the interface. `mangle` says
that the command is a Mangle command (R256). -/
def State.signalToks (s : State) (a : At) (mangle : Bool) (sig : Nat) : State :=
  let x := s.ifc a.ifc
  let full := x.toksFull sig
  let outside := match x.span with
    | some sp => decide (a.idx < match a.st with
        | .acc => sp.snap.posA
        | .exe => sp.snap.posX)
    | none => false
  let x := if outside then x.outsideAdd sig else x
  let s := s.setIfc a.ifc (x.addToks sig)
  if full then s.halt a mangle Code.tokenOverflow (.bob a.ifc) [] else s

/-- A command that had begun completes: predicate writes, timers, then its tokens (R233, R241, R258). -/
def State.complete (s : State) (i : IfaceId) (st : Strm) (f : Flight) : State :=
  let a : At := ⟨i, st, f.idx, cmdTag f.cmd⟩
  let s := s.updIfc i fun x => { x.writePreds f.preds with bob := x.bob.tagEnds a.tag (s.hif.time.toNat - f.begunAt) }
  (s.dropFlight i st f.idx).signalToks a (isMangleOp (cmdOp f.cmd)) (cmdSig f.cmd)

/-- Complete the command of an index that is in flight. -/
def State.completeIdx (s : State) (i : IfaceId) (st : Strm) (idx : Nat) : State :=
  match s.flightOf i st idx with
  | some f => s.complete i st f
  | none => s

/-! ### Beginning (R231) -/

/-- A stream may begin or skip commands: its interface has not halted, the stream is not broken, no overflow has stopped the
span, and no LAYER_END of it waits for the commit (R256, R262, R167, R154). As R231 says of LAYER_BEGIN, a command that
stands after such a LAYER_END is held before it takes its counters (DEDUCED, log 53). -/
def State.open (s : State) (i : IfaceId) (st : Strm) : Bool :=
  let x := s.ifc i
  !x.halted && !((x.strm st).broken) && !(match x.span with
    | some sp => sp.stopped || sp.ended st
    | none => false)

/-- R245: run-ahead allows an access command. -/
def Iface.ahead (x : Iface) (st : Strm) : Bool :=
  match st with
  | .acc => decide (x.acc.head ≤ x.exe.head + x.acc.limit.toNat)
  | .exe => true

/-- R236: an execute-stream command gives way: the head of the access stream could take its counters now, and one that both
name can satisfy only one of them. -/
def State.yields (s : State) (i : IfaceId) (st : Strm) (c : BitVec 256) : Bool :=
  let x := s.ifc i
  match st, x.acc.cur with
  | .exe, some d => s.open i .acc && x.acc.taken.isNone && x.waitsMet (cmdWait d) && x.ahead .acc
      && (maskBits (cmdWait d &&& cmdWait c)).any fun n => decide (x.tok n < 2)
  | _, _ => false

/-- Steps 1 to 4 of R231 for the head command: once its waits are met and run-ahead allows it, take the counters and
read the predicate. -/
def State.takeHead (s : State) (i : IfaceId) (st : Strm) (c : BitVec 256) : State :=
  let x := s.ifc i
  if (x.strm st).taken.isSome then s
  else if x.waitsMet (cmdWait c) && x.ahead st && !s.yields i st c then
    (s.setIfc i (x.takeToks (cmdWait c))).updStrm i st fun t => { t with taken := some (x.pred c) }
  else s

/-- R126, R127: a Mangle command of an interface takes its place at the accumulator store. -/
def State.pushStore (s : State) (i : IfaceId) (e : StoreEnt) : State :=
  s.updIfc i fun x => { x with store := x.store ++ [e] }

/-- R121: a tile that has begun and waits for its slot chains to the held bank (ACC_MODE 2, SEQ of word 2, R115). -/
def Mangle.claims (m : Mangle) (h : Held) : Bool :=
  m.tiles.any fun t => t.owner == h.owner && t.phase == .input && fld (wordAt t.desc.toNat 2) 17 2 == 2
    && BitVec.ofNat 12 (fld (wordAt t.desc.toNat 2) 0 12) == h.seq + 1

/-- R121: the held banks of an interface that no begun tile chains to are released with their slots. -/
def State.releaseHeld (s : State) (i : IfaceId) : State :=
  forEach (fun r s => s.updCore r fun k =>
    match k.mng.held with
    | some h => if h.owner = i ∧ k.mng.claims h = false then { k with mng := { k.mng with held := none } } else k
    | none => k) (s.coresOf i) s

/-- R127: the tile counter advances by one, modulo 4,096. -/
def Iface.nextSeq (x : Iface) : Iface := { x with seq := x.seq + 1 }

/-- R127: a skipped Mangle command places its marker, which has its turn at once when no Mangle command of the interface
stands before it; a held bank is released (R121). -/
def State.skipMangle (s : State) (i : IfaceId) (idx : Nat) : State :=
  let s := s.releaseHeld i
  if (s.ifc i).store = [] then s.updIfc i Iface.nextSeq
  else s.pushStore i { idx := idx, seq := 0, kind := .marker, lead := 0 }

/-- R243: the head command is skipped: it completes and signals its tokens. -/
def State.skip (s : State) (i : IfaceId) (st : Strm) (c : BitVec 256) : State :=
  let a := s.headAt i st c
  let s := s.popHead i st
  let s := if isMangleOp (cmdOp c) then s.skipMangle i a.idx else s
  s.signalToks a (isMangleOp (cmdOp c)) (cmdSig c)

/-- R231: run the head command of a stream as far as it goes. `mine` picks the row's commands; `eff` begins one whose
predicate is true and whose counters are taken, or leaves the state where its engine cannot accept it. Commands of an
empty gang complete as skipped ones do (R57). When the head changes, the next command reaches the head. -/
def State.begin (s : State) (i : IfaceId) (st : Strm) (mine : BitVec 256 → Bool) (eff : BitVec 256 → State → State) : State :=
  if !s.open i st then s
  else match ((s.ifc i).strm st).cur with
    | none => s
    | some c =>
      if !mine c then s
      else
        let h := ((s.ifc i).strm st).head
        let s := s.takeHead i st c
        let s := match ((s.ifc i).strm st).taken with
          | none => s
          | some p => if !p || s.emptyGang i then s.skip i st c else eff c s
        if ((s.ifc i).strm st).head = h then s else s.arrive i st

/-- A control command that begins and completes at once (R232). -/
def State.doneAtOnce (s : State) (i : IfaceId) (st : Strm) (c : BitVec 256) : State :=
  let f : Flight := { idx := ((s.ifc i).strm st).head, cmd := c, begunAt := s.hif.time.toNat }
  ((s.countTag i c).popHead i st).complete i st f

/-- A command begins: it leaves the head and is in flight. -/
def State.beginFlight (s : State) (i : IfaceId) (st : Strm) (c : BitVec 256) : State := (s.launch i st c).popHead i st

/-- R256, R258, R259: a command that has begun has failed: it counts as begun, and never completes. -/
def State.beginLost (s : State) (i : IfaceId) (st : Strm) (c : BitVec 256) : State :=
  ((s.countTag i c).popHead i st).updStrm i st fun t => { t with lost := t.lost ++ [cmdTag c] }

/-- R256, R259: a command in flight fails: it never completes. -/
def State.loseFlight (s : State) (i : IfaceId) (st : Strm) (idx : Nat) : State :=
  let tags := ((s.flightOf i st idx).map fun f => cmdTag f.cmd).toList
  (s.dropFlight i st idx).updStrm i st fun t => { t with lost := t.lost ++ tags }

/-- A result that can end in a halted interface: `.error` holds the state in which it has halted. -/
abbrev Act := Except State

/-- The state a result ends in. -/
def Act.state : Act State → State
  | .ok s => s
  | .error s => s

/-- The state in which the head command has begun: in one that has halted the interface it has failed (R114, R230, R231, R258,
R375). -/
def Act.begun (x : Act State) (i : IfaceId) (st : Strm) (c : BitVec 256) : State :=
  match x with
  | .ok s => s
  | .error s => s.beginLost i st c

/-- R256: whether a Mangle command of a halted interface still goes on: one that stands before the first that has offended. -/
def Iface.mayHandle (x : Iface) (idx : Nat) : Bool :=
  !x.halted || match x.stopAt with
    | some k => decide (idx < k)
    | none => true

/-! ### Conditions delivered to the scheduler (R138, R166, R172, R173) -/

/-- R556: the arguments of NAN_INVALID, OVERFLOW_KEPT, TILE_RESCALED, LAYER_REPEAT and CREASE. -/
def State.numArgs (s : State) (i : IfaceId) (layer : Option Nat) (a1 : Nat) (d : Delivery) : List Nat :=
  [layer.getD 0xFFFFFFFF, a1, (d.seq.map BitVec.toNat).getD 0xFFFFFFFF, d.idx, d.tag.toNat, s.ifaceNo i, strmNo d.strm]

/-- LAYER_ID of the span an interface is in. -/
def Iface.layer (x : Iface) : Option Nat := x.span.map fun sp => layerId sp.desc

/-- CFG_NUM_CTRL.NAN_HALT as it stood at job start (R185, R186). -/
def State.nanHalt (s : State) (i : IfaceId) : Bool :=
  match s.jobOf i with
  | some j => bitOf j.numCtrl.toNat 1
  | none => true

/-- R166: an overflow whose new rung would exceed MAX_RUNG. -/
def Span.exhausted (sp : Span) : Bool := sp.overflowed && decide (layerMaxRung sp.desc < sp.newRung)

/-- A hem gang that is not empty stands at or below a gang on this device; `fuel` bounds the nesting. -/
def State.hemBelow (s : State) (j : Job) : Nat → Nat → Bool
  | 0, _ => false
  | f + 1, g => match j.gang g with
    | none => false
    | some d => (gangKind d == 2 && gangCount d != 0) || (gangMembers d).any fun m => match s.member d m with
      | .gang h => s.hemBelow j f h
      | _ => false

/-- A gang whose commands, and whose span decisions, the hem group's devices complete together (R60, R169, R254): a hem gang, or
one with a hem gang below it (log 67). -/
def State.isHem (s : State) (i : IfaceId) : Bool :=
  match i with
  | .core _ => false
  | .gang n g => match s.job n with
    | some j => s.hemBelow j 257 g.toNat
    | none => false

/-- R60, R254: a command of a gang whose members on this device reach no core: its part here has nothing to do. On a hem gang it
completes with the other devices' parts; elsewhere it completes as a skipped one does (log 52). -/
def State.noCores (s : State) (i : IfaceId) (st : Strm) (c : BitVec 256) : State :=
  if s.isHem i then
    let idx := ((s.ifc i).strm st).head
    let s := (s.beginFlight i st c).updFlight i st idx fun f => { f with fin := true }
    if isMangleOp (cmdOp c) then s.skipMangle i idx else s
  else s.skip i st c

/-- The source and class of a command's numeric codes: the scheduler, or OPTSTEP itself (R187). -/
def State.numSrc (s : State) (i : IfaceId) : Src := .sched (s.schedOf i)

/-- Conditions of a command reach the scheduler. In a span they are kept for its decision: an overflow that leads to a
repeat stops the span (R167), and one whose rung would be above MAX_RUNG halts the interface (R166). The spec does not say
when LADDER_EXHAUSTED is raised: here it is as the overflow is delivered, although a command still in flight could yet
deliver INVALID (DESIGN CHOICE, log 54). An overflow off the ladder is reported at the commit (R172). -/
def State.deliverSpan (s : State) (i : IfaceId) (sp : Span) (d : Delivery) : State :=
  let sp := { sp with got := sp.got ++ [d] }
  let sp := { sp with stopped := sp.overflowed && sp.agreed.isNone }
  let s := s.updIfc i fun x => { x with span := some sp }
  if sp.exhausted && !s.isHem i then
    s.halt ⟨i, d.strm, d.idx, d.tag.toNat⟩ d.seq.isSome Code.ladderExhausted (s.numSrc i) []
  else s

/-- R173: the codes that conditions of a command outside a span raise. -/
def State.report (s : State) (i : IfaceId) (src : Src) (d : Delivery) : State :=
  let s := if 0 < d.conds.ovf ∨ 0 < d.conds.iovf then s.raiseFor src Code.overflowKept i (s.numArgs i none 0 d) else s
  if 0 < d.conds.inv then s.raiseFor src Code.nanInvalid i (s.numArgs i none 0 d) else s

/-- R173: conditions of a command outside a span, once it has completed. -/
def State.deliverOut (s : State) (i : IfaceId) (src : Src) (d : Delivery) : State :=
  let t := s.report i src d
  if 0 < d.conds.inv ∧ s.nanHalt i then t.haltQuiet ⟨i, d.strm, d.idx, d.tag.toNat⟩ d.seq.isSome Code.nanInvalid else t

/-- A notice about a command: outside a span it reaches the job at once; in a span it is logged, and the job learns of it
from the span's status, at the commit (R168, log 55). -/
def State.notice (s : State) (i : IfaceId) (src : Src) (code : BitVec 16) (args : List Nat) : State :=
  if (s.ifc i).span.isSome then s.raise src code (s.keyOf i) args else s.raiseFor src code i args

/-- No condition at all. -/
def Conds.none (c : Conds) : Bool := decide (c.inv = 0) && decide (c.ovf = 0) && decide (c.iovf = 0)

/-- Conditions of a command: to the span it is in, or by R173 (after its completion). -/
def State.deliver (s : State) (i : IfaceId) (src : Src) (d : Delivery) : State :=
  match (s.ifc i).span with
  | some sp => if d.conds.none && decide (d.scaled = 0) then s else s.deliverSpan i sp d
  | none => if d.conds.none then s else s.deliverOut i src d

end Sys2Proof.Machine
end

