-- ==== Sys2Proof/Machine/Packet.lean ====
section
/-! DEFINITION. Fabric packets and their injection: the common header, reservations for global requests, and scheduler
messages (R362, R363, R396 to R398, R408, R411). -/

namespace Sys2Proof.Machine

/-- R396: fields of the common header. -/
def hVcc (h : BitVec 128) : Nat := fld h.toNat 0 2
def hData (h : BitVec 128) : Bool := bitOf h.toNat 2
def hMcast (h : BitVec 128) : Bool := bitOf h.toNat 3
def hDl (h : BitVec 128) : Nat := fld h.toNat 4 1
def hDir (h : BitVec 128) : Nat := fld h.toNat 5 3
def hKind (h : BitVec 128) : Nat := fld h.toNat 8 8
def hDst (h : BitVec 128) : Nat := fld h.toNat 16 14
def hSrc (h : BitVec 128) : Nat := fld h.toNat 32 14
def hLen (h : BitVec 128) : Nat := fld h.toNat 48 12
def hKey (h : BitVec 128) : Nat := fld h.toNat 64 32
def hTxn (h : BitVec 128) : Nat := fld h.toNat 96 16
def hKspec (h : BitVec 128) : Nat := fld h.toNat 112 16

/-- R398: the class of a kind and whether it is a data packet; none for a reserved kind. -/
def kindInfo (k : Nat) : Option (Nat × Bool) :=
  match k with
  | 0x01 => some (0, false)
  | 0x02 | 0x03 => some (0, true)
  | 0x10 => some (1, true)
  | 0x11 | 0x12 => some (1, false)
  | 0x20 | 0x21 => some (2, false)
  | 0x22 => some (2, true)
  | 0x30 => some (3, true)
  | 0x31 => some (3, false)
  | _ => none

/-- R396, R397: build a packet. `fields` are the words 4 onwards of its 48 bytes; DL is 0 at injection. -/
def mkPacket (kind dst src key txn kspec : Nat) (dir : Nat) (mcast : Bool) (fields : List Nat) (payload : List Byte) : Packet :=
  let (vcc, data) := (kindInfo kind).getD (0, false)
  let len := if data then payload.length else 4 * fields.length
  let body := (wordBytes (fields.map (BitVec.ofNat 32)) ++ List.replicate 48 0).take 48
  { hdr := BitVec.ofNat 128 (vcc + b2n data * 4 + b2n mcast * 8 + dir * 32 + kind * 2 ^ 8 + dst * 2 ^ 16 + src * 2 ^ 32
      + len * 2 ^ 48 + key * 2 ^ 64 + txn * 2 ^ 96 + kspec * 2 ^ 112)
    body := body ++ payload }

/-- Word w (4 to 15) of a packet's fields. -/
def Packet.word (p : Packet) (w : Nat) : Nat := leNat ((p.body.drop (4 * (w - 4))).take 4)

/-- The payload of a data packet. -/
def Packet.payload (p : Packet) : List Byte := (p.body.drop 48).take (hLen p.hdr)

/-- The physical node of a logical one, by the route table in effect (R389, R411). -/
def State.physOfNode (s : State) (l : Nat) : Option Nat := s.fab.rt.bind fun r =>
  let e := (r.map.get 0 l).toNat
  if bitOf e 15 then some (fld e 0 14) else none

/-- A packet enters the fabric from the core domain. -/
def State.inject (s : State) (p : Packet) : State := { s with fab := { s.fab with inject := s.fab.inject ++ [p] } }

/-- Requests that hold a reservation (R362, R408): of a cluster's reads, of its reads to one node, and of an access
engine's writes and atomics, and a collective unit's handoff writes (R452). -/
def State.mayReserve (s : State) (r : Remote) : Bool :=
  let c := s.engineCore r.owner
  match r.kind with
  | .read =>
    let same := s.fab.remote.filter fun x => x.kind == .read && (s.engineCore x.owner).map clusterOf == c.map clusterOf
    decide (same.length < 1024) && decide ((same.filter fun x => x.node == r.node).length < 128)
  | .handoff => decide ((s.fab.remote.filter fun x =>
      x.kind == .handoff && x.chan.map (·.val % 4) == r.chan.map (·.val % 4)).length < 64)
  | _ => decide ((s.fab.remote.filter fun x => (x.kind == .write || x.kind == .atomic) && s.engineCore x.owner == c).length < 64)

/-- Kinds of scheduler message (log 21): a span summary (R169), a completed sub-command (R254) with its predicate writes (R279),
a credit that comes back (R408), sums of a part of a tile (R59, log 67) and a copy of a hem gang's descriptor (R61, log 67). -/
def msgSummary : Nat := 1
def msgDone : Nat := 2
def msgCredit : Nat := 3
def msgSums : Nat := 4
def msgCopy : Nat := 5

/-- R408: a scheduler message may be injected: one of the 8 credits for its destination is here. What gives a credit back takes
none (log 21). -/
def State.mayMessage (s : State) (p : Packet) : Bool :=
  hKspec p.hdr == msgCredit || decide (s.fab.msgOut.get 0 (hDst p.hdr) < 8)

/-- R408: a scheduler message is injected and takes a credit. -/
def State.message (s : State) (p : Packet) : State :=
  let s := s.inject p
  if hKspec p.hdr = msgCredit then s else { s with fab := { s.fab with msgOut := s.fab.msgOut.upd 0 (hDst p.hdr) (· + 1) } }

/-- Inject what waits and may be injected, oldest first; others to other targets pass (R363, R408). -/
def pumpGo : List (Option Remote × Packet) → State → State
  | [], s => s
  | (r, p) :: t, s =>
    match r with
    | some q =>
      if s.mayReserve q then
        let s := s.inject p
        pumpGo t { s with fab := { s.fab with remote := s.fab.remote ++ [q] } }
      else pumpGo t { s with fab := { s.fab with waiting := s.fab.waiting ++ [(r, p)] } }
    | none =>
      if s.mayMessage p then pumpGo t (s.message p)
      else pumpGo t { s with fab := { s.fab with waiting := s.fab.waiting ++ [(r, p)] } }

/-- Inject what waits and may be injected. -/
def State.pump (s : State) : State := pumpGo s.fab.waiting { s with fab := { s.fab with waiting := [] } }

/-- A fresh transaction tag: the next one that no outstanding or waiting request uses. -/
def State.newTxn (s : State) : BitVec 16 × State :=
  let used := s.fab.remote.map (·.txn) ++ s.fab.waiting.filterMap fun w => w.1.map (·.txn)
  let t := ((upto (used.length + 1)).map fun k => s.fab.nextTxn + BitVec.ofNat 16 k).find? fun t => !used.contains t
  let t := t.getD s.fab.nextTxn
  (t, { s with fab := { s.fab with nextTxn := t + 1 } })

/-- A global request is formed and waits for its reservation. -/
def State.request (s : State) (r : Remote) (kind : Nat) (fields : List Nat) (payload : List Byte) : State :=
  let (t, s) := s.newTxn
  let r := { r with txn := t }
  let p := mkPacket kind r.node.toNat ((s.fab.rt.map fun x => x.myPhys.toNat).getD 0) (s.keyOf r.owner).toNat t.toNat 0 0 false fields payload
  { s with fab := { s.fab with waiting := s.fab.waiting ++ [(some r, p)] } }

/-- R396: the header with which an outstanding request went out: that of its kind, with its number of fields and bytes. -/
def State.requestHeader (s : State) (r : Remote) : BitVec 128 :=
  let (kind, fields, bytes) : Nat × Nat × Nat := match r.kind with
    | .read => (0x01, 3, 0)
    | .atomic => (0x03, 3, r.len)
    | _ => (0x02, 2, r.len)
  (mkPacket kind r.node.toNat ((s.fab.rt.map fun x => x.myPhys.toNat).getD 0) (s.keyOf r.owner).toNat r.txn.toNat 0 0 false
    (List.replicate fields 0) (List.replicate bytes 0)).hdr

/-- The pieces of a range of `n` bytes, at most `m` bytes each: (offset, length). -/
def pieces (n m : Nat) : List (Nat × Nat) := (upto (ceilDiv n m)).map fun k => (m * k, Nat.min m (n - m * k))

/-- R398, R408: ask for `n` bytes at a global address; the payloads go to a device address of this device. -/
def State.askRead (s : State) (i : IfaceId) (idx : Nat) (node phys a n dst : Nat) : State :=
  forEach (fun (o, l) s => s.request
    { txn := 0, kind := .read, owner := i, node := BitVec.ofNat 14 phys, idx := idx,
      addr := BitVec.ofNat 64 (2 ^ 47 + node * 2 ^ 48 + a + o), dst := BitVec.ofNat 64 (dst + o), len := l }
    0x01 [fld (a + o) 0 32, fld (a + o) 32 32, l] []) (pieces n 4096) s

/-- R398: write bytes to a global address; XOP names the operation of an atomic (R372). -/
def State.askWrite (s : State) (i : IfaceId) (idx : Nat) (ch : Option (Fin 16)) (node phys a xop : Nat) (bs : List Byte) : State :=
  let m := if xop = 0 then 4032 else 4032 / atomicSize xop * atomicSize xop
  forEach (fun (o, l) s => s.request
    { txn := 0, kind := if ch.isSome then .handoff else if xop = 0 then .write else .atomic, owner := i,
      node := BitVec.ofNat 14 phys, idx := idx, chan := ch,
      addr := BitVec.ofNat 64 (2 ^ 47 + node * 2 ^ 48 + a + o), len := l }
    (if xop = 0 then 0x02 else 0x03) ([fld (a + o) 0 32, fld (a + o) 32 32] ++ if xop = 0 then [] else [xop])
    ((bs.drop o).take l)) (pieces bs.length m) s

/-- R169, R254: a scheduler message to the device of another hem slot of this hem group. KSPEC holds the message's
kind; word 4 holds GANG_ID and the sender's slot. -/
def State.schedMessage (s : State) (key gang slot kind : Nat) (fields : List Nat) : State :=
  let me := s.physNode
  let p := mkPacket 0x20 (me / 8 * 8 + slot) me key 0 kind 0 false ([gang + s.hemSlot * 2 ^ 16] ++ fields) []
  { s with fab := { s.fab with waiting := s.fab.waiting ++ [(none, p)] } }

/-- A message for a command of a gang's interface. -/
def State.hemMessage (s : State) (i : IfaceId) (slot kind : Nat) (fields : List Nat) : State :=
  let g := match i with
    | .gang _ g => g.toNat
    | .core _ => 0
  s.schedMessage (s.keyOf i).toNat g slot kind fields

/-- A message to every other hem slot of a hem gang's descriptor. -/
def State.hemTell (s : State) (i : IfaceId) (kind : Nat) (fields : List Nat) : State :=
  (forEach (fun k s => if k = s.hemSlot then s else s.hemMessage i k kind fields) (upto 8) s).pump

end Sys2Proof.Machine
end

