-- ==== Sys2Proof/Machine/Gen.lean ====
section
/-! DEFINITION. Weight generations: the table entries, acquire, release and the resolution of a handle (R203 to R209). -/

namespace Sys2Proof.Machine

/-- R203: the number that marks an empty slot. -/
def genEmpty : Word := 0xFFFFFFFF

/-- R204: the current slot: the one with the higher number (false is slot 0). -/
def GenEnt.cur (e : GenEnt) : Bool :=
  if e.gen0 = genEmpty then true
  else if e.gen1 = genEmpty then false
  else decide (e.gen0.toNat < e.gen1.toNat)

/-- The generation of a slot. -/
def GenEnt.gen (e : GenEnt) (sl : Bool) : Word := if sl then e.gen1 else e.gen0
def GenEnt.base (e : GenEnt) (sl : Bool) : Nat := (if sl then e.base1 else e.base0).toNat
def GenEnt.refs (e : GenEnt) (sl : Bool) : Nat := if sl then e.ref1 else e.ref0
def GenEnt.retiring (e : GenEnt) (sl : Bool) : Bool := if sl then e.ret1 else e.ret0

/-- Set the count of a slot. -/
def GenEnt.setRefs (e : GenEnt) (sl : Bool) (n : Nat) : GenEnt := if sl then { e with ref1 := n } else { e with ref0 := n }

/-- Set the retiring mark of a slot. -/
def GenEnt.setRet (e : GenEnt) (sl b : Bool) : GenEnt := if sl then { e with ret1 := b } else { e with ret0 := b }

/-- The current generation. -/
def GenEnt.current (e : GenEnt) : Word := e.gen e.cur

/-- The slots in which a generation is present for which `p` holds (R204): held there, and no OPTSTEP is writing it. -/
def GenEnt.slotWith (e : GenEnt) (p : Word → Bool) : Option Bool :=
  [false, true].find? fun sl => decide (e.gen sl ≠ genEmpty) && p (e.gen sl) && !(e.writing && sl != e.cur)

/-- What an acquire comes to (R206). -/
inductive Acquired where
  | ok (e : GenEnt) (slot : Bool)
  | wait
  | bad (code : BitVec 16)
  deriving DecidableEq, Repr

/-- R206: a generation acquire. -/
def GenEnt.acquire (e : GenEnt) (g : Word) : Acquired :=
  match e.slotWith (· == g) with
  | some sl =>
    if e.retiring sl then .bad Code.genRetired
    else if e.refs sl = 65535 then .bad Code.genBad
    else .ok (e.setRefs sl (e.refs sl + 1)) sl
  | none => if e.current.toNat < g.toNat then .wait else .bad Code.genAbsent

/-- R207: a generation release; none where it raises GEN_BAD. -/
def GenEnt.release (e : GenEnt) (g : Word) : Option GenEnt :=
  match e.slotWith (· == g) with
  | some sl => if e.refs sl = 0 then none else some (e.setRefs sl (e.refs sl - 1))
  | none => none

/-- An entry of the generation table of the job that holds an interface. -/
def State.genEnt (s : State) (i : IfaceId) (e : Nat) : Option GenEnt := (s.jobOf i).bind fun j => j.gens[e]?

/-- Replace an entry of the generation table. -/
def State.setGen (s : State) (i : IfaceId) (e : Nat) (v : GenEnt) : State :=
  match s.jobNo i with
  | some n => s.updJob n fun j => { j with gens := setNth j.gens e v }
  | none => s

/-- R205: fields of a handle. -/
def handleEntry (w : Nat) : Nat := fld w 50 12
def handleLo (w : Nat) : Nat := fld w 42 8
def handleOff (w : Nat) : Nat := fld w 0 42

/-- R205: the device address a handle resolves to, or the code that halts the interface. -/
def State.resolve (s : State) (i : IfaceId) (w : Nat) : Except (BitVec 16) Nat :=
  match s.genEnt i (handleEntry w) with
  | none => .error Code.genAbsent
  | some e => match e.slotWith fun g => g.toNat % 256 == handleLo w with
    | none => .error Code.genAbsent
    | some sl => if handleOff w < e.size.toNat then .ok (e.base sl + handleOff w) else .error Code.genBad

/-- R217: a generation code halts an interface, with the entry as its argument. -/
def State.genHalt (s : State) (a : At) (mangle : Bool) (code : BitVec 16) (entry : Nat) : State :=
  s.halt a mangle code (.sched (s.schedOf a.ifc)) [entry]

/-- R206, R208: an acquire takes effect: its slot's count has gone up, and a span remembers it. -/
def State.acquired (s : State) (i : IfaceId) (n : Nat) (e : GenEnt) (sl : Bool) : State :=
  (s.setGen i n e).updIfc i fun x =>
    { x with span := x.span.map fun sp => { sp with acquired := sp.acquired ++ [(n, sl)] } }

/-- R206: the head command, a generation acquire, takes effect, begins and waits, or halts its interface. -/
def State.genAcquire (s : State) (i : IfaceId) (st : Strm) (c : BitVec 256) : State :=
  let a := s.headAt i st c
  let n := cmdTarget c
  match s.genEnt i n with
  | none => (s.genHalt a false Code.genAbsent n).beginLost i st c
  | some e => match e.acquire (BitVec.ofNat 32 (cmdGen c)) with
    | .wait => s.beginFlight i st c
    | .bad code => (s.genHalt a false code n).beginLost i st c
    | .ok e sl => (s.acquired i n e sl).doneAtOnce i st c

/-- A begun generation acquire (R206). -/
def Flight.isAcquire (f : Flight) : Bool := cmdOp f.cmd == 0x01 && cmdForm f.cmd == 1

/-- R206: an acquire that waits looks again: its generation is present, it waits on, or its interface halts. -/
def State.genAwait (s : State) (i : IfaceId) (st : Strm) (f : Flight) : State :=
  let n := cmdTarget f.cmd
  match s.genEnt i n with
  | none => s
  | some e => match e.acquire (BitVec.ofNat 32 (cmdGen f.cmd)) with
    | .wait => s
    | .bad code => (s.loseFlight i st f.idx).genHalt ⟨i, st, f.idx, cmdTag f.cmd⟩ false code n
    | .ok e sl => (s.acquired i n e sl).complete i st f

/-- R206: the acquires of a stream that wait look again, oldest first. -/
def State.genAwaits (s : State) (i : IfaceId) (st : Strm) : State :=
  forEach (fun (f : Flight) s => if f.isAcquire && !(s.ifc i).halted then s.genAwait i st f else s) ((s.ifc i).strm st).flight s

/-- R207, R208: the head command, a generation release; in a span it takes effect at commit. Whether its generation may be
released is judged here, as the command is issued, and in a span once more at the commit, where the entry may have changed
(DESIGN CHOICE, log 73). -/
def State.genRelease (s : State) (i : IfaceId) (st : Strm) (c : BitVec 256) : State :=
  let a := s.headAt i st c
  let n := cmdTarget c
  let g : Word := BitVec.ofNat 32 (cmdGen c)
  match (s.genEnt i n).bind fun e => e.release g with
  | none => (s.genHalt a false Code.genBad n).beginLost i st c
  | some e =>
    let s := if (s.ifc i).span.isSome then
        s.updIfc i fun x => { x with span := x.span.map fun sp => { sp with released := sp.released ++ [(n, g)] } }
      else s.setGen i n e
    s.doneAtOnce i st c

end Sys2Proof.Machine
end

