-- ==== Sys2Proof/Machine/CoreRegs.lean ====
section
/-! DEFINITION. The registers of a core's debug window and of the gang window, as they read and as the register region
writes them (R35, R144 to R148, R264 to R267, R311 to R313, R343, R344, R351). Every function answers the 32-bit word
at an offset; an 8-byte register is two such words. -/

namespace Sys2Proof.Machine

/-- Half of an 8-byte value, by offset. -/
def half (v o : Nat) : Nat := if o % 8 < 4 then fld v 0 32 else fld v 32 32

/-- R266: the state of a stream; `engine` says that a command of it in flight waits on a data queue. -/
def Iface.strmState (x : Iface) (engine : Bool) (st : Strm) : Nat :=
  let t := x.strm st
  let closed := match x.span with
    | some sp => sp.stopped || sp.ended st
    | none => false
  if x.halted then 6
  else if t.broken then 5
  else if x.job.isNone && t.count == 0 then 0
  else if t.count ≤ t.head && t.flight.isEmpty then 0
  else if closed then 4
  else if engine then 3
  else match t.cur with
    | none => 1
    | some c => match t.taken with
      | some _ => if cmdOp c = 0x04 ∨ cmdOp c = 0x05 then 4 else 3
      | none => if !x.waitsMet (cmdWait c) then 2 else if !x.ahead st then 4 else 1

/-- Entries of a data queue that the queue holds (R247): those beyond 64 still stand in their producer. -/
def dqHeld (l : List QEnt) : Nat := Nat.min l.length 64

/-- R250, R266: a command of a core's stream waits on a data queue: a transfer for entries or for room, a tile for the entries
of its operands or for room for a row, a program at a vqpop, vqpush or vend. -/
def State.queueWait (s : State) (r : CoreRef) (st : Strm) : Bool :=
  let k := s.core r
  match st with
  | .acc => k.ifc.acc.flight.any fun f => decide (f.qneed ≠ 0) || decide (f.qend ≠ 0)
  | .exe => (k.vec.run.any (·.qwait))
      || k.mng.tiles.any fun t => t.phase == .stream || (t.phase == .load && !t.loaded) || (t.phase == .press && t.full)

/-- R264: a Bobbin register. `member` says that the core is a gang member, whose token, predicate, index and timer
registers read zero; `engine` says of a stream that it waits on a data queue, and `dq` holds the queues' lengths. -/
def Iface.bobWord (x : Iface) (member : Bool) (engine : Strm → Bool) (dq : Nat → Nat) (o : Nat) : Nat :=
  let b := x.bob
  let mine (v : Nat) : Nat := if member then 0 else v
  match o with
  | 0x1000 => b.brkEn.toNat
  | 0x1004 => x.strmState (engine .acc) .acc + x.strmState (engine .exe) .exe * 2 ^ 4 + b.lastCode.toNat * 2 ^ 16
  | 0x1008 => b.runahead.toNat
  | 0x100C => mine x.preds.toNat
  | 0x1010 => mine x.acc.head
  | 0x1014 => mine x.exe.head
  | 0x1018 => b.brkIdxA.toNat
  | 0x101C => b.brkIdxX.toNat
  | 0x1020 => b.brkTagA.toNat
  | 0x1024 => b.brkTagX.toNat
  | 0x1028 => b.haltIdx.toNat
  | 0x102C => b.haltInfo.toNat
  | 0x1030 => dq 0 + dq 1 * 2 ^ 8 + dq 2 * 2 ^ 16 + dq 3 * 2 ^ 24
  | _ =>
    if 0x1040 ≤ o ∧ o < 0x1080 then
      let k := (o - 0x1040) / 4
      mine (x.tok (2 * k) + x.tok (2 * k + 1) * 2 ^ 16)
    else if 0x1100 ≤ o ∧ o < 0x1200 then
      let t := b.tt.get {} ((o - 0x1100) / 16)
      mine (match o % 16 with
        | 0 => t.mtch.toNat
        | 4 => t.count.toNat
        | _ => half t.time.toNat o)
    else if 0x1200 ≤ o ∧ o < 0x1300 then
      let n := (o - 0x1200) / 16
      mine (half (if o % 16 < 8 then b.stBusy.get 0 n else b.stWait.get 0 n).toNat o)
    else 0

/-- R147: the field of a tile slot. The spec names no value for a tile that has its W and waits to stream, which reads 1 here, nor
for a K-split part whose rows another core or device combines, which reads 3 here, and 4 on the core that combines (DESIGN CHOICE,
log 72). -/
def Mangle.slotState (m : Mangle) (k : Nat) : Nat :=
  if (m.held.map (·.slot)) = some k then 5
  else match m.tiles.find? fun t => decide (t.slot = some k) with
    | some t => match t.phase with
      | .input | .load => 1
      | .stream => 2
      | .array => 3
      | .press | .done => 4
    | none => 0

/-- An interface at or above a core has halted, so the core's engines have (R126, R256). -/
def State.coreHalted (s : State) (r : CoreRef) : Bool := (s.ifc (s.topOf (.core r))).halted

/-- R144 to R148: a Mangle register. The spec does not say which STATE shows while no tile is in the Mangle but a bank is held or
a zero-extent tile or a skip marker waits at the store: it reads 0, idle; nor what HELD_SEQ holds while HELD is 0: it reads 0
(DESIGN CHOICE, log 58). -/
def State.mngWord (s : State) (r : CoreRef) (o : Nat) : Nat :=
  let c := s.core r
  let m := c.mng
  let w0 := m.wbuf.get {} 0
  let w1 := m.wbuf.get {} 1
  match o with
  | 0x2000 =>
    (if s.coreHalted r then 2 else if m.tiles.isEmpty then 0 else 1)
      + b2n w0.valid * 2 ^ 2 + b2n w1.valid * 2 ^ 3 + m.lastCode.toNat * 2 ^ 16
  | 0x2004 => c.ifc.seq.toNat + match m.held with
    | some h => h.seq.toNat * 2 ^ 16 + 2 ^ 28
    | none => 0
  | 0x2008 => m.slotState 0 + m.slotState 1 * 2 ^ 4 + m.slotState 2 * 2 ^ 8 + m.slotState 3 * 2 ^ 12
  | 0x200C => w0.tag.toNat + w1.tag.toNat * 2 ^ 16
  | 0x2010 => m.skew.toNat
  | 0x2014 => (upto 8).foldl (fun a n => a + b2n (m.tbl.get {} (n + 1)).valid * 2 ^ n) 0
  | 0x2018 => m.tileCnt.toNat
  | 0x201C => m.tileExcl.toNat
  | _ =>
    if 0x2020 ≤ o ∧ o < 0x2028 then half m.tileSum.toNat o
    else if 0x2100 ≤ o ∧ o < 0x2300 then half (m.norm.get 0 ((o - 0x2100) / 8)).toNat o
    else if 0x2300 ≤ o ∧ o < 0x2700 then
      let e := m.cerr.get {} ((o - 0x2300) / 16)
      half (if o % 16 < 8 then e.sum.toNat else e.cnt.toNat + e.exc.toNat * 2 ^ 48) o
    else 0

/-- The register that VEC_RSEL selects, as one number (R311, R313). -/
def Vec.selected (v : Vec) : Nat :=
  let n := fld v.rsel.toNat 4 5
  match fld v.rsel.toNat 0 2 with
  | 0 => (v.v.get 0 n).toNat
  | 1 => (v.s.get 0 n).toNat
  | _ => (v.m.get 0 n).toNat

/-- R311 to R313: a vector engine register. -/
def Vec.word (v : Vec) (o : Nat) : Nat :=
  let running := v.run.isSome && !v.halted
  match o with
  | 0x3000 => (if v.halted then 2 else if v.run.isSome then 1 else 0) + v.lastCode.toNat * 2 ^ 16
  | 0x3004 => v.pc.toNat
  | 0x3008 => v.vl.toNat
  | 0x300C => v.vtype.toNat
  | 0x3010 => v.cond.toNat
  | 0x3014 => (upto 4).foldl (fun a n => a + b2n (v.tbl.get {} n).valid * 2 ^ n) 0
  | 0x3038 => v.rsel.toNat
  | _ =>
    if 0x3018 ≤ o ∧ o < 0x3020 then half v.faultAddr.toNat o
    else if 0x3020 ≤ o ∧ o < 0x3028 then half v.cvtCtl.toNat o
    else if 0x3028 ≤ o ∧ o < 0x3030 then half v.cvtIdx.toNat o
    else if 0x3030 ≤ o ∧ o < 0x3038 then half v.prog.toNat o
    else if 0x3100 ≤ o ∧ o < 0x3200 then (if running then 0 else wordAt v.selected ((o - 0x3100) / 4))
    else 0

/-- R343, R344: an Iron register. -/
def Iron.word (x : Iron) (o : Nat) : Nat :=
  match o with
  | 0x4000 => x.state.toNat + x.phase.toNat * 2 ^ 2 + b2n x.adj * 2 ^ 5 + x.lastCode.toNat * 2 ^ 16
  | 0x4004 => x.iter.toNat
  | _ =>
    if 0x4008 ≤ o ∧ o < 0x4010 then half x.res.toNat o
    else if 0x4010 ≤ o ∧ o < 0x4018 then half x.desc.toNat o
    else if 0x4018 ≤ o ∧ o < 0x4020 then half x.fprint.toNat o
    else 0

/-- A core is a member of a gang of the job that holds it (R218, R264). -/
def State.isMember (s : State) (r : CoreRef) : Bool :=
  match s.jobOf (.core r) with
  | some j => (s.parentOfCore j r).isSome
  | none => false

/-- A word of a physical core's debug window. -/
def State.coreWord (s : State) (r : CoreRef) (o : Nat) : Nat :=
  let c := s.core r
  match o / 0x1000 with
  | 1 => c.ifc.bobWord (s.isMember r) (s.queueWait r) (fun q => dqHeld (c.dq.get [] q)) o
  | 2 => s.mngWord r o
  | 3 => c.vec.word o
  | 4 => c.iron.word o
  | _ => 0

/-- R35, R36: a word of a logical core's debug window; zero where no core serves the slot. -/
def State.windowWord (s : State) (c o : Nat) : Nat :=
  match s.physOf c with
  | some r => s.coreWord r o
  | none => 0

/-- R267: the gang interface that CFG_GANG_SEL shows: a top-level gang of a running job. -/
def State.selGang (s : State) : Option IfaceId :=
  let g := fld s.cfg.gangSel.toNat 0 12
  firstSome (fun n => match s.job n with
    | some j => if !j.ended && (j.gang g).isSome && (s.parentOfGang j g).isNone then some (.gang n (BitVec.ofNat 12 g)) else none
    | none => none) s.jobNos

/-- R267: a word of the gang window, by BOB offset. -/
def State.gangWord (s : State) (o : Nat) : Nat :=
  match s.selGang with
  | some i => (s.ifc i).bobWord false (fun _ => false) (fun _ => 0) o
  | none => 0

/-- The words of a register of a core's window, as one number of `len` bytes (R351). -/
def State.readReg (s : State) (a len : Nat) : Nat :=
  match regPlace a with
  | some (c, o) => s.windowWord c o + if 4 < len then s.windowWord c (o + 4) * 2 ^ 32 else 0
  | none => 0

/-- Put `len` bytes of `v` at offset `o` of an 8-byte register whose value is `old`. -/
def putHalf (old o len v : Nat) : Nat := setFld old (8 * (o % 8)) (8 * len) v

/-- R144, R351: a write to the RW registers of a Mangle; any other offset ignores it. -/
def Mangle.writeReg (m : Mangle) (o len v : Nat) : Mangle :=
  if 0x2100 ≤ o ∧ o < 0x2300 then
    let k := (o - 0x2100) / 8
    { m with norm := m.norm.set 0 k (BitVec.ofNat 64 (putHalf (m.norm.get 0 k).toNat o len v)) }
  else if 0x2300 ≤ o ∧ o < 0x2700 then
    let k := (o - 0x2300) / 16
    let e := m.cerr.get {} k
    let e := if o % 16 < 8 then { e with sum := BitVec.ofNat 64 (putHalf e.sum.toNat o len v) }
      else
        let w := putHalf (e.cnt.toNat + e.exc.toNat * 2 ^ 48) o len v
        { e with cnt := BitVec.ofNat 48 (fld w 0 48), exc := BitVec.ofNat 16 (fld w 48 16) }
    { m with cerr := m.cerr.set {} k e }
  else m

/-- R351: a STORE or LOAD writes a register of a core's window. -/
def State.writeRegion (s : State) (a len v : Nat) : State :=
  match regPlace a with
  | some (c, o) => match s.physOf c with
    | some r => s.updCore r fun k => { k with mng := k.mng.writeReg o len v }
    | none => s
  | none => s

end Sys2Proof.Machine
end

