-- ==== Sys2Proof/Machine/Control.lean ====
section
/-! DEFINITION. The control commands that stand outside the span machinery: NOP, WAIT, SIGNAL and their forms, and FENCE
(R206, R207, R224, R226, R231 to R233, R422). -/

namespace Sys2Proof.Machine

/-- The head command has an opcode and, for WAIT and SIGNAL, a form. -/
def isOp (op : Nat) (c : BitVec 256) : Bool := cmdOp c == op
def isForm (op form : Nat) (c : BitVec 256) : Bool := cmdOp c == op && cmdForm c == form

/-- R224, R232: NOP. -/
def execNop (i : IfaceId) (st : Strm) (s : State) : Out :=
  run (.nop i st) s fun s => s.begin i st (isOp 0x00) fun c s => s.doneAtOnce i st c

/-- R226, R232: a plain WAIT. -/
def execWait (i : IfaceId) (st : Strm) (s : State) : Out :=
  run (.wait i st) s fun s => s.begin i st (isForm 0x01 0) fun c s => s.doneAtOnce i st c

/-- R206: a generation acquire: those that wait look again, then the head command begins. -/
def execGenAcquire (i : IfaceId) (st : Strm) (s : State) : Out :=
  run (.genAcquire i st) s fun s => (s.genAwaits i st).begin i st (isForm 0x01 1) fun c s => s.genAcquire i st c

/-- R226, R232: a plain SIGNAL. -/
def execSignal (i : IfaceId) (st : Strm) (s : State) : Out :=
  run (.signal i st) s fun s => s.begin i st (isForm 0x02 0) fun c s => s.doneAtOnce i st c

/-- R207: a generation release. -/
def execGenRelease (i : IfaceId) (st : Strm) (s : State) : Out :=
  run (.genRelease i st) s fun s => s.begin i st (isForm 0x02 1) fun c s => s.genRelease i st c

/-- R226, R238: the target interface of a remote SIGNAL, if it is a top-level interface of the same job. -/
def State.remoteTarget (s : State) (i : IfaceId) (c : BitVec 256) : Option IfaceId :=
  let t := if cmdTkind c then (s.jobNo i).map fun n => IfaceId.gang n (BitVec.ofNat 12 (cmdTarget c))
    else (s.physOf (cmdTarget c)).map IfaceId.core
  t.bind fun t => if (s.ifc t).top && s.jobNo t == s.jobNo i then some t else none

/-- R233, R237 to R239: a remote SIGNAL adds one to a counter of its target. -/
def State.remoteSignal (s : State) (i : IfaceId) (st : Strm) (c : BitVec 256) : State :=
  let a := s.headAt i st c
  match s.remoteTarget i c with
  | none => (s.halt a false Code.badCommand (.bob i) []).beginLost i st c
  | some t =>
    let m := 2 ^ cmdToken c
    let s := s.doneAtOnce i st c
    if (s.ifc t).toksFull m then s.halt a false Code.tokenOverflow (.bob i) []
    else s.updIfc t fun x => (if t = i then x else x.outsideAdd m).addToks m

/-- R226, R233: a remote SIGNAL. -/
def execRemoteSignal (i : IfaceId) (st : Strm) (s : State) : Out :=
  run (.remoteSignal i st) s fun s => s.begin i st (isForm 0x02 2) fun c s => s.remoteSignal i st c

/-- R422, R100: one contribution; at BC_NEED the token is signalled, ITER advances and the count restarts. -/
def Job.contribute (j : Job) : Job :=
  if j.bcCount.toNat + 1 = j.bcNeed then { j with bcCount := 0, iter := j.iter + 1 } else { j with bcCount := j.bcCount + 1 }

/-- R422: SIGNAL of form 3. -/
def execBackwardComplete (i : IfaceId) (st : Strm) (s : State) : Out :=
  run (.backwardComplete i st) s fun s => s.begin i st (isForm 0x02 3) fun c s =>
    let s := match s.jobNo i with
      | some n => s.updJob n Job.contribute
      | none => s
    s.doneAtOnce i st c

/-- R232: the first begun FENCE of a stream completes once every earlier command of the stream has completed. -/
def State.fenceDone (s : State) (i : IfaceId) (st : Strm) : State :=
  match ((s.ifc i).strm st).flight with
  | f :: _ => if cmdOp f.cmd = 0x03 then s.complete i st f else s
  | [] => s

/-- R232: FENCE. It begins without waiting for earlier commands, and completes after them. -/
def execFence (i : IfaceId) (st : Strm) (s : State) : Out :=
  run (.fence i st) s fun s => (s.begin i st (isOp 0x03) fun c s => s.beginFlight i st c).fenceDone i st

end Sys2Proof.Machine
end

