-- ==== Sys2Proof/Machine/Span.lean ====
section
/-! DEFINITION. Layer spans: LAYER_BEGIN, LAYER_END, the commit and the repeat, patch lists and the hem group's decision
(R150 to R169, R172). -/

namespace Sys2Proof.Machine

/-- An access of the cluster scheduler for a command: it is checked, and a denied one halts the interface. -/
def State.schedCheck (s : State) (a : At) (k : Acc) (addr n : Nat) : Act Unit :=
  match s.denied a.ifc false k addr n with
  | some d => .error (s.haltDenied a false (.sched (s.schedOf a.ifc)) (s.engineNo a.ifc) d)
  | none => .ok ()

/-- An access of the cluster scheduler: it is checked, and passes the home lookup of its lines (R354). -/
def State.schedAccess (s : State) (a : At) (k : Acc) (addr n : Nat) : Act State := do
  s.schedCheck a k addr n
  pure (s.touchAll a.ifc [(k, addr, n)])

/-- SPAN_BAD (R157). -/
def State.spanHalt (s : State) (a : At) : State := s.halt a false Code.spanBad (.sched (s.schedOf a.ifc)) []

/-- A 32-bit word at a device address. -/
def State.word32 (s : State) (a : Nat) : Nat := s.natAt a 4

/-- Write a 32-bit word at a device address. -/
def State.put32 (s : State) (a v : Nat) : State := s.put a (leBytes 4 v)

/-- R159: a layer descriptor carries a reserved encoding. -/
def layerBad (d : BitVec 256) : Bool :=
  decide (5 < layerMaxRung d) || !zeroBits d.toNat 24 8 || !zeroBits d.toNat 192 64
  || (match flt32.dec (layerThr d) with
    | .fin n m _ => n && decide (m ≠ 0)
    | _ => true)
  || !plainDev (layerState d) || decide (layerState d % 32 ≠ 0)
  || !plainDev (layerPatchAddr d) || decide (layerPatchAddr d % 32 ≠ 0)

/-- R160: word 0 of a state record: RUNG, APPLIED_SEQ and REPEATS. -/
def recRung (w : Nat) : Nat := fld w 0 3
def recApplied (w : Nat) : Nat := fld w 8 8
def recWord0 (rung applied repeats : Nat) : Nat := rung + applied * 2 ^ 8 + repeats * 2 ^ 16

/-- R163: apply a patch list at a rung: every record is read and checked before any patch is written. An ADDR that is no
plain device address raises SPAN_BAD, as a misaligned one does: the spec names no code for it (DESIGN CHOICE, log 56). Where one
record is misaligned and another lies outside the windows, the misalignment is judged first (DESIGN CHOICE, log 56). -/
def State.applyPatches (s : State) (a : At) (d : BitVec 256) (rung : Nat) : Act State := do
  let base := layerPatchAddr d
  let n := layerPatches d
  if n = 0 then pure s
  else
    let s ← s.schedAccess a .read base (32 * n)
    let recs := (upto n).map fun k => s.natAt (base + 32 * k) 32
    let addrs := recs.map fun r => dwordAt r 0
    if addrs.any (fun x => !plainDev x || decide (x % 4 ≠ 0)) then throw (s.spanHalt a)
    match firstSome (fun x => s.denied a.ifc false .write x 4) addrs with
    | some e => throw (s.haltDenied a false (.sched (s.schedOf a.ifc)) (s.engineNo a.ifc) e)
    | none => pure (forEach (fun r s => (s.touchAll a.ifc [(.write, dwordAt r 0, 4)]).put32 (dwordAt r 0) (wordAt r (2 + rung))) recs s)

/-- R164: apply the list when the rung differs from the one at which this LAYER_ID's list was last applied in the job. -/
def State.patchTo (s : State) (a : At) (d : BitVec 256) (rung : Nat) : Act State :=
  match s.jobNo a.ifc, s.jobOf a.ifc with
  | some n, some j =>
    if j.rungs.get 0 (layerId d) = rung then .ok s
    else do
      let s ← s.applyPatches a d rung
      pure (s.updJob n fun j => { j with rungs := j.rungs.set 0 (layerId d) rung })
  | _, _ => .ok s

/-- R161: a pending rung request is applied, or logged as BAD_ENCODING; answers the rung at which the span runs. -/
def State.rungRequest (s : State) (a : At) (d : BitVec 256) : Act (Nat × State) := do
  let r := layerState d
  let s ← s.schedAccess a .read r 32
  let w0 := s.word32 r
  let w1 := s.word32 (r + 4)
  if fld w1 8 8 = recApplied w0 then pure (recRung w0, s)
  else if !zeroBits w1 3 5 || !zeroBits w1 16 16 || decide (layerMaxRung d < fld w1 0 3) then
    pure (recRung w0, s.raise (.sched (s.schedOf a.ifc)) Code.badEncoding (s.keyOf a.ifc) [layerId d])
  else
    let s ← s.schedAccess a .write r 4
    pure (fld w1 0 3, s.put32 r (recWord0 (fld w1 0 3) (fld w1 8 8) (fld w0 16 4)))

/-- R152, R153, R161 to R164: both LAYER_BEGIN have met their waits and everything before them has completed: the span
takes effect. -/
def State.spanBegin (s : State) (i : IfaceId) (ca cx : BitVec 256) : Act State := do
  let a := s.headAt i .acc ca
  let addr := cmdAddr ca
  if !plainDev addr || decide (addr % 32 ≠ 0) then throw (s.spanHalt a)
  s.schedCheck a .read addr 32
  let s := s.touchAll i [(.fetch, addr, 32)]
  let d := BitVec.ofNat 256 (s.natAt addr 32)
  if layerBad d then throw (s.spanHalt a)
  let (rung, s) ← s.rungRequest a d
  let s ← s.patchTo a d rung
  let posA := (s.ifc i).acc.head
  let posX := (s.ifc i).exe.head
  let s := (s.doneAtOnce i .acc ca).doneAtOnce i .exe cx
  let x := s.ifc i
  let snap : Snap := { tokens := x.tokens, preds := x.preds, seq := x.seq, crease := x.crease, posA := posA, posX := posX }
  let sp : Span := { addr := BitVec.ofNat 64 addr, desc := d, snap := snap, rung := rung }
  let s := s.updIfc i fun x => { x with span := some sp }
  pure ((s.arrive i .acc).arrive i .exe)

/-- Take the counters of a head command of an opcode, where its stream may begin commands. -/
def State.takeIf (s : State) (i : IfaceId) (st : Strm) (op : Nat) : State :=
  match ((s.ifc i).strm st).cur with
  | some c => if s.open i st && isOp op c then s.takeHead i st c else s
  | none => s

/-- The head command of a stream, when it has the opcode and its counters are taken. -/
def Stream.ready (t : Stream) (op : Nat) : Option (BitVec 256) :=
  match t.cur with
  | some c => if isOp op c && t.taken.isSome then some c else none
  | none => none

/-- A LAYER_END in flight (R154). -/
def Flight.isEnd (f : Flight) : Bool := cmdOp f.cmd == 0x05

/-- Everything that has begun on a stream has completed, a LAYER_END put aside. -/
def Stream.quiet (t : Stream) : Bool := t.flight.all Flight.isEnd

/-- Everything that has begun on an interface has completed (R152, R154). -/
def Iface.quiet (x : Iface) : Bool := x.acc.quiet && x.exe.quiet && x.store.isEmpty

/-- R151, R57: on an empty gang a layer marker completes as a skipped command does. -/
def State.skipMarker (s : State) (i : IfaceId) (st : Strm) (op : Nat) : State :=
  match ((s.ifc i).strm st).ready op with
  | some c => (s.skip i st c).arrive i st
  | none => s

/-- R152: LAYER_BEGIN. -/
def State.layerBegin (s : State) (i : IfaceId) : State :=
  let s := (s.takeIf i .acc 0x04).takeIf i .exe 0x04
  if s.emptyGang i then (s.skipMarker i .acc 0x04).skipMarker i .exe 0x04
  else
    let x := s.ifc i
    match x.acc.ready 0x04, x.exe.ready 0x04 with
    | some ca, some cx => if x.quiet && !x.halted then (s.spanBegin i ca cx).state else s
    | _, _ => s

/-- R152: LAYER_BEGIN. -/
def execLayerBegin (i : IfaceId) (s : State) : Out := run (.layerBegin i) s fun s => s.layerBegin i

/-- R154: LAYER_END takes its counters and begins; it is in flight until the commit. -/
def State.layerEnd (s : State) (i : IfaceId) (st : Strm) : State :=
  let s := s.takeIf i st 0x05
  if s.emptyGang i then s.skipMarker i st 0x05
  else match ((s.ifc i).strm st).ready 0x05 with
    | none => s
    | some c =>
      let s := (s.beginFlight i st c).updIfc i fun x =>
        { x with span := x.span.map fun sp => match st with
          | .acc => { sp with endA := true }
          | .exe => { sp with endX := true } }
      s.arrive i st

/-- R154: LAYER_END. -/
def execLayerEnd (i : IfaceId) (st : Strm) (s : State) : Out := run (.layerEnd i st) s fun s => s.layerEnd i st

/-! ### Commit (R154, R158, R168, R172) -/

/-- The FP64 sum of two FP64 encodings, rounded once. -/
def add64 (a b : DWord) : DWord :=
  BitVec.ofNat 64 (flt64.enc ((flt64.round .rne ((flt64.dec a.toNat).add (flt64.dec b.toNat)).1).1))

/-- A count that stops at its largest value. -/
def stopAdd (mx a b : Nat) : Nat := Nat.min mx (a + b)

/-- R158: the sum of a conversion-error slot and its staged copy. -/
def Cerr.add (a b : Cerr) : Cerr :=
  { sum := add64 a.sum b.sum, cnt := a.cnt + b.cnt, exc := BitVec.ofNat 16 (stopAdd 0xFFFF a.exc.toNat b.exc.toNat) }

/-- R158: each staged sum is added once into its slot, in ascending slot order. -/
def Mangle.commitTaps (m : Mangle) : Mangle :=
  let norm := forEach (fun k (t : Tab DWord) => t.set 0 k (add64 (t.get 0 k) (m.stNorm.get 0 k))) (dedup m.stNorm.keys) m.norm
  let cerr := forEach (fun k (t : Tab Cerr) => t.set {} k ((t.get {} k).add (m.stCerr.get {} k))) (dedup m.stCerr.keys) m.cerr
  { m with norm := norm, cerr := cerr, stNorm := ⟨[]⟩, stCerr := ⟨[]⟩ }

/-- The larger of two FP32 magnitudes (R160, CREASE_WORST). -/
def worse (a b : Word) : Word := if (flt32.dec a.toNat).lt (flt32.dec b.toNat) then b else a

/-- R160: the state record after a commit. -/
def State.recordCommit (s : State) (sp : Span) : State :=
  let r := layerState sp.desc
  let mx := 0xFFFFFFFF
  let s := s.put32 r (recWord0 sp.rung (recApplied (s.word32 r)) sp.repeats)
  let s := s.put32 (r + 12) (stopAdd mx (s.word32 (r + 12)) sp.sampled)
  let s := s.put32 (r + 16) (stopAdd mx (s.word32 (r + 16)) sp.disagree)
  let s := s.put32 (r + 20) (stopAdd mx (s.word32 (r + 20)) (sp.got.filter fun d => decide (0 < d.scaled)).length)
  let s := s.put32 (r + 24) (worse (BitVec.ofNat 32 (s.word32 (r + 24))) sp.worst).toNat
  s.put32 (r + 28) (stopAdd mx (s.word32 (r + 28)) sp.skipped)

/-- A delivery that stands for a whole span where none was made. -/
def Delivery.ofSpan (i : Nat) : Delivery :=
  { idx := i, strm := .exe, tag := 0, seq := none, rung := none, isInt := false, scaled := 0, conds := {} }

/-- R208: releases of the span take effect; none where one raises GEN_BAD. -/
def State.spanReleases (s : State) (i : IfaceId) : List (Nat × Word) → Except Nat State
  | [] => .ok s
  | (e, g) :: r => match (s.genEnt i e).bind fun x => x.release g with
    | some x => (s.setGen i e x).spanReleases i r
    | none => .error e

/-- R168: the span's status: the notices of the attempt that commits. The spec names no field for it; the model merges them
into the job's code at the commit (DESIGN CHOICE, log 55). -/
def Span.status (sp : Span) : List (BitVec 16) :=
  (if 0 < sp.repeats then [Code.layerRepeat] else [])
  ++ (if sp.got.any fun d => decide (0 < d.scaled) then [Code.tileRescaled] else [])

/-- R166, R172: the overflows that a commit reports as kept: each one into INT8 or INT32, and, where an INVALID of the span
has kept a repeat away, the first that would have led to one. -/
def Span.kept (sp : Span) : List Delivery :=
  sp.got.filter Delivery.intOverflow ++ (sp.got.find? Delivery.overflows).toList

/-- The LAYER_END of a stream that waits for the commit. -/
def Stream.endMark (t : Stream) : Option Flight := t.flight.find? Flight.isEnd

/-- R233: a LAYER_END of a stream completes. -/
def State.markDone (s : State) (i : IfaceId) (st : Strm) : State :=
  match ((s.ifc i).strm st).endMark with
  | some f => s.complete i st f
  | none => s

/-- The place of the execute stream's LAYER_END, for codes that a commit raises. -/
def State.endAt (s : State) (i : IfaceId) : At :=
  match (s.ifc i).exe.endMark with
  | some f => ⟨i, .exe, f.idx, cmdTag f.cmd⟩
  | none => ⟨i, .exe, (s.ifc i).exe.head, 0⟩

/-- R168, R172: the commit. With NAN_HALT 1, an INVALID of the span halts the interface instead; on a hem gang the INVALID of
any of its devices does, so that all eight act alike (R169). -/
def State.spanCommit (s : State) (i : IfaceId) (sp : Span) : Act State := do
  let layer := some (layerId sp.desc)
  let src := s.numSrc i
  let a := s.endAt i
  let firstInv := sp.got.find? fun d => decide (0 < d.conds.inv)
  if (firstInv.isSome || sp.groupInv) && s.nanHalt i then
    let d := firstInv.getD { Delivery.ofSpan a.idx with tag := BitVec.ofNat 16 a.tag }
    throw (s.haltWith ⟨i, d.strm, d.idx, d.tag.toNat⟩ d.seq.isSome Code.nanInvalid src (s.numArgs i layer 0 d))
  let r := layerState sp.desc
  let s ← s.schedAccess a .read r 32
  let s ← s.schedAccess a .write r 4
  let s ← s.schedAccess a .write (r + 8) 24
  let s ← match s.spanReleases i sp.released with
    | .ok s => pure s
    | .error e => throw (s.genHalt a false Code.genBad e)
  let s := forEach (fun c s => s.updCore c fun k => { k with mng := k.mng.commitTaps }) (s.coresOf i) s
  let s := s.recordCommit sp
  let s := sp.status.foldl (fun s c => s.jobCode i c) s
  let s := match firstInv with
    | some d => s.raiseFor src Code.nanInvalid i (s.numArgs i layer 0 d)
    | none => s
  let s := forEach (fun d (s : State) => s.raiseFor src Code.overflowKept i (s.numArgs i layer 0 d)) sp.kept s
  let s := if 0 < sp.disagree then
      s.raiseFor src Code.crease i (s.numArgs i layer 0 (sp.odd.getD (Delivery.ofSpan a.idx))) else s
  let s := s.updIfc i fun x => { x with span := none }
  pure ((s.markDone i .acc).markDone i .exe)

/-- R154: the conditions of a commit but for the decision. -/
def State.atCommit (s : State) (i : IfaceId) (sp : Span) : Bool :=
  let x := s.ifc i
  sp.endA && sp.endX && !sp.stopped && !x.halted && x.quiet
  && (s.coresOf i).all fun c => match (s.core c).mng.sample with
    | some p => decide (p.owner ≠ i)
    | none => true

/-- R167 phase 1: an overflow has stopped the span, and the commands in flight have completed. -/
def State.atRepeat (s : State) (i : IfaceId) (sp : Span) : Bool :=
  let x := s.ifc i
  sp.stopped && !x.halted && x.acc.quiet && x.exe.quiet

/-! ### Repeat (R166, R167) -/

/-- R167 phase 2: what a core drops: staged taps, its Crease sample of the interface, and, for a core interface, its
queue entries (R251). -/
def Core.dropSpan (k : Core) (i : IfaceId) : Core :=
  let keep := k.mng.sample.filter fun p => decide (p.owner ≠ i)
  { k with
    dq := if isGang i then k.dq else ⟨[]⟩
    mng := { k.mng with stNorm := ⟨[]⟩, stCerr := ⟨[]⟩, sample := keep, normWait := k.mng.normWait.filter fun x => x.owner != i } }

/-- R239: the token counters of the snapshot with the additions from outside the span. -/
def Span.tokens (sp : Span) : Tab (BitVec 16) :=
  forEach (fun n (t : Tab (BitVec 16)) =>
    t.set 0 n (BitVec.ofNat 16 (Nat.min 65535 ((sp.snap.tokens.get 0 n).toNat + sp.outside.get 0 n)))) (upto 32) sp.snap.tokens

/-- R153, R167 phase 2, R251: restore the snapshot; release held banks, and discard staged taps, samples and queue
entries. -/
def State.restore (s : State) (i : IfaceId) (sp : Span) : State :=
  let s := s.releaseHeld i
  let s := forEach (fun c s => s.updCore c fun k => k.dropSpan i) (s.coresOf i) s
  let s := forEach (fun (e, sl) s => match s.genEnt i e with
      | some g => s.setGen i e (g.setRefs sl (g.refs sl - 1))
      | none => s) sp.acquired s
  s.updIfc i fun x =>
    { x with
      tokens := sp.tokens
      preds := sp.snap.preds
      seq := sp.snap.seq
      crease := sp.snap.crease
      store := []
      acc := { x.acc with head := sp.snap.posA + 1, fetched := [], taken := none, flight := [], broken := false }
      exe := { x.exe with head := sp.snap.posX + 1, fetched := [], taken := none, flight := [], broken := false } }

/-- R167: the repeat at a new rung. The notice goes to Lint now, and to the job with the span's status (R168). -/
def State.spanRepeat (s : State) (i : IfaceId) (sp : Span) (new : Nat) : Act State := do
  let d := (sp.got.find? Delivery.overflows).getD (Delivery.ofSpan sp.snap.posX)
  let a : At := ⟨i, d.strm, d.idx, d.tag.toNat⟩
  let r := layerState sp.desc
  if layerMaxRung sp.desc < new then
    throw (s.halt a d.seq.isSome Code.ladderExhausted (s.numSrc i) [])
  let s ← s.schedAccess a .read r 32
  let s ← s.schedAccess a .write r 12
  let s := s.restore i sp
  let s := s.put32 r (recWord0 new (recApplied (s.word32 r)) (fld (s.word32 r) 16 4))
  let s := s.put32 (r + 8) (stopAdd 0xFFFFFFFF (s.word32 (r + 8)) 1)
  let s := s.notice i (s.numSrc i) Code.layerRepeat (s.numArgs i (some (layerId sp.desc)) new d)
  let s := s.updIfc i fun x => { x with span := some { sp with
    rung := new, repeats := sp.repeats + 1, got := [], stopped := false, endA := false, endX := false,
    acquired := [], released := [], sampled := 0, disagree := 0, odd := none, worst := 0, skipped := 0, told := false, agreed := none, groupInv := false } }
  s.patchTo a sp.desc new

/-! ### The hem group's decision (R169) -/

/-- R169: this device's summary. -/
def Span.summary (sp : Span) : HemSummary :=
  { ovf := sp.overflowed, rung := sp.newRung, inv := sp.invalid, base := sp.rung }

/-- A summary as the words of its message (log 21). -/
def HemSummary.words (h : HemSummary) : List Nat := [b2n h.ovf + 2 * b2n h.inv + h.rung * 2 ^ 8 + h.base * 2 ^ 16]

/-- A summary from the word of its message. -/
def HemSummary.ofWord (w : Nat) : HemSummary :=
  { ovf := bitOf w 0, inv := bitOf w 1, rung := fld w 8 8, base := fld w 16 8 }

/-- The first summary of each hem slot, when all eight have arrived. -/
def Iface.allHem (x : Iface) : Option (List HemSummary) :=
  let l := (upto 8).filterMap fun k => (x.hem.find? fun h => h.1 == k).map (·.2)
  if l.length = 8 then some l else none

/-- Take the first summary of each hem slot away. -/
def Iface.dropHem (x : Iface) : Iface :=
  { x with hem := (upto 8).foldl (fun l k => l.eraseP fun h => h.1 == k) x.hem }

/-- R169: reach the hem group: send the own summary once. -/
def State.hemSummary (s : State) (i : IfaceId) (sp : Span) : State :=
  if sp.told then s
  else
    let s := s.updIfc i fun x =>
      { x with span := some { sp with told := true }, hem := x.hem ++ [(s.hemSlot, sp.summary)] }
    s.hemTell i msgSummary sp.summary.words

/-- R169: the decision once all eight summaries have arrived: a repeat at the highest proposed rung; or no repeat, with
the highest rung, and a stopped device goes on to its LAYER_END. -/
def State.hemDecide (s : State) (i : IfaceId) (sp : Span) : State :=
  match (s.ifc i).allHem with
  | none => s
  | some l =>
    let s := s.updIfc i Iface.dropHem
    if (l.any HemSummary.ovf) && !(l.any HemSummary.inv) then
      (s.spanRepeat i { sp with told := true } ((l.filter HemSummary.ovf).foldl (fun m h => Nat.max m h.rung) 0)).state
    else
      let rung := l.foldl (fun m h => Nat.max m h.base) sp.rung
      let inv := l.any HemSummary.inv
      s.updIfc i fun x => { x with span := some { sp with told := true, stopped := false, rung := rung, agreed := some rung, groupInv := inv } }

/-- The span of an interface at its commit point or stopped, for a hem gang: send the summary, then decide; a device
that the group has let commit does so at its LAYER_END. -/
def State.hemStep (s : State) (i : IfaceId) (sp : Span) : State :=
  let s := if sp.agreed.isNone then (s.hemSummary i sp).hemDecide i sp else s
  match (s.ifc i).span with
  | some sp => if sp.agreed.isSome && s.atCommit i sp then (s.spanCommit i sp).state else s
  | none => s

/-- R168: SPAN_COMMIT. -/
def execSpanCommit (i : IfaceId) (s : State) : Out :=
  run (.spanCommit i) s fun s => match (s.ifc i).span with
    | none => s
    | some sp =>
      if !s.atCommit i sp then s
      else if s.isHem i then s.hemStep i sp
      else (s.spanCommit i sp).state

/-- R167: LAYER_REPEAT. -/
def execLayerRepeat (i : IfaceId) (s : State) : Out :=
  run (.layerRepeat i) s fun s => match (s.ifc i).span with
    | none => s
    | some sp =>
      if !s.atRepeat i sp then s
      else if s.isHem i then s.hemStep i sp
      else (s.spanRepeat i sp sp.newRung).state

end Sys2Proof.Machine
end

