-- ==== Sys2Proof/Machine/Transfer.lean ====
section
/-! DEFINITION. The access engine: LOAD and STORE with their variants, near-memory atomics, GATHER and SCATTER, the data
queues, and speculative fetches (R227, R247 to R252, R348, R351, R369 to R376). -/

namespace Sys2Proof.Machine

/-! ### Finishing a command -/

/-- A command's engine has finished with it. -/
def State.finish (s : State) (i : IfaceId) (st : Strm) (idx : Nat) : State := s.updFlight i st idx fun f => { f with fin := true }

/-- A begun command fails: it never completes, and its interface halts. -/
def State.failHalt (s : State) (a : At) (code : BitVec 16) (args : List Nat) : State :=
  (s.loseFlight a.ifc a.st a.idx).halt a false code (.bob a.ifc) args

/-- A begun command fails on a denied access. -/
def State.failDenied (s : State) (a : At) (d : Denied) : State :=
  (s.loseFlight a.ifc a.st a.idx).haltDenied a false (.bob a.ifc) (s.engineNo a.ifc) d

/-! ### Data queues (R247 to R250) -/

/-- Append entries to a data queue of a core. Entries beyond 64 still stand in their producer (R250). -/
def State.qpush (s : State) (r : CoreRef) (q : Nat) (es : List QEnt) : State :=
  s.updCore r fun k => { k with dq := k.dq.upd [] q (· ++ es) }

/-- R249: the bytes of a command as one group of entries, the last padded with zero bytes. -/
def groupOf (bs : List Byte) : List QEnt :=
  let l := chunks 512 (bs.length / 512 + 1) bs
  l.zipIdx.map fun (c, k) => { data := c ++ List.replicate (512 - c.length) 0, last := k + 1 == l.length }

/-- `n` entries have left the queue that a command pushes into; it has finished once the queue holds its last entry. -/
def Flight.moved (f : Flight) (q n : Nat) : Flight :=
  if f.qdst = some q ∧ f.qend ≠ 0 then
    let e := f.qend - n
    { f with qend := if e ≤ 64 then 0 else e, fin := f.fin || decide (e ≤ 64) }
  else f

/-- R294: the newest entry of a queue stands in a group that a program may still end with it: all its bytes lie in whole
entries, so `vend` would mark that entry as the last. -/
def State.openTail (s : State) (r : CoreRef) (q : Nat) : Bool :=
  match (s.core r).vec.run with
  | some x => (if q = 2 then x.any2 && x.push2.isEmpty else decide (q = 3) && x.any3 && x.push3.isEmpty)
      && (((s.core r).dq.get [] q).getLast?.any fun e => !e.last)
  | none => false

/-- Producers of a core's queue move up as `n` entries leave it. -/
def State.qmoved (s : State) (r : CoreRef) (q n : Nat) : State :=
  s.updStrm (.core r) .acc fun t => { t with flight := t.flight.map fun f => f.moved q n }

/-- Take up to `n` entries from the head of a core's data queue. -/
def State.qpop (s : State) (r : CoreRef) (q n : Nat) : List QEnt × State :=
  let l := (s.core r).dq.get [] q
  let es := l.take n
  (es, (s.updCore r fun k => { k with dq := k.dq.set [] q (l.drop n) }).qmoved r q es.length)

/-- A command of the access stream pushes its group into a queue of its core. -/
def State.pushGroup (s : State) (i : IfaceId) (idx q : Nat) (bs : List Byte) : State :=
  match i with
  | .core r =>
    let es := groupOf bs
    let n := ((s.core r).dq.get [] q).length + es.length
    (s.qpush r q es).updFlight i .acc idx fun f =>
      { f with qdst := some q, qend := if n ≤ 64 then 0 else n, fin := decide (n ≤ 64) }
  | .gang .. => s

/-! ### Places -/

/-- What an address field of a transfer names on this device. -/
inductive Place where
  | mem (a : Nat)
  | reg (a : Nat)
  | far (node phys a : Nat)
  | queue (q : Nat)
  deriving DecidableEq, Repr

/-- R411, R416: a global access whose node has no valid entry is not injected: its access engine raises FAB_DISCARD, and the
interface halts. -/
def State.notInjected (s : State) (a : At) : State :=
  s.haltWith a false Code.fabDiscard (.bob a.ifc) [0xFF, 7, 0, 0, 0, 0]

/-- The place that an address field names; a handle is resolved (R205), a node translated (R411). -/
def State.find (s : State) (a : At) (w : Nat) : Act Place :=
  match queueRef w with
  | some q => .ok (.queue q)
  | none =>
    if isHandle w then match s.resolve a.ifc w with
      | .ok d => .ok (.mem d)
      | .error code => .error (s.genHalt a false code (handleEntry w))
    else match s.devOf w with
      | some d => .ok (if inRegs d then .reg d else .mem d)
      | none => match plainAddr w with
        | .global n d => match s.physOfNode n with
          | some p => .ok (.far n p d)
          | none => .error (s.notInjected a)
        | _ => .ok (.mem 0)

/-- R372: a device address at which no near-memory atomic of elements of `size` bytes may stand. -/
def notAtomicHome (size d : Nat) : Bool :=
  !(decide (d < hbmEnd) || (decide (cupbBase ≤ d) && decide (d < cupbBase + 2 ^ 34))) || decide (d % size ≠ 0)

/-- R366 reason 5 and R372: an atomic's access to a range that breaks R372 where `bad` is set. `reg` says that the command's
own places take in the core register region (R351). -/
def State.deniedAtomic (s : State) (i : IfaceId) (reg bad : Bool) (k : Acc) (d n : Nat) : Option Denied :=
  if bad then
    let r := if !reg && inRegs d then 1 else reasonAt (s.winsOf i) (s.gangsAbove i) k d
    some ⟨Code.windowFault, d, if r = 0 then 5 else r, k⟩
  else s.denied i reg k d n

/-- R368: check the range of a place; `size` is the element size of an atomic, 0 for a copy. A global place is checked for
alignment here, and at its home by R371; what is recorded is the global address. -/
def State.placeDenied (s : State) (i : IfaceId) (k : Acc) (size n : Nat) : Place → Option Denied
  | .mem d =>
    if size = 0 then s.denied i false k d n
    else s.deniedAtomic i false (if k = .atomic then notAtomicHome size d else decide (d % size ≠ 0)) k d n
  | .reg d => if size = 0 then s.denied i true k d n else s.deniedAtomic i true true k d n
  | .far node _ d =>
    if size ≠ 0 ∧ (if k = .atomic then notAtomicHome size d else decide (d % size ≠ 0)) then
      some ⟨Code.windowFault, 2 ^ 47 + node * 2 ^ 48 + d, 5, k⟩
    else none
  | .queue _ => none

/-- The same, halting the interface. -/
def State.checkPlace (s : State) (a : At) (k : Acc) (size n : Nat) (p : Place) : Act Unit :=
  match s.placeDenied a.ifc k size n p with
  | some d => .error (s.haltDenied a false (.bob a.ifc) (s.engineNo a.ifc) d)
  | none => .ok ()

/-! ### Near-memory atomics (R372, R373) -/

/-- R373: one step of an atomic: the new element and its conditions. -/
def atomicOp (xop old new : Nat) : Nat × Cnd :=
  let f := atomicFmt xop
  let a := f.dec 0 old
  let b := f.dec 0 new
  match (xop - 1) / 4 with
  | 0 => if f = .int32 then ((old + new) % 2 ^ 32, {}) else
    let (x, inv) := a.add b
    f.result 0 x inv
  | 1 => (f.cvt 0 .rne (a.min b)).1 |> (·, {})
  | _ => (f.cvt 0 .rne (a.max b)).1 |> (·, {})

/-- Count conditions. -/
def Conds.note (c : Conds) (x : Cnd) : Conds := { c with inv := c.inv + b2n x.inv, ovf := c.ovf + b2n x.ovf }

/-- R372: apply an atomic's elements in ascending order from device address `d` up. -/
def State.applyAtomic (s : State) (xop d : Nat) : List (List Byte) → Conds → State × Conds
  | [], c => (s, c)
  | e :: r, c =>
    let n := atomicSize xop
    let (v, x) := atomicOp xop (s.natAt d n) (leNat e)
    (s.put d (leBytes n v)).applyAtomic xop (d + n) r (c.note x)

/-- R372: an atomic's elements reach memory; lines present in the home cache stay there, others are not allocated. -/
def State.atomicTo (s : State) (xop d : Nat) (bs : List Byte) : State × Conds :=
  let (s, c) := s.applyAtomic xop d (chunks (atomicSize xop) bs.length bs) {}
  (s.touch (fun _ => clsBulk) (fun _ => true) true d bs.length, c)

/-! ### Press and table images (R132, R192) -/

/-- R132: the header of a table image keeps its rules. -/
def tableGood (ws : List Word) : Bool :=
  let x0 := flt32.dec (nth ws 0 0).toNat
  let x1 := flt32.dec (nth ws 1 0).toNat
  nth ws 6 0 == 0 && nth ws 7 0 == 0 && x0.isFinite && x1.isFinite
  && match (x1.sub x0).1 with
    | .fin false m e => decide (m ≠ 0) && decide (m = 2 ^ m.log2) && decide (-126 ≤ (m.log2 : Int) + e) && decide ((m.log2 : Int) + e ≤ 127)
    | _ => false

/-- R27, R132: the Press of a core fills a slot; where the header is bad it marks the slot not valid, the slot keeps its kind
and image, and BAD_ENCODING is reported. -/
def State.fillSlot (s : State) (i : IfaceId) (n : Nat) (deriv : Bool) (ws : List Word) (r : CoreRef) : State :=
  let good := tableGood ws
  let s := s.updCore r fun k =>
    { k with mng := { k.mng with tbl := k.mng.tbl.set {} n (if good then { valid := true, deriv := deriv, image := ws } else { k.mng.tbl.get {} n with valid := false }) } }
  if good then s else s.raiseFor (.mng r) Code.badEncoding i [0, 0, 0, 0, 0]

/-- R134: the tiles of an interface that name a slot and have not written their last row, by index. -/
def State.tilesNaming (s : State) (i : IfaceId) (n : Nat) : List Nat :=
  (s.coresOf i).flatMap fun r => (s.core r).mng.tiles.filterMap fun t =>
    if t.owner = i ∧ t.phase ≠ .done ∧ fld (wordAt t.desc.toNat 2) 12 4 = n then some t.idx else none

/-- R134: a LOAD in flight whose image has still to fill a slot. -/
def Flight.fills (f : Flight) (n : Nat) : Bool := f.image && fld (cmdDst f.cmd) 0 4 == n

/-- R134: the newest LOAD of an interface that has begun and has still to fill a slot. -/
def State.pendingFill (s : State) (i : IfaceId) (n : Nat) : Option Flight := (s.ifc i).acc.flight.reverse.find? fun f => f.fills n

/-- R134: a slot as a tile that begins now will find it: as the newest LOAD before the tile leaves it, which is taken to fill it. -/
def State.tblSlot (s : State) (i : IfaceId) (r : CoreRef) (n : Nat) : TblSlot :=
  match s.pendingFill i n with
  | some f => { valid := true, deriv := cmdXop f.cmd == 2 }
  | none => (s.core r).mng.tbl.get {} n

/-- R134: the earlier tiles that name the slot of a LOAD have written their last rows, and every earlier LOAD has filled it. -/
def State.mayFill (s : State) (i : IfaceId) (f : Flight) : Bool :=
  f.image && !f.buf.isEmpty
  && !((s.ifc i).acc.flight.any fun g => decide (g.idx < f.idx) && g.fills (fld (cmdDst f.cmd) 0 4))
  && (s.coresOf i).all fun r => (s.core r).mng.tiles.all fun t => !(t.owner == i && decide (t.phase ≠ .done) && f.after.contains t.idx)

/-- A tile of a core that waits for a LOAD has the slot that the LOAD has left. -/
def Tile.hasTable (t : Tile) (i : IfaceId) (idx : Nat) (sl : TblSlot) : Tile :=
  if t.owner = i ∧ t.tblFrom = some idx then { t with tblImg := sl.image, tblDer := sl.deriv, tblFrom := none } else t

/-- R133, R134: a LOAD whose image is in hand fills its slot. The tiles that have begun behind it go on with what it has left;
where that is not valid, the first of them is not executed. -/
def State.fillTable (s : State) (i : IfaceId) (f : Flight) : State :=
  let n := fld (cmdDst f.cmd) 0 4
  let s := forEach (fun r s => s.fillSlot i n (decide (cmdXop f.cmd = 2)) (leWords f.buf) r) (s.coresOf i) s
  let s := s.updFlight i .acc f.idx fun f => { f with fin := true, image := false, buf := [] }
  let waits (r : CoreRef) : Option (CoreRef × Nat) :=
    ((s.core r).mng.tiles.find? fun t => t.owner == i && t.tblFrom == some f.idx && (s.ifc i).mayHandle t.idx).map fun t => (r, t.idx)
  let first := firstSome (fun r => if ((s.core r).mng.tbl.get {} n).valid then none else waits r) (s.coresOf i)
  let s := forEach (fun r s => s.updCore r fun k =>
    let sl := k.mng.tbl.get {} n
    { k with mng := { k.mng with tiles := k.mng.tiles.map fun t => t.hasTable i f.idx sl } }) (s.coresOf i) s
  match first with
  | some (r, idx) => s.halt ⟨i, .exe, idx, ((s.flightOf i .exe idx).map fun f => cmdTag f.cmd).getD 0⟩ true Code.tblEmpty (.mng r) []
  | none => s

/-- R134: the LOADs of an interface that may fill their slots do, in issue order. -/
def State.fillTables (s : State) (i : IfaceId) : State :=
  forEach (fun (f : Flight) s => if s.mayFill i f then s.fillTable i f else s) (s.ifc i).acc.flight s

/-! ### The bytes of a transfer reach their destination -/

/-- The transfers of a command that have an engine to carry them: bytes in hand go to DST. -/
def State.sink (s : State) (i : IfaceId) (f : Flight) (bs : List Byte) : State :=
  let c := f.cmd
  let a : At := ⟨i, .acc, f.idx, cmdTag c⟩
  let xop := cmdXop c
  if cmdOp c = 0x10 && decide (xop ≠ 0) then (s.updFlight i .acc f.idx fun f => { f with buf := bs }).fillTables i
  else match s.find a (cmdDst c) with
    | .error s => s.loseFlight i .acc f.idx
    | .ok (.mem d) =>
      if xop = 0 then ((s.put d bs).touchAll i [(.write, d, bs.length)]).finish i .acc f.idx
      else
        let (s, x) := s.atomicTo xop d bs
        s.updFlight i .acc f.idx fun f => { f with fin := true, conds := x }
    | .ok (.reg d) => (s.writeRegion d bs.length (leNat bs)).finish i .acc f.idx
    | .ok (.queue q) => s.pushGroup i f.idx q bs
    | .ok (.far n p d) =>
      let m := if xop = 0 then 4032 else 4032 / atomicSize xop * atomicSize xop
      let s := s.updFlight i .acc f.idx fun f => { f with fin := true, reqs := ceilDiv bs.length m }
      (s.askWrite i f.idx none n p d xop bs).pump

/-! ### Gather and scatter (R375, R376) -/

def gLog (d : Nat) : Nat := fld d 0 4
def gWide (d : Nat) : Bool := bitOf d 4
def gOp (d : Nat) : Nat := fld d 8 4
def gCount (d : Nat) : Nat := wordAt d 1
def gLimit (d : Nat) : Nat := dwordAt d 2
def gIndex (d : Nat) : Nat := dwordAt d 4
def gBase (d : Nat) : Nat := dwordAt d 6
def gData (d : Nat) : Nat := dwordAt d 8
def gSize (d : Nat) : Nat := 2 ^ gLog d
/-- Bytes of one index. -/
def gIdxSize (d : Nat) : Nat := if gWide d then 8 else 4
/-- Element bytes of a scatter's atomic, 0 for a copy. -/
def gAtomic (d : Nat) : Nat := if gOp d = 0 then 0 else atomicSize (gOp d)

/-- R375: a gather descriptor carries a reserved encoding. -/
def gatherBad (gang scatter : Bool) (d : Nat) : Bool :=
  decide (12 < gLog d) || !zeroBits d 5 3 || !zeroBits d 12 20 || !zeroBits d 320 192
  || (if scatter then decide (12 < gOp d) || (decide (gOp d ≠ 0) && decide (gSize d % atomicSize (gOp d) ≠ 0)) else decide (gOp d ≠ 0))
  || !plainDev (gIndex d) || !(plainDev (gBase d) || (!scatter && isHandle (gBase d)))
  || !(plainDev (gData d) || (if scatter then queueIn gang (gData d) 2 3 else queueIn gang (gData d) 0 1))

/-- The result of a run over elements: the state, bytes gathered for a queue, conditions, and the access that failed. -/
structure GRun where
  s     : State
  out   : List (List Byte) := []
  conds : Conds := {}
  stop  : Option Denied := none

/-- R376: element `k` of a GATHER. `q` says that DATA is a queue. -/
def gatherElem (i : IfaceId) (d base : Nat) (q : Bool) (k : Nat) (x : GRun) : GRun :=
  if x.stop.isSome then x
  else
    let s := x.s
    let n := gSize d
    let ia := gIndex d + k * gIdxSize d
    match s.denied i false .read ia (gIdxSize d) with
    | some e => { x with stop := some e }
    | none =>
      let j := s.natAt ia (gIdxSize d)
      let s := s.touchAll i [(.read, ia, gIdxSize d)]
      let src := base + j * n
      let da := gData d + k * n
      match (if j < gLimit d then s.denied i false .read src n else none) with
      | some e => { x with stop := some e }
      | none =>
        let bs := if j < gLimit d then s.bytesAt src n else List.replicate n 0
        let s := if j < gLimit d then s.touchAll i [(.read, src, n)] else s
        if q then { x with s := s, out := bs :: x.out }
        else match s.denied i false .write da n with
          | some e => { x with stop := some e }
          | none => { x with s := (s.put da bs).touchAll i [(.write, da, n)] }

/-- R376: element `k` of a SCATTER; `bs` holds the data when they come from a queue. -/
def scatterElem (i : IfaceId) (d : Nat) (bs : Option (List Byte)) (k : Nat) (x : GRun) : GRun :=
  if x.stop.isSome then x
  else
    let s := x.s
    let n := gSize d
    let ia := gIndex d + k * gIdxSize d
    match s.denied i false .read ia (gIdxSize d) with
    | some e => { x with stop := some e }
    | none =>
      let j := s.natAt ia (gIdxSize d)
      let s := s.touchAll i [(.read, ia, gIdxSize d)]
      if gLimit d ≤ j then { x with s := s }
      else
        let dst := gBase d + j * n
        let da := gData d + k * n
        let z := gAtomic d
        let data : Except Denied (List Byte) := match bs with
          | some l => .ok ((l.drop (k * n)).take n)
          | none => match s.deniedAtomic i false (decide (z ≠ 0) && decide (da % z ≠ 0)) .read da n with
            | some e => .error e
            | none => .ok (s.bytesAt da n)
        let s := if bs.isNone then s.touchAll i [(.read, da, n)] else s
        let bad := match z with
          | 0 => s.denied i false .write dst n
          | z => s.deniedAtomic i false (notAtomicHome z dst) .atomic dst n
        match bad, data with
        | some e, _ => { x with stop := some e }
        | none, .error e => { x with stop := some e }
        | none, .ok v =>
          if z = 0 then { x with s := (s.put dst v).touchAll i [(.write, dst, n)] }
          else
            let (s, c) := s.atomicTo (gOp d) dst v
            { x with s := s, conds := { inv := x.conds.inv + c.inv, ovf := x.conds.ovf + c.ovf } }

/-- A SCATTER, its data in hand, runs; a denied element halts the interface. -/
def State.scatterRun (s : State) (i : IfaceId) (f : Flight) (d : Nat) (bs : Option (List Byte)) : State :=
  let x := forEach (scatterElem i d bs) (upto (gCount d)) { s := s }
  match x.stop with
  | some e => x.s.failDenied ⟨i, .acc, f.idx, cmdTag f.cmd⟩ e
  | none => x.s.updFlight i .acc f.idx fun f => { f with fin := true, conds := x.conds }

/-- A GATHER runs; a denied element halts the interface. -/
def State.gatherRun (s : State) (i : IfaceId) (f : Flight) (d base : Nat) : State :=
  let q := queueRef (gData d)
  let x := forEach (gatherElem i d base q.isSome) (upto (gCount d)) { s := s }
  let bs := x.out.reverse.flatten
  match x.stop, q with
  | some e, none => x.s.failDenied ⟨i, .acc, f.idx, cmdTag f.cmd⟩ e
  | some e, some q =>
    let whole := (groupOf (bs.take (bs.length / 512 * 512))).map fun e => { e with last := false }
    let s := match i with
      | .core r => x.s.qpush r q whole
      | .gang .. => x.s
    s.failDenied ⟨i, .acc, f.idx, cmdTag f.cmd⟩ e
  | none, some q => if gCount d = 0 then x.s.finish i .acc f.idx else x.s.pushGroup i f.idx q bs
  | none, none => x.s.finish i .acc f.idx

/-! ### Consumers of queues 2 and 3 (R250) -/

/-- A command that has taken all its entries goes on: a STORE copies, a SCATTER runs. Where the last entry does not end its
group its read ends inside one, and QUEUE_SKEW stops it before it writes (log 33). -/
def State.drained (s : State) (i : IfaceId) (f : Flight) (last : Bool) : State :=
  if !last then s.failHalt ⟨i, .acc, f.idx, cmdTag f.cmd⟩ Code.queueSkew []
  else if cmdOp f.cmd = 0x11 then s.sink i f (f.buf.take (cmdLen f.cmd))
  else s.scatterRun i f f.gdesc.toNat (some f.buf)

/-- The oldest command of a core's access stream that still takes entries from queue `q` takes those that stand there;
`fuel` bounds the commands served. An entry that a program may still end its group with is not taken as the last of a read
(log 44). -/
def State.drainGo (s : State) (r : CoreRef) (q : Nat) : Nat → State
  | 0 => s
  | fuel + 1 =>
    let i := IfaceId.core r
    match (s.ifc i).acc.flight.find? fun f => decide (f.qsrc = some q) && decide (f.qneed ≠ 0) with
    | none => s
    | some f =>
      let open_ := s.openTail r q && decide (f.qneed = ((s.core r).dq.get [] q).length)
      let (es, s) := s.qpop r q (if open_ then f.qneed - 1 else f.qneed)
      if es.isEmpty then s
      else
        let f := { f with qneed := f.qneed - es.length, buf := f.buf ++ es.flatMap (·.data) }
        let s := s.updFlight i .acc f.idx fun _ => f
        if f.qneed = 0 then (s.drained i f ((es.getLast?.map (·.last)).getD true)).drainGo r q fuel else s

/-- Serve the consumers of a core's queue. -/
def State.drain (s : State) (r : CoreRef) (q : Nat) : State := s.drainGo r q (s.ifc (.core r)).acc.flight.length

/-- A begun command takes its data from a queue of its core. -/
def State.takeQueue (s : State) (i : IfaceId) (idx q n : Nat) : State :=
  match i with
  | .core r => (s.updFlight i .acc idx fun f => { f with qsrc := some q, qneed := ceilDiv n 512 }).drain r q
  | .gang .. => s.finish i .acc idx

/-! ### Beginning a transfer -/

/-- R227, R348, R351, R368, R372: a LOAD or STORE begins. Each place it names is found and checked in the order of the
fields, before anything moves. -/
def State.transferGo (s : State) (i : IfaceId) (c : BitVec 256) : Act State := do
  let a := s.headAt i .acc c
  let len := cmdLen c
  let xop := cmdXop c
  let table := cmdOp c == 0x10 && decide (xop ≠ 0)
  let size := if cmdOp c = 0x11 ∧ xop ≠ 0 then atomicSize xop else 0
  let src ← s.find a (cmdAddr c)
  s.checkPlace a .read size len src
  if table then pure ()
  else
    let dst ← s.find a (cmdDst c)
    s.checkPlace a (if size = 0 then .write else .atomic) size len dst
  let old := if table then s.tilesNaming i (fld (cmdDst c) 0 4) else []
  let s := (s.beginFlight i .acc c).updFlight i .acc a.idx fun f => { f with image := table, after := old }
  let f : Flight := { idx := a.idx, cmd := c }
  match src with
  | .mem d =>
    let bs := s.bytesAt d len
    pure ((s.touchAll i [(.read, d, len)]).sink i f bs)
  | .reg d => pure (s.sink i f (leBytes len (s.readReg d len)))
  | .queue q => pure (s.takeQueue i a.idx q len)
  | .far n p d =>
    let s := s.updFlight i .acc a.idx fun f => { f with reqs := ceilDiv len 4096 }
    pure (s.askRead i a.idx n p d len 0).pump

/-- A transfer or OPTSTEP command (R231). -/
def isEngineOp (op : Nat) : Bool := (decide (0x10 ≤ op) && decide (op ≤ 0x13)) || decide (op = 0x50)

/-- R231 step 5: the access engine of an interface has fewer than 16 transfer and OPTSTEP commands in flight. -/
def State.engineFree (s : State) (i : IfaceId) : Bool :=
  decide (((s.ifc i).acc.flight.filter fun f => isEngineOp (cmdOp f.cmd)).length < 16)

/-- A LOAD or STORE at the head of the access stream begins (R227, R244, R252). -/
def State.transfer (s : State) (i : IfaceId) (c : BitVec 256) : State :=
  let idx := (s.ifc i).acc.head
  if !s.engineFree i then s
  else if cmdLen c = 0 ∨ s.engineCore i = none then (s.beginFlight i .acc c).finish i .acc idx
  else (s.transferGo i c).begun i .acc c

/-- R375, R376: a GATHER or SCATTER begins: its descriptor is read and checked, then its elements move. As a LOAD with LEN = 0 or
a tile of zero extent (R244), a GATHER with COUNT = 0 moves nothing, and a handle in BASE is not resolved (DEDUCED, log 72). -/
def State.gatherGo (s : State) (i : IfaceId) (c : BitVec 256) : Act State := do
  let a := s.headAt i .acc c
  let scatter := cmdOp c == 0x13
  s.checkPlace a .read 0 64 (.mem (cmdAddr c))
  let d := s.natAt (cmdAddr c) 64
  if gatherBad (isGang i) scatter d then throw (s.halt a false Code.badCommand (.bob i) [])
  let base ← if isHandle (gBase d) && decide (gCount d ≠ 0) then match s.resolve i (gBase d) with
      | .ok b => pure b
      | .error code => throw (s.genHalt a false code (handleEntry (gBase d)))
    else pure (gBase d)
  let s := (s.touchAll i [(.fetch, cmdAddr c, 64)]).beginFlight i .acc c
  let f : Flight := { idx := a.idx, cmd := c }
  if scatter then match queueRef (gData d) with
    | some q =>
      if gCount d = 0 then pure (s.finish i .acc a.idx)
      else
        let s := s.updFlight i .acc a.idx fun f => { f with gdesc := BitVec.ofNat 512 d }
        pure (s.takeQueue i a.idx q (gCount d * gSize d))
    | none => pure (s.scatterRun i f d none)
  else pure (s.gatherRun i f d base)

/-- A GATHER or SCATTER at the head of the access stream begins. -/
def State.gather (s : State) (i : IfaceId) (c : BitVec 256) : State :=
  let idx := (s.ifc i).acc.head
  if !s.engineFree i then s
  else if s.engineCore i = none then (s.beginFlight i .acc c).finish i .acc idx else (s.gatherGo i c).begun i .acc c

/-! ### The commands -/

/-- A LOAD, or a STORE, whose XOP lies in a range. -/
def isXop (op lo hi : Nat) (c : BitVec 256) : Bool := cmdOp c == op && decide (lo ≤ cmdXop c) && decide (cmdXop c ≤ hi)

/-- R227: LOAD. -/
def execLoad (i : IfaceId) (s : State) : Out :=
  run (.load i) s fun s => s.begin i .acc (isXop 0x10 0 0) fun c s => s.transfer i c

/-- R132: LOAD of a forward table. -/
def execLoadForwardTable (i : IfaceId) (s : State) : Out :=
  run (.loadForwardTable i) s fun s => s.begin i .acc (isXop 0x10 1 1) fun c s => s.transfer i c

/-- R192: LOAD of a derivative table. -/
def execLoadDerivativeTable (i : IfaceId) (s : State) : Out :=
  run (.loadDerivativeTable i) s fun s => s.begin i .acc (isXop 0x10 2 2) fun c s => s.transfer i c

/-- R227: STORE. -/
def execStore (i : IfaceId) (s : State) : Out :=
  run (.store i) s fun s => s.begin i .acc (isXop 0x11 0 0) fun c s => s.transfer i c

/-- R372, R373: atomic add. -/
def execAtomicAdd (i : IfaceId) (s : State) : Out :=
  run (.atomicAdd i) s fun s => s.begin i .acc (isXop 0x11 1 4) fun c s => s.transfer i c

/-- R373: atomic minimum. -/
def execAtomicMin (i : IfaceId) (s : State) : Out :=
  run (.atomicMin i) s fun s => s.begin i .acc (isXop 0x11 5 8) fun c s => s.transfer i c

/-- R373: atomic maximum. -/
def execAtomicMax (i : IfaceId) (s : State) : Out :=
  run (.atomicMax i) s fun s => s.begin i .acc (isXop 0x11 9 12) fun c s => s.transfer i c

/-- R376: GATHER. -/
def execGather (i : IfaceId) (s : State) : Out :=
  run (.gather i) s fun s => s.begin i .acc (isOp 0x12) fun c s => s.gather i c

/-- R376: SCATTER. -/
def execScatter (i : IfaceId) (s : State) : Out :=
  run (.scatter i) s fun s => s.begin i .acc (isOp 0x13) fun c s => s.gather i c

/-! ### Fetching and completing commands -/

/-- R220: the next command of a stream is fetched, where an entry of the Bobbin is free. -/
def execCommandFetch (i : IfaceId) (st : Strm) (s : State) : Out :=
  run (.commandFetch i st) s fun s =>
    let x := s.ifc i
    let t := x.strm st
    let idx := t.head + t.fetched.length
    let addr := t.base.toNat + 32 * idx
    if !x.top || x.halted || decide (t.count ≤ idx) || decide (512 ≤ t.fetched.length + t.flight.length) then s
    else match s.denied i false .fetch addr 32 with
      | some d => s.haltDenied ⟨i, st, idx, 0⟩ false (.bob i) (s.engineNo i) d
      | none =>
        let c := BitVec.ofNat 256 (s.natAt addr 32)
        let s := s.touchAll i [(.fetch, addr, 32)]
        let s := s.updStrm i st fun t => { t with fetched := t.fetched ++ [c] }
        if t.fetched.isEmpty then s.arrive i st else s

/-- The number by which the hem group knows an attempt of a command: the index, and the repeats of its span. -/
def Iface.hemKey (x : Iface) (idx : Nat) : Nat := idx + ((x.span.map (·.repeats)).getD 0) * 2 ^ 32

/-- R254: hem slot `k` need not be waited for: its device has completed the command, or has stopped its span. -/
def Iface.peerDone (x : Iface) (st : Strm) (idx k : Nat) : Bool :=
  x.hemDone.contains (st, x.hemKey idx, k) || x.hem.any fun h => h.1 == k && h.2.ovf && !h.2.inv

/-- The predicate writes of a command on this device, a gang's in the order of its members (R279). -/
def Flight.allPreds (f : Flight) : List (Nat × Bool) := f.preds ++ f.mpreds.cells.flatMap (·.2)

/-- Predicate writes as one word: the flags written in the low half, their last values in the high half. -/
def predWord (ps : List (Nat × Bool)) : Nat :=
  ps.foldl (fun w (n, b) => setFld (setFld w n 1 1) (16 + n) 1 (b2n b)) 0

/-- The predicate writes that a word stands for. -/
def wordPreds (w : Nat) : List (Nat × Bool) := ((upto 16).filter (bitOf w)).map fun n => (n, bitOf w (16 + n))

/-- R254: the completion on this device is told once to the hem group's other devices, with its predicate writes (R279). -/
def State.tellDone (s : State) (i : IfaceId) (st : Strm) (f : Flight) : State :=
  if f.told then s
  else (s.updFlight i st f.idx fun f => { f with told := true }).hemTell i msgDone
    [strmNo st, f.idx, (s.ifc i).hemKey f.idx / 2 ^ 32, predWord f.allPreds]

/-- R279: the predicate writes of a command that completes: this device's, or every device's in ascending hem slot order. -/
def State.predsOf (s : State) (i : IfaceId) (f : Flight) : List (Nat × Bool) :=
  if s.isHem i then
    let x := s.ifc i
    (upto 8).flatMap fun k =>
      if k = s.hemSlot then f.allPreds
      else match x.hemPreds.find? fun h => h.1 == x.hemKey f.idx && h.2.1 == k with
        | some h => wordPreds h.2.2.toNat
        | none => []
  else f.allPreds

/-- What a completed command delivers (R138, R166, R173). -/
def Flight.delivery (f : Flight) (st : Strm) : Delivery :=
  { idx := f.idx, strm := st, tag := BitVec.ofNat 16 (cmdTag f.cmd), seq := f.seq, rung := f.rung, isInt := f.isInt,
    scaled := f.scaled, conds := f.conds }

/-- R209: at the completion of an OPTSTEP that writes a generation entry, the target slot holds the next generation and
becomes current. -/
def State.genDone (s : State) (i : IfaceId) (f : Flight) : State :=
  match f.gen.bind fun n => (s.genEnt i n).map (n, ·) with
  | none => s
  | some (n, e) =>
    if !e.writing then s
    else
      let t := !e.cur
      let g := e.current + 1
      let e := e.setRet t false
      s.setGen i n { (if t then { e with gen1 := g } else { e with gen0 := g }) with writing := false }

/-- The block that reports a command's conditions: OPTSTEP itself, or the cluster scheduler (R187). -/
def State.condSrc (s : State) (i : IfaceId) (c : BitVec 256) : Src := if cmdOp c = 0x50 then .bob i else s.numSrc i

/-- A command that has ended on this device completes; on a hem gang, once it has ended on all eight (R254). -/
def State.settle (s : State) (i : IfaceId) (st : Strm) (f : Flight) : State :=
  let done (s : State) : State :=
    let s := (s.genDone i f).complete i st { f with preds := s.predsOf i f }
    let s := s.updIfc i fun x => if st = .exe then { x with hemPreds := x.hemPreds.filter fun h => h.1 != x.hemKey f.idx } else x
    let s := s.updIfc i fun x => { x with hemDone := x.hemDone.filter fun h => !(h.1 == st && h.2.1 == x.hemKey f.idx) }
    s.deliver i (s.condSrc i f.cmd) (f.delivery st)
  if s.isHem i then
    let s := s.tellDone i st f
    if (upto 8).all fun k => k == s.hemSlot || (s.ifc i).peerDone st f.idx k then done s else s
  else done s

/-- R60, R252: a command that a gang splits over its members. -/
def isSplit (c : BitVec 256) : Bool := isMangleOp (cmdOp c) || cmdOp c == 0x30 || cmdOp c == 0x50

/-- A command has ended on this device: its engine has finished, its sub-commands have completed, and its global requests
have been answered. Of the Mangle commands of a halted interface, those that stand at the offending one or behind it never
complete (R256). -/
def State.ended (s : State) (i : IfaceId) (f : Flight) : Bool :=
  f.fin && !s.darns (.access i f.idx) && decide (f.parts = 0) && decide (f.reqs = 0) && decide (f.qneed = 0) && decide (f.qend = 0)
  && !(isMangleOp (cmdOp f.cmd) && !(s.ifc i).mayHandle f.idx)

/-- R232, R233: a command completes. -/
def execCommandComplete (i : IfaceId) (st : Strm) (idx : Nat) (s : State) : Out :=
  run (.commandComplete i st idx) s fun s => match s.flightOf i st idx with
    | some f => if !(isGang i && isSplit f.cmd) && s.ended i f then s.settle i st f else s
    | none => s

/-- R60: a command that a gang split completes. -/
def execGangCommandComplete (i : IfaceId) (st : Strm) (idx : Nat) (s : State) : Out :=
  run (.gangCommandComplete i st idx) s fun s => match s.flightOf i st idx with
    | some f => if isGang i && isSplit f.cmd && s.ended i f then s.settle i st f else s
    | none => s

/-! ### Speculative fetches (R369, R370) -/

/-- An address lies in a range that the access engine may warm for a command that has not begun. -/
def State.warms (s : State) (i : IfaceId) (addr : Nat) (c : BitVec 256) : Bool :=
  let within (b n : Nat) : Bool := decide (b ≤ addr) && decide (addr < b + n)
  match cmdOp c with
  | 0x10 | 0x11 =>
    if isHandle (cmdAddr c) then match s.resolve i (cmdAddr c) with
      | .ok b => within b (cmdLen c)
      | .error _ => false
    else plainDev (cmdAddr c) && within (cmdAddr c) (cmdLen c)
  | 0x12 | 0x13 =>
    let d := s.natAt (cmdAddr c) 64
    within (gIndex d) (gCount d * gIdxSize d)
  | _ => false

/-- R369: the prefetcher may bring in a line after one that is present, within 4 KiB. -/
def State.nextLine (s : State) (addr : Nat) : Bool :=
  let l := addr / 256
  decide (l % 16 ≠ 0) && decide (s.ms.home.lines.get 0 (l - 1) ≠ 0)

/-- R152: the commands of an access Bobbin that stand before a LAYER_BEGIN which has not taken effect. -/
def Iface.fetchable (x : Iface) : List (BitVec 256) := x.acc.fetched.takeWhile fun c => decide (cmdOp c ≠ 0x04)

/-- R369, R370: a speculative fetch brings one HBM line into its home cache, or is squashed. -/
def execSpeculativeFetch (i : IfaceId) (addr : DWord) (s : State) : Out :=
  run (.speculativeFetch i addr) s fun s =>
    let a := addr.toNat
    let may := (s.ifc i).fetchable.any (s.warms i a) || s.nextLine a
    if may && decide (a < hbmEnd) && !s.stackFailed (a / 2 ^ 36) && reasonAt (s.winsOf i) (s.gangsAbove i) .read a == 0 && !s.streams i a then
      s.touchLine clsBackground false false (a / 256)
    else s

end Sys2Proof.Machine
end

