-- ==== Sys2Proof/Machine/Subs.lean ====
section
/-! DEFINITION. The members' Bobbins of a gang: the sub-commands of a VRUN, which each member begins in the gang's issue order
together with the sub-tiles that stand at its Mangle (R221, R253, R275). -/

namespace Sys2Proof.Machine

/-- Write a scalar register; a write to S0 is ignored. -/
def Vec.setS (v : Vec) (n x : Nat) : Vec := if n = 0 then v else { v with s := v.s.set 0 n (BitVec.ofNat 64 x) }

/-- Change the vector engine of a core. -/
def State.updVec (s : State) (r : CoreRef) (f : Vec → Vec) : State := s.updCore r fun k => { k with vec := f k.vec }

/-- R275: the state in which a program begins. -/
def Vec.launch (v : Vec) (u : VSub) : Vec :=
  let z : Vec := { lastCode := v.lastCode, rsel := v.rsel, faultAddr := v.faultAddr, pc := v.pc, prog := u.prog, run := some u.run }
  ((((z.setS 1 u.argA.toNat).setS 2 u.len).setS 3 u.first).setS 4 u.member).setS 5 u.count

/-- R253: an earlier sub-tile of the gang stands in the member's Bobbin: one that waits behind the tile at the Mangle's input,
which has begun (R114). -/
def Core.tilesBefore (k : Core) (u : VSub) : Bool :=
  decide (2 ≤ (k.mng.tiles.filter fun t => t.phase == .input && t.owner == u.run.owner && decide (t.idx < u.run.idx)).length)

/-- R253: an earlier sub-command of a gang's VRUN stands before a tile in the member's Bobbin. -/
def Core.subsBefore (k : Core) (t : Tile) : Bool := k.subs.any fun u => u.run.owner == t.owner && decide (u.run.idx < t.idx)

/-- R253: an earlier sub-command of a gang stands in the member's Bobbin: a VRUN that has not begun, or a sub-tile behind the tile
at the Mangle's input. -/
def Core.subsWait (k : Core) (i : IfaceId) : Bool :=
  (k.subs.any fun u => u.run.owner == i)
  || decide (2 ≤ (k.mng.tiles.filter fun t => t.phase == .input && t.owner == i).length)

/-- R253, R256, R275: the sub-command at the head of a member's Bobbin begins once the vector engine is free and every earlier
sub-command has begun, unless its gang has halted. -/
def State.startSub (s : State) (r : CoreRef) : State :=
  let k := s.core r
  match k.subs with
  | [] => s
  | u :: rest =>
    if k.vec.run.isSome || (s.ifc u.run.owner).halted || k.tilesBefore u then s
    else s.updCore r fun k => { k with subs := rest, vec := k.vec.launch u }

end Sys2Proof.Machine
end

