-- ==== Sys2Proof/Machine/TileDesc.lean ====
section
/-! DEFINITION. Tile descriptors: their fields, their reserved encodings, the shape of a tile and the places of its rows
(R106 to R116, R191, R194, R198). -/

namespace Sys2Proof.Machine

/-! ### Fields (R115) -/

/-- A tile descriptor. -/
abbrev TDesc := BitVec 1024

def TDesc.word (d : TDesc) (k : Nat) : Nat := wordAt d.toNat k
def TDesc.addr (d : TDesc) (k : Nat) : Nat := dwordAt d.toNat k
def TDesc.op (d : TDesc) : Nat := fld (TDesc.word d 0) 0 4
def TDesc.dflowField (d : TDesc) : Nat := fld (TDesc.word d 0) 4 2
def TDesc.fmtA (d : TDesc) : Nat := fld (TDesc.word d 0) 8 5
def TDesc.fmtW (d : TDesc) : Nat := fld (TDesc.word d 0) 16 5
def TDesc.fmtOut (d : TDesc) : Nat := fld (TDesc.word d 0) 24 5
def TDesc.rnd (d : TDesc) : Bool := bitOf (TDesc.word d 0) 29
def TDesc.grad (d : TDesc) : Bool := bitOf (TDesc.word d 0) 30
def TDesc.supplied (d : TDesc) : Bool := bitOf (TDesc.word d 0) 31
def TDesc.m (d : TDesc) : Nat := fld (TDesc.word d 1) 0 16
def TDesc.n (d : TDesc) : Nat := fld (TDesc.word d 1) 16 8
def TDesc.k (d : TDesc) : Nat := fld (TDesc.word d 1) 24 8
def TDesc.seq (d : TDesc) : Nat := fld (TDesc.word d 2) 0 12
def TDesc.tbl (d : TDesc) : Nat := fld (TDesc.word d 2) 12 4
def TDesc.accMode (d : TDesc) : Nat := fld (TDesc.word d 2) 17 2
def TDesc.hold (d : TDesc) : Bool := bitOf (TDesc.word d 2) 19
def TDesc.clip (d : TDesc) : Nat := fld (TDesc.word d 2) 20 2
def TDesc.normEn (d : TDesc) : Bool := bitOf (TDesc.word d 2) 22
def TDesc.normKind (d : TDesc) : Nat := fld (TDesc.word d 2) 23 2
def TDesc.normSlot (d : TDesc) : Nat := fld (TDesc.word d 2) 25 6
def TDesc.scaleExp (d : TDesc) : Int := toSigned 8 (fld (TDesc.word d 3) 0 8)
def TDesc.cerrEn (d : TDesc) : Bool := bitOf (TDesc.word d 3) 8
def TDesc.cerrSlot (d : TDesc) : Nat := fld (TDesc.word d 3) 9 6
def TDesc.wbuf (d : TDesc) : Nat := fld (TDesc.word d 3) 15 1
def TDesc.wtag (d : TDesc) : Nat := fld (TDesc.word d 3) 16 16
def TDesc.tid (d : TDesc) : Nat := TDesc.word d 4
def TDesc.wHeld (d : TDesc) : Bool := bitOf (TDesc.word d 5) 0
def TDesc.fmaskEn (d : TDesc) : Bool := bitOf (TDesc.word d 5) 1
def TDesc.biasEn (d : TDesc) : Bool := bitOf (TDesc.word d 5) 2
def TDesc.clipLo (d : TDesc) : Nat := TDesc.word d 6
def TDesc.clipHi (d : TDesc) : Nat := TDesc.word d 7
def TDesc.aAddr (d : TDesc) : Nat := TDesc.addr d 8
def TDesc.aScale (d : TDesc) : Nat := TDesc.addr d 10
def TDesc.wAddr (d : TDesc) : Nat := TDesc.addr d 12
def TDesc.wScale (d : TDesc) : Nat := TDesc.addr d 14
def TDesc.outAddr (d : TDesc) : Nat := TDesc.addr d 16
def TDesc.outScale (d : TDesc) : Nat := TDesc.addr d 18
def TDesc.biasAddr (d : TDesc) : Nat := TDesc.addr d 20
def TDesc.cinAddr (d : TDesc) : Nat := TDesc.addr d 22
def TDesc.aStride (d : TDesc) : Nat := fld (TDesc.word d 24) 0 24
def TDesc.wStride (d : TDesc) : Nat := fld (TDesc.word d 25) 0 24
def TDesc.outStride (d : TDesc) : Nat := fld (TDesc.word d 26) 0 24
def TDesc.idxRow (d : TDesc) : Nat := TDesc.word d 27
def TDesc.idxBase (d : TDesc) : Nat := fld (TDesc.addr d 28) 0 48
def TDesc.fmaskAddr (d : TDesc) : Nat := TDesc.addr d 30

/-- A format field as a format. -/
def fmtOf (c : Nat) : Fmt := (Fmt.ofCode c).getD .fp32
def TDesc.fA (d : TDesc) : Fmt := fmtOf (TDesc.fmtA d)
def TDesc.fW (d : TDesc) : Fmt := fmtOf (TDesc.fmtW d)
def TDesc.fOut (d : TDesc) : Fmt := fmtOf (TDesc.fmtOut d)

/-- R108: the accumulator is FP64. -/
def TDesc.acc64 (d : TDesc) : Bool := decide (TDesc.fmtA d ≤ 1) || decide (TDesc.fmtW d ≤ 1)

/-- R108: the accumulator format. -/
def TDesc.accFlt (d : TDesc) : Flt := if TDesc.acc64 d then flt64 else flt32
def TDesc.accFmt (d : TDesc) : Fmt := if TDesc.acc64 d then .fp64 else .fp32
/-- Bytes of an accumulator element. -/
def TDesc.accSize (d : TDesc) : Nat := if TDesc.acc64 d then 8 else 4

/-- R111: the dataflow of a command: 0 weight-stationary, 1 transposed, 2 output-stationary. -/
def dflowOf (op : Nat) (d : TDesc) : Nat :=
  match op with
  | 0x20 => 0
  | 0x21 => 1
  | 0x22 => 2
  | _ => TDesc.dflowField d

/-- R116: the row alignment of an operand: 4 w bytes for a block-scaled format, the element size otherwise. -/
def rowAlign (f : Fmt) : Nat := if f.isMx then 4 * f.width else f.width / 8

/-- Bytes that one scale-array row takes for a stride (R116). -/
def scaleStride (f : Fmt) (stride : Nat) : Nat := stride / (4 * f.width)

/-! ### Reserved encodings (R115, R116, R191, R194, R205, R228, R248) -/

/-- An address field that takes a plain device address or a handle. -/
def plainOrHandle (w : Nat) : Bool := plainDev w || isHandle w

/-- TBL names a derivative slot of the core whose Press runs (R193). -/
def TDesc.gated (d : TDesc) (sl : TblSlot) : Bool := decide (TDesc.tbl d ≠ 0) && sl.deriv

/-- The address fields that a tile uses are forms that the fields accept (R115, R205, R248). -/
def tileAddrsBad (gang : Bool) (df : Nat) (gate : Bool) (d : TDesc) : Bool :=
  let qa := (queueRef (TDesc.aAddr d)).isSome
  let qw := (queueRef (TDesc.wAddr d)).isSome
  let qo := (queueRef (TDesc.outAddr d)).isSome
  let usesW := df == 2 || !TDesc.wHeld d
  !(plainOrHandle (TDesc.aAddr d) || queueIn gang (TDesc.aAddr d) 0 1)
  || ((TDesc.fA d).isMx && !qa && !plainOrHandle (TDesc.aScale d))
  || (usesW && !(plainOrHandle (TDesc.wAddr d) || queueIn gang (TDesc.wAddr d) 0 1))
  || (usesW && (TDesc.fW d).isMx && !qw && !plainOrHandle (TDesc.wScale d))
  || !(plainDev (TDesc.outAddr d) || queueIn gang (TDesc.outAddr d) 2 3)
  || ((TDesc.fOut d).isMx && (!qo || TDesc.supplied d) && !plainDev (TDesc.outScale d))
  || (TDesc.biasEn d && !plainOrHandle (TDesc.biasAddr d))
  || ((TDesc.accMode d == 1 || gate) && !plainOrHandle (TDesc.cinAddr d))
  || (TDesc.fmaskEn d && !plainOrHandle (TDesc.fmaskAddr d))

/-- An FP32 encoding is a NaN. -/
def nan32 (w : Nat) : Bool := (flt32.dec w).isNan

/-- A weight-stationary or transposed tile with W_SRC = 1 uses no W operand (R113). -/
def TDesc.usesW (df : Nat) (d : TDesc) : Bool := df == 2 || !TDesc.wHeld d

/-- R116: a tile descriptor carries a reserved encoding, as far as it can be judged by itself. `op` is the command's
opcode; `gate` says that TBL names a derivative slot. -/
def tileBad (op : Nat) (gang : Bool) (splits : List Nat) (gate : Bool) (d : TDesc) : Bool :=
  let w0 := TDesc.word d 0
  let df := dflowOf op d
  let bound := if TDesc.acc64 d then 256 else 512
  let cinSize := if gate then 4 else TDesc.accSize d
  let cinHandle := isHandle (TDesc.cinAddr d)
  !zeroBits w0 6 2 || !zeroBits w0 13 3 || !zeroBits w0 21 3
  || !zeroBits (TDesc.word d 2) 16 1 || !zeroBits (TDesc.word d 2) 31 1 || !zeroBits (TDesc.word d 5) 3 29
  || !zeroBits (TDesc.word d 24) 24 8 || !zeroBits (TDesc.word d 25) 24 8 || !zeroBits (TDesc.word d 26) 24 8
  || !zeroBits (TDesc.word d 29) 16 16
  || decide (5 < TDesc.op d) || (if op = 0x23 then TDesc.op d == 0 || TDesc.dflowField d == 3
      else decide (TDesc.op d ≠ 0) || decide (TDesc.dflowField d ≠ 0))
  || decide (0x0C < TDesc.fmtA d) || decide (0x0C < TDesc.fmtW d) || decide (0x0D < TDesc.fmtOut d)
  || decide (128 < TDesc.n d) || decide (128 < TDesc.k d) || decide (8 < TDesc.tbl d)
  || TDesc.accMode d == 3 || TDesc.clip d == 3 || TDesc.normKind d == 3
  || (decide (df ≠ 2) && decide (bound < TDesc.m d))
  || ((queueRef (TDesc.aAddr d)).isNone && decide (TDesc.aStride d % rowAlign (TDesc.fA d) ≠ 0))
  || (!(TDesc.usesW df d && (queueRef (TDesc.wAddr d)).isSome) && decide (TDesc.wStride d % rowAlign (TDesc.fW d) ≠ 0))
  || ((queueRef (TDesc.outAddr d)).isNone && decide (TDesc.outStride d % rowAlign (TDesc.fOut d) ≠ 0))
  || ((TDesc.accMode d == 1 || gate) && (decide (TDesc.outStride d % cinSize ≠ 0)
      || decide ((if cinHandle then handleOff (TDesc.cinAddr d) else TDesc.cinAddr d) % cinSize ≠ 0)))
  || (TDesc.accMode d == 1 && gate)
  || (TDesc.acc64 d && decide (TDesc.tbl d ≠ 0))
  || (TDesc.fmaskEn d && TDesc.idxRow d == 0)
  || (TDesc.clip d == 2 && (nan32 (TDesc.clipLo d) || nan32 (TDesc.clipHi d)))
  || (op == 0x23 && ((df == 1 && splits.contains 1) || (df == 2 && splits.contains 0)))
  || tileAddrsBad gang df gate d

/-! ### The shape of a tile (R111, R128) -/

/-- A part of a tile's extents: M, N and K as (begin, size). -/
structure Region where
  m0 : Nat
  mN : Nat
  n0 : Nat
  nN : Nat
  k0 : Nat
  kN : Nat
  deriving DecidableEq, Repr

/-- The whole of a tile. -/
def TDesc.whole (d : TDesc) : Region := ⟨0, TDesc.m d, 0, TDesc.n d, 0, TDesc.k d⟩

/-- Output rows and columns, (begin, size) each, and the reduction's (begin, size). -/
def Region.rows (r : Region) (df : Nat) : Nat × Nat := if df = 2 then (r.k0, r.kN) else (r.m0, r.mN)
def Region.cols (r : Region) (df : Nat) : Nat × Nat := if df = 1 then (r.k0, r.kN) else (r.n0, r.nN)
def Region.red (r : Region) (df : Nat) : Nat × Nat :=
  match df with
  | 0 => (r.k0, r.kN)
  | 1 => (r.n0, r.nN)
  | _ => (r.m0, r.mN)

/-- Rows and columns of operand A, and of operand W. -/
def Region.aRows (r : Region) : Nat × Nat := (r.m0, r.mN)
def Region.aCols (r : Region) (df : Nat) : Nat × Nat := if df = 1 then (r.n0, r.nN) else (r.k0, r.kN)
def Region.wRows (r : Region) (df : Nat) : Nat × Nat := if df = 2 then (r.m0, r.mN) else (r.k0, r.kN)
def Region.wCols (r : Region) : Nat × Nat := (r.n0, r.nN)

/-- R128: the output has zero extent. -/
def Region.noOutput (r : Region) (df : Nat) : Bool := decide ((r.rows df).2 = 0) || decide ((r.cols df).2 = 0)

/-- A tile's region. -/
def Tile.region' (t : Tile) : Region := ⟨t.m0, t.mN, t.n0, t.nN, t.k0, t.kN⟩

/-- A tile's dataflow. -/
def Tile.df (t : Tile) : Nat := dflowOf t.op.toNat t.desc

/-- A tile's reduction length is zero (R128). -/
def Tile.noRed (t : Tile) : Bool := decide ((t.region'.red t.df).2 = 0)

/-- A tile loads W into a weight buffer (R112, R128), or uses what an earlier tile has loaded (R113). -/
def Tile.loads (t : Tile) : Bool := decide (t.df ≠ 2) && !TDesc.wHeld t.desc && !t.noRed
def Tile.reuses (t : Tile) : Bool := decide (t.df ≠ 2) && TDesc.wHeld t.desc

/-- A part that takes the tile's initial value: any but a later part of a sum (R139). -/
def isFirst (raw : Option (List Nat)) : Bool := match raw with
  | some p => !p.any (· != 0)
  | none => true

/-! ### The bytes of a row (R78, R79, R116) -/

/-- Element bytes of a row's columns c0 to c0 + n - 1: (offset, length), whole blocks for a block-scaled format. -/
def rowBytes (f : Fmt) (c0 n : Nat) : Nat × Nat :=
  if n = 0 then (0, 0)
  else if f.isMx then
    let b := 4 * f.width
    (b * (c0 / 32), b * ((c0 + n - 1) / 32 - c0 / 32 + 1))
  else (c0 * (f.width / 8), n * (f.width / 8))

/-- Scale bytes of the same columns: (offset, length). -/
def rowScales (f : Fmt) (c0 n : Nat) : Nat × Nat :=
  if n = 0 ∨ !f.isMx then (0, 0) else (c0 / 32, (c0 + n - 1) / 32 - c0 / 32 + 1)

/-- The values of a row's columns c0 to c0 + n - 1 from its bytes, element bytes and scale bytes as `rowBytes` and
`rowScales` place them. -/
def rowVals (f : Fmt) (c0 n : Nat) (el sc : List Byte) : List FVal :=
  let w := leNat el
  (upto n).map fun j =>
    if f.isMx then
      let e := c0 % 32 + j
      mxVal f (nth sc (e / 32) 0).toNat (fld w (f.width * e) f.width)
    else f.dec 0 (fld w (f.width * j) f.width)

/-- The byte ranges of an operand's rows r0 to r0 + rN - 1: elements, then scales. -/
def operandRanges (k : Acc) (f : Fmt) (addr scale stride : Nat) (rows cols : Nat × Nat) : Ranges :=
  let e := rowBytes f cols.1 cols.2
  let s := rowScales f cols.1 cols.2
  if cols.2 = 0 then []
  else (rangeFrom rows.1 rows.2).map (fun r => (k, addr + r * stride + e.1, e.2))
    ++ if s.2 = 0 then [] else (rangeFrom rows.1 rows.2).map fun r => (k, scale + r * scaleStride f stride + s.1, s.2)

/-! ### Frozen rows (R198, R199) -/

/-- The mask block of output row i of a tile. -/
def TDesc.maskBlock (d : TDesc) (i : Nat) : Nat := (TDesc.idxBase d / TDesc.idxRow d + i) / 128

/-- The mask bytes that output rows r0 to r0 + rN - 1 need. -/
def TDesc.maskRange (d : TDesc) (rows : Nat × Nat) : Ranges :=
  if TDesc.fmaskEn d && decide (0 < rows.2) then
    let b0 := TDesc.maskBlock d rows.1 / 8
    [(.read, TDesc.fmaskAddr d + b0, TDesc.maskBlock d (rows.1 + rows.2 - 1) / 8 - b0 + 1)]
  else []

/-- The ranges of operand A, and of operand W, that a part reads: none from a data queue, and none where nothing is reduced. -/
def aRanges (df : Nat) (d : TDesc) (r : Region) : Ranges :=
  if (queueRef (TDesc.aAddr d)).isSome || decide ((r.red df).2 = 0) then []
  else operandRanges .read (TDesc.fA d) (TDesc.aAddr d) (TDesc.aScale d) (TDesc.aStride d) r.aRows (r.aCols df)
def wRanges (df : Nat) (d : TDesc) (r : Region) : Ranges :=
  if (queueRef (TDesc.wAddr d)).isSome || decide ((r.red df).2 = 0) || !TDesc.usesW df d then []
  else operandRanges .read (TDesc.fW d) (TDesc.wAddr d) (TDesc.wScale d) (TDesc.wStride d) (r.wRows df) r.wCols

/-- Rows of an array of elements of `size` bytes at CIN_ADDR: the initial values of R120, or the saved inputs of R193. -/
def cinRanges (df : Nat) (d : TDesc) (r : Region) (size : Nat) : Ranges :=
  (rangeFrom (r.rows df).1 (r.rows df).2).map fun i =>
    (.read, TDesc.cinAddr d + i * TDesc.outStride d + size * (r.cols df).1, size * (r.cols df).2)

/-- The supplied scale bytes of the rows of a Press (R137). -/
def supRanges (df : Nat) (d : TDesc) (r : Region) : Ranges :=
  let fo := TDesc.fOut d
  let sc := rowScales fo (r.cols df).1 (r.cols df).2
  if fo.isMx && TDesc.supplied d then
    (rangeFrom (r.rows df).1 (r.rows df).2).map fun i => (.read, TDesc.outScale d + i * scaleStride fo (TDesc.outStride d) + sc.1, sc.2)
  else []

/-- The bias elements of the columns of a Press (R131). -/
def biasRanges (df : Nat) (d : TDesc) (r : Region) : Ranges :=
  if TDesc.biasEn d then [(.read, TDesc.biasAddr d + TDesc.accSize d * (r.cols df).1, TDesc.accSize d * (r.cols df).2)] else []

/-- R367, R368: every range that a part of a tile names, in the order of the address fields. `r` is what its array
covers and `pr` what its Press covers; `press` says that its Press runs, `init` that it takes the initial value. The frozen
mask is named by every part, whether its Press runs or not (R115, R201). -/
def tileRanges (df : Nat) (d : TDesc) (r pr : Region) (press init gate : Bool) : Ranges :=
  let rows := (pr.rows df).2
  let out := operandRanges .write (TDesc.fOut d) (TDesc.outAddr d) (TDesc.outScale d) (TDesc.outStride d) (pr.rows df) (pr.cols df)
  let sup := supRanges df d pr
  aRanges df d r ++ wRanges df d r
  ++ (if press then (if (queueRef (TDesc.outAddr d)).isSome then sup else out.take rows ++ sup ++ out.drop rows) else [])
  ++ (if press then biasRanges df d pr else [])
  ++ (if TDesc.accMode d == 1 && init then cinRanges df d r (TDesc.accSize d) else if press && gate then cinRanges df d pr 4 else [])
  ++ TDesc.maskRange d ((if press then pr else r).rows df)

end Sys2Proof.Machine
end

