-- ==== Sys2Proof/Machine/Mangle.lean ====
section
/-! DEFINITION. The Mangle: cells and their operations, the beginning of a tile, gang splits, tile slots, reduction, chaining
and the check at the accumulator store (R105 to R128, R139, R188 to R191). -/

namespace Sys2Proof.Machine

/-! ### Cell operations (R109, R110, R117, R118) -/

/-- Identity of an operation (R117). -/
def opIdentity (op : Nat) : FVal :=
  match op with
  | 1 => .inf false
  | 2 => .inf true
  | _ => .zero

/-- Round a sum into an accumulator format; `inv` is what the exact operation raised. -/
def accRound (f : Flt) (x : FVal) (inv : Bool) : FVal × Cnd :=
  let (v, o) := f.round .rne x
  (v, { inv := inv, ovf := o })

/-- R117, R118: one step of a cell. -/
def cellStep (f : Flt) (op : Nat) (acc a w : FVal) : FVal × Cnd :=
  if acc.isNan || a.isNan || w.isNan then (.nan, {})
  else match op with
    | 0 =>
      let (p, i1) := a.mul w
      let (x, i2) := acc.add p
      accRound f x (i1 || i2)
    | 1 =>
      let (x, i) := a.add w
      let (v, c) := accRound f x i
      (acc.min v, c)
    | 2 =>
      let (x, i) := a.add w
      let (v, c) := accRound f x i
      (acc.max v, c)
    | 3 =>
      let (x, i1) := a.sub w
      let (y, i2) := acc.add x.abs
      accRound f y (i1 || i2)
    | 4 =>
      let (x, i1) := a.sub w
      let (q, _) := x.mul x
      let (y, i2) := acc.add q
      accRound f y (i1 || i2)
    | _ => if w.le a then accRound f (acc.add (FVal.ofInt 1)).1 false else (acc, {})

/-- R110: a reduction, terms in ascending order. -/
def cellFold (f : Flt) (op : Nat) : List (FVal × FVal) → FVal → Conds → FVal × Conds
  | [], acc, c => (acc, c)
  | (a, w) :: r, acc, c =>
    let (v, x) := cellStep f op acc a w
    cellFold f op r v (c.note x)

/-- R59: one step of the sum of partials. -/
def combineStep (f : Flt) (op : Nat) (a b : FVal) : FVal × Cnd :=
  match op with
  | 1 => (a.min b, {})
  | 2 => (a.max b, {})
  | _ => if a.isNan || b.isNan then (.nan, {}) else
    let (x, i) := a.add b
    accRound f x i

/-- R59: the combined value of partials by their places: at each level, ascending member order. -/
def combine (f : Flt) (op : Nat) : Nat → List (List Nat × FVal) → Option (FVal × Conds)
  | 0, l => l.head?.map fun x => (x.2, {})
  | fuel + 1, l =>
    if l.any fun x => x.1.isEmpty then l.head?.map fun x => (x.2, {})
    else
      let heads := (dedup (l.map fun x => x.1.headD 0)).mergeSort
      let vals := heads.filterMap fun h => combine f op fuel ((l.filter fun x => x.1.headD 0 == h).map fun x => (x.1.tail, x.2))
      match vals with
      | [] => none
      | v :: r => some (r.foldl (fun (acc, c) (b, cb) =>
          let (y, x) := combineStep f op acc b
          (y, { inv := (c : Conds).inv + cb.inv + b2n x.inv, ovf := c.ovf + cb.ovf + b2n x.ovf })) v)

/-! ### Gang splits (R58, R125, R139, R191) -/

/-- The part of a tile that a core carries. -/
structure Leaf where
  core    : CoreRef
  reg     : Region
  raw     : Option (List Nat)
  presser : CoreRef
  pr      : Region
  /-- on a K-split hem gang: the other devices whose sums are combined with this one's, and the one that presses them -/
  peers   : List (Nat × Nat) := []
  home    : Option Nat := none
  deriving DecidableEq, Repr

/-- R58: the parts of a region under a SPLIT. -/
def Region.split (r : Region) (sp df : Nat) (mx : Bool) (n : Nat) : List Region :=
  let cut (blocked : Bool) (b e : Nat) : List (Nat × Nat) :=
    (if blocked then blockParts e n else parts e n).map fun (x, k) => (b + x, k)
  match sp with
  | 0 => (cut false r.m0 r.mN).map fun (b, k) => { r with m0 := b, mN := k }
  | 1 => (cut (mx && df != 1) r.n0 r.nN).map fun (b, k) => { r with n0 := b, nN := k }
  | 2 => (cut (mx && df == 1) r.k0 r.kN).map fun (b, k) => { r with k0 := b, kN := k }
  | _ => List.replicate n r

/-- A part is empty: it has no output, or is a partial sum of nothing other than the first. -/
def Leaf.empty (l : Leaf) (df : Nat) : Bool :=
  l.reg.noOutput df || match l.raw with
    | some p => decide ((l.reg.red df).2 = 0) && p.any (· != 0)
    | none => false

/-- R59, R139: the other devices that hold parts of the region that a hem gang splits along K, by member place and hem slot, and
the device whose Press combines the sums, where that is another: the one of the hem gang's first member. A gang of another kind
or split has none. -/
def State.hemParts (s : State) (d : BitVec 512) (df : Nat) (w : Region) : List (Nat × Nat) × Option Nat :=
  if gangKind d = 2 ∧ gangSplit d = 2 ∧ df = 0 then
    let ms := (gangMembers d).zipIdx.map fun (m, k) => (k, fld m 12 3)
    let rs := w.split 2 df false (gangCount d)
    let first := ((ms.map (·.2)).head?).getD s.hemSlot
    (ms.filter fun (k, sl) => sl != s.hemSlot && (k == 0 || decide (((nth rs k w).red df).2 ≠ 0)),
     if first = s.hemSlot then none else some first)
  else ([], none)

/-- The parts of a tile that a gang's cores on this device carry, in member order. -/
def State.leavesOf (s : State) (j : Job) (df : Nat) (mx : Bool) :
    Nat → Nat → Region → Option (List Nat) → Option (CoreRef × Region) → List (Nat × Nat) × Option Nat → List Leaf
  | 0, _, _, _, _, _ => []
  | fuel + 1, g, r, raw, pr, hem =>
    match j.gang g with
    | none => []
    | some d =>
      let sum := gangSplit d == 2 && df == 0
      let pr := if sum && pr.isNone then (s.firstCore j g).map (·, r) else pr
      let hem := if raw.isNone then s.hemParts d df r else hem
      ((gangMembers d).zip (r.split (gangSplit d) df mx (gangCount d))).zipIdx.flatMap fun ((m, q), k) =>
        let path := if sum then some (raw.getD [] ++ [k]) else raw
        match s.member d m with
        | .core c => [{ core := c, reg := q, raw := path, presser := (pr.map (·.1)).getD c, pr := (pr.map (·.2)).getD q,
                        peers := hem.1, home := hem.2 }]
        | .gang h => s.leavesOf j df mx fuel h q path pr hem
        | .other => []

/-- The parts of a tile that the cores of an interface carry. -/
def State.tileLeaves (s : State) (i : IfaceId) (df : Nat) (d : TDesc) : List Leaf :=
  let w := TDesc.whole d
  match i with
  | .core r => if w.noOutput df then [] else [{ core := r, reg := w, raw := none, presser := r, pr := w }]
  | .gang n g => match s.job n with
    | none => []
    | some j => (s.leavesOf j df (TDesc.fOut d).isMx 257 g.toNat w none none ([], none)).filter fun l => !l.empty df

/-! ### The beginning of a tile (R114, R121, R133, R174, R201) -/

/-- Words of a tile descriptor whose address a tile uses and which may hold a handle (R115, R205). -/
def handleFields (df : Nat) (gate : Bool) (d : TDesc) : List Nat :=
  let usesW := TDesc.usesW df d
  [8] ++ (if (TDesc.fA d).isMx && (queueRef (TDesc.aAddr d)).isNone then [10] else [])
  ++ (if usesW then [12] ++ (if (TDesc.fW d).isMx && (queueRef (TDesc.wAddr d)).isNone then [14] else []) else [])
  ++ (if TDesc.biasEn d then [20] else [])
  ++ (if TDesc.accMode d == 1 || gate then [22] else [])
  ++ (if TDesc.fmaskEn d then [30] else [])

/-- R205: resolve the handles of a descriptor; the entry and the code of the first that does not resolve. -/
def State.resolveTile (s : State) (i : IfaceId) : List Nat → TDesc → Except (BitVec 16 × Nat) TDesc
  | [], d => .ok d
  | w :: r, d =>
    if isHandle (TDesc.addr d w) then match s.resolve i (TDesc.addr d w) with
      | .ok a => s.resolveTile i r (BitVec.ofNat 1024 (setFld d.toNat (32 * w) 64 a))
      | .error code => .error (code, handleEntry (TDesc.addr d w))
    else s.resolveTile i r d

/-- R201: the frozen flag of each output row. -/
def State.frozenRows (s : State) (df : Nat) (d : TDesc) : List Bool :=
  if TDesc.fmaskEn d then
    (upto ((TDesc.whole d).rows df).2).map fun r =>
      let b := TDesc.maskBlock d r
      bitOf (s.byteAt (TDesc.fmaskAddr d + b / 8)).toNat (b % 8)
  else []

/-- Output extents of a whole tile, and whether its accumulators are FP64. -/
def TDesc.shape (df : Nat) (d : TDesc) : Nat × Nat × Bool :=
  (((TDesc.whole d).rows df).2, ((TDesc.whole d).cols df).2, TDesc.acc64 d)

/-- The sum that a chained tile would continue on a core: the output extents and the format of the tile that holds it or will. -/
def Mangle.holderShape (m : Mangle) (i : IfaceId) (seq : BitVec 12) : Option (Nat × Nat × Bool) :=
  match m.tiles.find? fun t => t.owner == i && TDesc.hold t.desc && decide (t.phase ≠ .done) && BitVec.ofNat 12 (TDesc.seq t.desc) == seq with
  | some t => some (TDesc.shape t.df t.desc)
  | none => match m.held with
    | some h => if h.owner = i ∧ h.seq = seq then some (h.rows, h.cols, h.fp64) else none
    | none => none

/-- R116: a chained tile's extents or accumulator format differ from those of the tile it chains to, as the two descriptors give
them, whichever of the interface's cores hold its bank. -/
def State.chainBad (s : State) (i : IfaceId) (df : Nat) (d : TDesc) : Bool :=
  TDesc.accMode d == 2 && (s.coresOf i).any fun r =>
    match (s.core r).mng.holderShape i (BitVec.ofNat 12 (TDesc.seq d) - 1) with
    | some x => decide (x ≠ TDesc.shape df d)
    | none => false

/-- R121: a Mangle command reaches the input: banks of the interface that it does not chain to are released. -/
def State.releaseFor (s : State) (i : IfaceId) (d : TDesc) (ls : List Leaf) : State :=
  forEach (fun r s => s.updCore r fun k =>
    match k.mng.held with
    | some h =>
      let keep := TDesc.accMode d == 2 && h.seq + 1 == BitVec.ofNat 12 (TDesc.seq d) && ls.any fun l => l.core == r
      if h.owner = i ∧ keep = false ∧ k.mng.claims h = false then { k with mng := { k.mng with held := none } } else k
    | none => k) (s.coresOf i) s

/-- R174: whether a tile is eligible for the Crease watch. The output extent is the whole tile's, on a hem gang as elsewhere. -/
def State.creaseEligible (s : State) (i : IfaceId) (df : Nat) (d : TDesc) : Bool :=
  decide (df ≠ 2) && !(TDesc.whole d).noOutput df && match (s.ifc i).span with
    | some sp => layerCrease sp.desc
    | none => false

/-- R174: whether an eligible tile is selected, by the counter before it. -/
def State.creaseSelected (s : State) (i : IfaceId) : Bool :=
  match s.jobOf i with
  | none => false
  | some j =>
    let k := fld j.numCtrl.toNat 4 5
    decide (k ≠ 0) && decide (((s.ifc i).crease.toNat + fld j.crsOff.toNat 0 16) % 2 ^ k = 0)

/-- A tile as a core takes it at its beginning. -/
def Leaf.tile (l : Leaf) (i : IfaceId) (idx op : Nat) (d : TDesc) (iter : Word) (frozen : List Bool) (img : TblSlot)
    (from_ : Option Nat) (sampled : Bool) : Tile :=
  { owner := i, idx := idx, op := BitVec.ofNat 8 op, desc := d, iter := iter, frozen := frozen,
    m0 := l.reg.m0, mN := l.reg.mN, n0 := l.reg.n0, nN := l.reg.nN, k0 := l.reg.k0, kN := l.reg.kN,
    raw := l.raw, presser := l.presser, region := [l.pr.m0, l.pr.mN, l.pr.n0, l.pr.nN], peers := l.peers, home := l.home,
    tblImg := img.image, tblDer := img.deriv, tblFrom := from_, sampled := sampled }

/-! ### Reduction (R110 to R112, R120) -/

/-- Entries that one row takes in a data queue (R249). -/
def rowEntries (f : Fmt) (n : Nat) : Nat := ceilDiv ((rowBytes f 0 n).2 + (rowScales f 0 n).2) 512

/-- The values of a row that stands in queue entries. -/
def queueRow (f : Fmt) (n : Nat) (es : List QEnt) : List FVal :=
  let bs := es.flatMap (·.data)
  let e := (rowBytes f 0 n).2
  rowVals f 0 n (bs.take e) ((bs.drop e).take (rowScales f 0 n).2)

/-- The values of rows of an operand in memory. -/
def State.memRows (s : State) (f : Fmt) (addr scale stride : Nat) (rows cols : Nat × Nat) : List (List FVal) :=
  let e := rowBytes f cols.1 cols.2
  let c := rowScales f cols.1 cols.2
  (rangeFrom rows.1 rows.2).map fun r =>
    rowVals f cols.1 cols.2 (s.bytesAt (addr + r * stride + e.1) e.2) (s.bytesAt (scale + r * scaleStride f stride + c.1) c.2)

/-- Operand A of a tile, by its rows. -/
def State.aRows (s : State) (t : Tile) : List (List FVal) :=
  let d := t.desc
  let cols := t.region'.aCols t.df
  if (queueRef (TDesc.aAddr d)).isSome then
    (chunks (rowEntries (TDesc.fA d) cols.2) (t.qA.length) t.qA).map (queueRow (TDesc.fA d) cols.2)
  else s.memRows (TDesc.fA d) (TDesc.aAddr d) (TDesc.aScale d) (TDesc.aStride d) t.region'.aRows cols

/-- Operand W of a tile, by its rows. -/
def State.wRows (s : State) (t : Tile) : List (List FVal) :=
  let d := t.desc
  let cols := t.region'.wCols
  if (queueRef (TDesc.wAddr d)).isSome then
    (chunks (rowEntries (TDesc.fW d) cols.2) (t.qW.length) t.qW).map (queueRow (TDesc.fW d) cols.2)
  else s.memRows (TDesc.fW d) (TDesc.wAddr d) (TDesc.wScale d) (TDesc.wStride d) (t.region'.wRows t.df) cols

/-- R112: the weight buffer that a loaded block leaves: its values, and +0 in every other cell. -/
def loadWBuf (tag : Nat) (rows : List (List FVal)) : WBuf :=
  { valid := true, tag := BitVec.ofNat 16 tag,
    vals := forEach (fun (row, k) t => forEach (fun (v, n) (t : Tab FVal) => t.set FVal.zero (128 * k + n) v) row.zipIdx t) rows.zipIdx ⟨[]⟩ }

/-- The terms that output (i, j) of a part sums, in ascending order of the reduction index (R110, R111). -/
def termsOf (df red : Nat) (a : List (List FVal)) (w : Nat → Nat → FVal) (i j : Nat) : List (FVal × FVal) :=
  (upto red).map fun k => match df with
    | 0 => (nth (nth a i []) k .zero, w k j)
    | 1 => (nth (nth a i []) k .zero, w j k)
    | _ => (nth (nth a k []) i .zero, w k j)

/-- R120: the initial values of a part, by rows; `chain` is the bank that it has taken over. Only the first part of a sum takes
the tile's initial value, under every ACC_MODE; every other part starts from the identity (R139, over R121: log 59). -/
def State.initRows (s : State) (t : Tile) (chain : Option (List (List DWord))) : List (List FVal) :=
  let d := t.desc
  let rows := t.region'.rows t.df
  let cols := t.region'.cols t.df
  let id := opIdentity (TDesc.op d)
  let first := isFirst t.raw
  match (if first then chain else none) with
  | some acc => acc.map fun r => r.map fun b => (TDesc.accFlt d).dec b.toNat
  | none =>
    if TDesc.accMode d == 1 && first then
      (rangeFrom rows.1 rows.2).map fun i => (rangeFrom cols.1 cols.2).map fun j =>
        (TDesc.accFlt d).dec (s.natAt (TDesc.cinAddr d + i * TDesc.outStride d + TDesc.accSize d * j) (TDesc.accSize d))
    else List.replicate rows.2 (List.replicate cols.2 id)

/-- One row of a reduction in a format: its sums and conditions. -/
def reduceRow (f : Flt) (op df red : Nat) (a : List (List FVal)) (w : Nat → Nat → FVal) (i : Nat) (init : List FVal) :
    List FVal × Conds :=
  forEach (fun (v, j) (x : List FVal × Conds) =>
    let (y, c) := cellFold f op (termsOf df red a w i j) v x.2
    (x.1 ++ [y], c)) init.zipIdx ([], {})

/-- A row of a tile is frozen (R199); `i` counts the command's output rows. -/
def Tile.isFrozen (t : Tile) (i : Nat) : Bool := nth t.frozen i false

/-- R175: the shadow format. -/
def TDesc.shadow (d : TDesc) : Flt := if (TDesc.fOut d).width ≤ 16 then flt32 else flt64

/-- The reduction of a part: accumulators, conditions (those of frozen rows left out), and the shadow sums of its first 16
rows where it is sampled (R110, R175, R199). -/
def Tile.reduce (t : Tile) (a : List (List FVal)) (w : Nat → Nat → FVal) (init : List (List FVal)) : Tile :=
  let d := t.desc
  let f := TDesc.accFlt d
  let df := t.df
  let red := (t.region'.red df).2
  let r0 := (t.region'.rows df).1
  let rows := init.zipIdx.map fun (v, i) => (reduceRow f (TDesc.op d) df red a w i v, i)
  let conds := rows.foldl (fun (c : Conds) x => if t.isFrozen (r0 + x.2) then c else
    { inv := c.inv + x.1.2.inv, ovf := c.ovf + x.1.2.ovf }) {}
  let shad := if t.sampled then (init.take 16).zipIdx.map fun (v, i) =>
      (reduceRow (TDesc.shadow d) (TDesc.op d) df red a w i v).1.map fun x => BitVec.ofNat 64 ((TDesc.shadow d).enc x) else []
  { t with
    acc := rows.map fun x => x.1.1.map fun v => BitVec.ofNat 64 (f.enc v)
    shadAcc := shad
    conds := conds
    early := decide (0 < conds.ovf) }

/-! ### Tile slots (R121 to R123) -/

/-- R121: the next Mangle command, already begun or skipped, does not chain to a tile that ends by holding its bank. -/
def State.holdDropped (s : State) (c : CoreRef) (t : Tile) : Bool :=
  match (s.ifc t.owner).store.find? fun e => decide (t.idx < e.idx) with
  | none => false
  | some e => !(s.core c).mng.tiles.any fun u =>
      u.owner == t.owner && u.idx == e.idx && TDesc.accMode u.desc == 2 && TDesc.seq u.desc == (TDesc.seq t.desc + 1) % 4096

/-! ### The tap of loaded weights (R141) -/

/-- An FP64 sum plus a value, rounded once. -/
def addTo64 (a : DWord) (x : FVal) : DWord := BitVec.ofNat 64 (flt64.enc (flt64.round .rne ((flt64.dec a.toNat).add x).1).1)

/-- Add the squares of finite values into an FP64 sum, in order. -/
def addSquares (a : DWord) (vs : List FVal) : DWord :=
  (vs.filter FVal.isFinite).foldl (fun a v => addTo64 a (v.mul v).1) a

/-- The tap sums of a core that a tile feeds: the staged copies in a span, the slots outside one (R158). -/
def Mangle.normAdd (m : Mangle) (staged : Bool) (k : Nat) (vs : List FVal) : Mangle :=
  if staged then { m with stNorm := m.stNorm.set 0 k (addSquares (m.stNorm.get 0 k) vs) }
  else { m with norm := m.norm.set 0 k (addSquares (m.norm.get 0 k) vs) }

/-- A tile runs inside a span. -/
def State.inSpan (s : State) (t : Tile) : Bool := (s.ifc t.owner).span.isSome

/-- R141: a tile may still feed a slot before the tile of an index: it is an earlier one of the same interface, and has not
ended. -/
def Tile.feedsBefore (t : Tile) (owner : IfaceId) (idx slot : Nat) : Bool :=
  t.owner == owner && decide (t.idx < idx) && TDesc.normEn t.desc && TDesc.normSlot t.desc == slot && decide (t.phase ≠ .done)

/-- R141: values reach a norm slot in tile order: they wait while an earlier tile may still feed it. -/
def Mangle.normFeed (m : Mangle) (x : NormFeed) : Mangle :=
  if x.vals.isEmpty then m
  else if m.tiles.any fun t => t.feedsBefore x.owner x.idx x.slot then { m with normWait := m.normWait ++ [x] }
  else m.normAdd x.staged x.slot x.vals

/-- The feeds that waited, by ascending index, once more. -/
def Mangle.normFlush (m : Mangle) : Mangle :=
  (m.normWait.mergeSort fun a b => decide (a.idx ≤ b.idx)).foldl Mangle.normFeed { m with normWait := [] }

/-- R141: the squares of the weights that a tile has loaded reach its slot, once per load. -/
def State.weigh (s : State) (c : CoreRef) (t : Tile) : State :=
  s.updCore c fun k => { k with mng := k.mng.normFeed ⟨t.owner, t.idx, s.inSpan t, TDesc.normSlot t.desc, t.wts⟩ }

/-- A part whose check has been made goes on: a HOLD tile feeds the weights it has loaded, keeps or releases its bank and is
done, a part of a sum waits for its Press, any other enters the Press (R121, R139, R141). -/
def State.advance (s : State) (c : CoreRef) : State :=
  let m := (s.core c).mng
  match m.tiles.find? fun t => t.phase == .array && t.checked && (s.ifc t.owner).mayHandle t.idx && !(t.raw.isSome && !TDesc.hold t.desc && t.presser != c) with
  | none => s
  | some t =>
    let hold := TDesc.hold t.desc
    let held : Option Held :=
      if hold && !s.holdDropped c t then
        some { owner := t.owner, seq := BitVec.ofNat 12 (TDesc.seq t.desc), slot := t.slot.getD 0, rows := (TDesc.shape t.df t.desc).1,
               cols := (TDesc.shape t.df t.desc).2.1, fp64 := TDesc.acc64 t.desc, chain := t.chain, acc := t.acc }
      else if hold then none else m.held
    let t' := { t with phase := if hold then .done else .press, slot := if hold then none else t.slot }
    let s := if hold then s.weigh c t else s
    (s.updCore c fun k => { k with mng := Mangle.normFlush { k.mng with
      held := held, tiles := k.mng.tiles.map fun u => if u = t then t' else u } }).fillTables t.owner

/-- Take what stands at the head of a queue towards the `n` entries that a tile's operand needs. -/
def State.feed (s : State) (c : CoreRef) (w : Nat) (n : Nat) (have_ : List QEnt) : List QEnt × State :=
  match queueRef w with
  | some q =>
    let (es, s) := s.qpop c q (n - have_.length)
    (have_ ++ es, s)
  | none => (have_, s)

/-- The entries that a tile's operands need in all. -/
def Tile.needs (t : Tile) : Nat × Nat :=
  let r := t.region'
  let d := t.desc
  if (r.red t.df).2 = 0 then (0, 0)
  else
    (if (queueRef (TDesc.aAddr d)).isSome then r.aRows.2 * rowEntries (TDesc.fA d) (r.aCols t.df).2 else 0,
     if (queueRef (TDesc.wAddr d)).isSome ∧ (t.df = 2 ∨ !TDesc.wHeld d) then (r.wRows t.df).2 * rowEntries (TDesc.fW d) r.wCols.2 else 0)

/-- Replace a tile of a core. -/
def State.setTile (s : State) (c : CoreRef) (t : Tile) : State :=
  s.updCore c fun k => { k with mng := { k.mng with
    tiles := k.mng.tiles.map fun u => if u.owner = t.owner ∧ u.idx = t.idx then t else u } }

/-- The place of a tile's command. -/
def State.tileAt (s : State) (t : Tile) : At :=
  ⟨t.owner, .exe, t.idx, ((s.flightOf t.owner .exe t.idx).map fun f => cmdTag f.cmd).getD 0⟩

/-- A free tile slot of a Mangle (R123). -/
def Mangle.freeSlot (m : Mangle) : Option Nat :=
  (upto 4).find? fun k => !m.tiles.any (fun t => t.slot == some k) && (m.held.map (·.slot)) != some k

/-- A tile stands in phase 1 or 2 of R122. -/
def Tile.inArray (t : Tile) : Bool := t.phase == .load || t.phase == .stream

/-- A tile's sums are formed: it stands complete in its bank, or further on. -/
def Tile.formed (t : Tile) : Bool := !(t.phase == .input || t.inArray)

/-- R112, R122, R123: the tile at the input may enter its first phase. Tiles enter each phase in issue order: a load waits for
an earlier load, and for a tile that uses the same buffer; a tile that loads nothing waits until no earlier tile loads or
streams. -/
def Mangle.mayEnter (m : Mangle) (t : Tile) : Bool :=
  if t.loads then !m.tiles.any fun u => (u.phase == .load && !u.loaded)
    || (u.inArray && decide (u.df ≠ 2) && TDesc.wbuf u.desc == TDesc.wbuf t.desc)
  else !m.tiles.any Tile.inArray

/-- R121: the tile that a chained tile continues has not yet completed its reduction. -/
def Mangle.holderRuns (m : Mangle) (t : Tile) : Bool :=
  TDesc.accMode t.desc == 2 && m.tiles.any fun u => u.owner == t.owner && decide (u.idx < t.idx) && TDesc.hold u.desc
    && decide (u.phase ≠ .done) && BitVec.ofNat 12 (TDesc.seq u.desc) + 1 == BitVec.ofNat 12 (TDesc.seq t.desc)

/-- R121: the held bank that a tile takes over. -/
def Mangle.bankFor (m : Mangle) (t : Tile) : Option Held :=
  m.held.filter fun h => TDesc.accMode t.desc == 2 && h.owner == t.owner && h.seq + 1 == BitVec.ofNat 12 (TDesc.seq t.desc)

/-- R113: the buffer that a tile with W_SRC = 1 names has been loaded in this job with the tile's WTAG. `tag` is the tag that the
last load leaves. -/
def bufMatches (d : TDesc) (tag : Option Nat) : Bool := tag == some (TDesc.wtag d)

/-- The tag of a weight buffer once every load that has entered phase 1 is done; none where it has never been loaded. -/
def Mangle.bufTag (m : Mangle) (k : Nat) : Option Nat :=
  match m.tiles.reverse.find? fun t => t.phase == .load && !t.loaded && TDesc.wbuf t.desc == k with
  | some t => some (TDesc.wtag t.desc)
  | none => let b := m.wbuf.get {} k; if b.valid then some b.tag.toNat else none

/-- R123: the tile at a Mangle's input takes a slot, once one is free, or the bank that it continues, and enters phase 1, or
phase 2 where it loads nothing. -/
def State.slotEnter (s : State) (c : CoreRef) : State :=
  let k := s.core c
  let m := k.mng
  match m.tiles.find? fun t => t.phase == .input with
  | none => s
  | some t =>
    if (s.ifc t.owner).halted || k.subsBefore t || m.holderRuns t || !m.mayEnter t then s
    else
      let bank := m.bankFor t
      match (match bank with
        | some h => some h.slot
        | none => m.freeSlot) with
      | none => s
      | some slot =>
        if t.reuses && !bufMatches t.desc (m.bufTag (TDesc.wbuf t.desc)) then s.halt (s.tileAt t) true Code.wbufMismatch (.mng c) []
        else
          let t : Tile := { t with
            slot := some slot, chain := (bank.map (·.chain)).getD 0 + 1, bank := bank.map (·.acc)
            phase := if t.loads then .load else .stream }
          let s := s.setTile c t
          if bank.isSome then s.updCore c fun k => { k with mng := { k.mng with held := none } } else s

/-- R256: the tile whose error has halted its interface goes no further. -/
def State.stopsAt (s : State) (t : Tile) : Bool := (s.ifc t.owner).halted && (s.ifc t.owner).stopAt == some t.idx

/-- A group that ends inside a tile's read (R250). -/
def skewed (es : List QEnt) : Bool := es.getLast?.any fun e => !e.last

/-- R112, R122 phase 1: the tile that loads takes what W has, and once it has all of it fills its buffer. -/
def State.tileLoad (s : State) (c : CoreRef) : State :=
  match (s.core c).mng.tiles.find? fun t => t.phase == .load && !t.loaded with
  | none => s
  | some t =>
    if s.stopsAt t then s
    else
      let d := t.desc
      let (qW, s) := s.feed c (TDesc.wAddr d) t.needs.2 t.qW
      let t := { t with qW := qW }
      if qW.length < t.needs.2 then s.setTile c t
      else if skewed qW then (s.setTile c t).halt (s.tileAt t) true Code.queueSkew (.mng c) []
      else
        let w := s.wRows t
        let t := { t with loaded := true, qW := [], wts := if TDesc.normEn d && TDesc.normKind d == 0 then w.flatten else [] }
        ((s.touchAll (.core c) (wRanges t.df d t.region')).setTile c t).updCore c fun k =>
          { k with mng := { k.mng with wbuf := k.mng.wbuf.set {} (TDesc.wbuf d) (loadWBuf (TDesc.wtag d) w) } }

/-- R176: a selected part whose Press runs finds a sample pending on its core: it is not sampled, and is counted. The other
parts of a sum hold no sample of their own, and go on with their shadow sums. Each core's part of a gang tile is sampled or
counted on its own, although CREASE_SKIPPED counts tiles (DESIGN CHOICE, log 60). -/
def State.sampleSkip (s : State) (c : CoreRef) (t : Tile) : Tile × State :=
  let m := (s.core c).mng
  let own (u : Tile) : Bool := (u.raw.isNone || u.presser == c) && u.home.isNone
  if t.sampled && own t && (m.sample.isSome || m.tiles.any fun u => u.sampled && own u && u.formed) then
    ({ t with sampled := false }, s.updIfc t.owner fun x => { x with span := x.span.map fun sp => { sp with skipped := sp.skipped + 1 } })
  else (t, s)

/-- A tile's operands have all entered the array: its sums are formed, and it stands complete in its bank (R122 phases 2
and 3). -/
def State.formTile (s : State) (c : CoreRef) (t : Tile) : State :=
  let d := t.desc
  let df := t.df
  let a := if t.noRed then [] else s.aRows t
  let wm := if t.noRed || decide (df ≠ 2) then [] else s.wRows t
  let buf := (s.core c).mng.wbuf.get {} (TDesc.wbuf d)
  let w : Nat → Nat → FVal := if df = 2 then fun k n => nth (nth wm k []) n .zero else fun k n => buf.vals.get .zero (128 * k + n)
  let reads := aRanges df d t.region' ++ (if df = 2 then wRanges df d t.region' else [])
    ++ if TDesc.accMode d == 1 && isFirst t.raw then cinRanges df d t.region' (TDesc.accSize d) else []
  let t := t.reduce a w (s.initRows t t.bank)
  ((s.touchAll (.core c) reads).setTile c { t with phase := .array, qA := [], qW := [], bank := none }).advance c

/-- The tile that streams, or the next that may: one at a time, in issue order (R122 phase 2, R123). -/
def Mangle.streaming (m : Mangle) : Option Tile :=
  match m.tiles.find? fun t => t.phase == .stream with
  | some t => some t
  | none => m.tiles.find? fun t => t.phase == .load && t.loaded

/-- R122 phase 2: the tile that streams takes what its operands have, and once it has all of them its sums are formed. An
output-stationary tile takes the entries of A before those of W (log 61). -/
def State.tileStream (s : State) (c : CoreRef) : State :=
  match (s.core c).mng.streaming with
  | none => s
  | some t =>
    if s.stopsAt t then s
    else
      let d := t.desc
      let nA := t.needs.1
      let nW := if t.df = 2 then t.needs.2 else 0
      let (qA, s) := s.feed c (TDesc.aAddr d) nA t.qA
      let (qW, s) := s.feed c (TDesc.wAddr d) nW t.qW
      let t := { t with phase := .stream, qA := qA, qW := qW }
      if qA.length < nA ∨ qW.length < nW then s.setTile c t
      else if skewed qA || skewed qW then (s.setTile c t).halt (s.tileAt t) true Code.queueSkew (.mng c) []
      else
        let (t, s) := s.sampleSkip c t
        s.formTile c t

/-- R112, R122, R123: the tiles of a Mangle go on as far as they can: the one at the input takes a slot, the one that loads
loads, the one that streams streams. A sub-command of a VRUN that stood behind the tile at the input may then begin (R253). -/
def State.slotTake (s : State) (c : CoreRef) : State :=
  if s.darns (.mangle c) then s else ((((s.slotEnter c).tileLoad c).tileStream c).startSub c)

/-- R114, R231: a Mangle command at the Mangle's input begins: its descriptor and mask bytes are read and checked, and its
parts are handed to its cores. A tile that names a table slot which is not valid, or with W_SRC = 1 a buffer that has not the
tile's tag, is not executed, whether it holds or has a zero extent (R113, R133). Where a tile breaks several checks, its handles
are judged first, then the slot, then the buffer, then its windows (DESIGN CHOICE, log 72); a handle of a tile that moves nothing
is not resolved (DEDUCED, log 72). A gang tile with every part empty has no core of its own at the store: its check is recorded on
the gang's first core (DESIGN CHOICE, log 72). A selected HOLD tile advances the Crease
counter, but its Press delivers nothing to capture: it is neither sampled nor counted as skipped (DESIGN CHOICE, log 60). -/
def State.tileBegin (s : State) (i : IfaceId) (c : BitVec 256) (r : CoreRef) : Act State := do
  let a := s.headAt i .exe c
  let deny (r : CoreRef) (e : Denied) : State := s.haltDenied a true (.mng r) (s.logNo r) e
  match s.denied i false .read (cmdAddr c) 128 with
  | some e => throw (deny r e)
  | none => pure ()
  let d : TDesc := BitVec.ofNat 1024 (s.natAt (cmdAddr c) 128)
  let df := dflowOf (cmdOp c) d
  let slot (q : CoreRef) : TblSlot := s.tblSlot i q (TDesc.tbl d)
  let gate := TDesc.gated d (slot r)
  if tileBad (cmdOp c) (isGang i) (s.splitsOf i) gate d then throw (s.halt a true Code.badCommand (.mng r) [])
  let ls := s.tileLeaves i df d
  if s.chainBad i df d then throw (s.halt a true Code.badCommand (.mng r) [])
  let d ← if ls.isEmpty then pure d else match s.resolveTile i (handleFields df gate d) d with
    | .ok d => pure d
    | .error (code, e) => throw (s.genHalt a true code e)
  let presses (l : Leaf) : Bool := (l.raw.isNone || l.presser == l.core) && l.home.isNone
  let drains (l : Leaf) : Bool := presses l && !TDesc.hold d
  let noTable (q : CoreRef) : Bool := decide (TDesc.tbl d ≠ 0) && !(slot q).valid
  match (if ls.isEmpty && !isGang i then [r] else (ls.filter presses).map (·.core)).find? noTable with
  | some q => throw (s.halt a true Code.tblEmpty (.mng q) [])
  | none => pure ()
  if ls.isEmpty && !isGang i && decide (df ≠ 2) && TDesc.wHeld d && !bufMatches d ((s.core r).mng.bufTag (TDesc.wbuf d)) then
    throw (s.halt a true Code.wbufMismatch (.mng r) [])
  match firstSome (fun l => (s.deniedAny (.core l.core) (tileRanges df d l.reg l.pr (drains l) (isFirst l.raw) gate)).map (l, ·)) ls with
  | some (l, e) => throw (deny l.core e)
  | none => pure ()
  let seq : BitVec 12 := BitVec.ofNat 12 (TDesc.seq d)
  let eligible := s.creaseEligible i df d
  let sel := eligible && s.creaseSelected i
  let frozen := s.frozenRows df d
  let iter := ((s.jobOf i).map (·.iter)).getD 0
  let from_ := (s.pendingFill i (TDesc.tbl d)).map (·.idx)
  let s := s.releaseFor i d ls
  let s := if eligible then s.updIfc i fun x => { x with crease := x.crease + 1 } else s
  let s := (s.touchAll i ((.fetch, cmdAddr c, 128) :: ls.flatMap fun l => TDesc.maskRange d ((if drains l then l.pr else l.reg).rows df))).beginFlight i .exe c
  let fo := TDesc.fmtOut d
  let s := s.updFlight i .exe a.idx fun f =>
    { f with fin := !ls.isEmpty, parts := ls.length, seq := some seq, rung := rungOf fo, isInt := (fmtOf fo).isInt }
  let s := s.pushStore i { idx := a.idx, seq := seq, kind := if ls.isEmpty then .zeroTile else .tile, lead := (ls.head?.map (·.core)).getD r }
  let s := forEach (fun l s => s.updCore l.core fun k => { k with mng := { k.mng with
    tiles := k.mng.tiles ++ [l.tile i a.idx (cmdOp c) d iter frozen (slot l.core) (if presses l then from_ else none) (sel && !TDesc.hold d)] } }) ls s
  pure (forEach (fun l s => s.slotTake l.core) ls s)

/-- R231 step 5: the Mangle's input is free; a gang's sub-commands queue in its members' Bobbins (R253). -/
def State.inputFree (s : State) (i : IfaceId) : Bool :=
  match i with
  | .core r => !(s.core r).mng.tiles.any fun t => t.phase == .input
  | .gang .. => true

/-- R133, R134: a tile of zero extent that names a slot which an earlier LOAD has still to fill waits to begin: it is not known
whether the slot is valid. -/
def State.tblWaits (s : State) (i : IfaceId) (c : BitVec 256) : Bool :=
  let d : TDesc := BitVec.ofNat 1024 (s.natAt (cmdAddr c) 128)
  !isGang i && (s.pendingFill i (TDesc.tbl d)).isSome && (s.tileLeaves i (dflowOf (cmdOp c) d) d).isEmpty

/-- A Mangle command at the head of the execute stream begins. -/
def State.tile (s : State) (i : IfaceId) (c : BitVec 256) : State :=
  match s.engineCore i with
  | none => s.noCores i .exe c
  | some r => if s.inputFree i && !s.tblWaits i c then (s.tileBegin i c r).begun i .exe c else s

/-- R111: MMA. -/
def execMma (i : IfaceId) (s : State) : Out :=
  run (.mma i) s fun s => s.begin i .exe (isOp 0x20) fun c s => s.tile i c

/-- R111, R188: MMA_T. -/
def execMmaT (i : IfaceId) (s : State) : Out :=
  run (.mmaT i) s fun s => s.begin i .exe (isOp 0x21) fun c s => s.tile i c

/-- R111, R188: MMA_OS. -/
def execMmaOs (i : IfaceId) (s : State) : Out :=
  run (.mmaOs i) s fun s => s.begin i .exe (isOp 0x22) fun c s => s.tile i c

/-- R117: SEMI. -/
def execSemi (i : IfaceId) (s : State) : Out :=
  run (.semi i) s fun s => s.begin i .exe (isOp 0x23) fun c s => s.tile i c

/-- R123: TILE_SLOT_TAKE. -/
def execTileSlotTake (c : CoreRef) (s : State) : Out := run (.tileSlotTake c) s fun s => s.slotTake c

/-! ### The accumulator store (R126 to R128) -/

/-- R127: markers at the front of the store have their turn. -/
def Iface.passMarkers (x : Iface) : Nat → Iface
  | 0 => x
  | n + 1 => match x.store with
    | e :: r => if e.kind = .marker && x.mayHandle e.idx then ({ x with store := r, seq := x.seq + 1 } : Iface).passMarkers n else x
    | [] => x

/-- R126: the check of the entry at the front of the store: on a match the counter advances, and the tile goes on; on a
mismatch MNG_SKEW records the two values and the interface halts. -/
def State.checkSeq (s : State) (i : IfaceId) (e : StoreEnt) : State :=
  let x := s.ifc i
  let a : At := ⟨i, .exe, e.idx, ((s.flightOf i .exe e.idx).map fun f => cmdTag f.cmd).getD 0⟩
  if x.seq = e.seq then
    let s := s.updIfc i fun x => { x.nextSeq with store := x.store.tail }
    let s := if e.kind = .zeroTile then s.finish i .exe e.idx else
      forEach (fun c s =>
        let s := s.updCore c fun k => { k with mng := { k.mng with
          tiles := k.mng.tiles.map fun t => if t.owner = i ∧ t.idx = e.idx then { t with checked := true } else t } }
        s.advance c) (dedup (s.coresOf i)) s
    s
  else
    let s := s.updCore e.lead fun k => { k with mng := { k.mng with skew := BitVec.ofNat 32 (x.seq.toNat + e.seq.toNat * 2 ^ 16) } }
    s.halt a true Code.tagSkew (.mng e.lead) [x.seq.toNat, e.seq.toNat]

/-- R134: no part of a tile waits for the image of its table slot. -/
def State.tblHere (s : State) (i : IfaceId) (idx : Nat) : Bool :=
  (s.coresOf i).all fun r => (s.core r).mng.tiles.all fun t => !(t.owner == i && t.idx == idx && t.tblFrom.isSome)

/-- R126: the entry at the front of an interface's store has its turn: a marker or a zero-extent tile at once, a tile when
its first part stands complete and the Press has the table that it names (R134). -/
def State.storeTurn (s : State) (i : IfaceId) : State :=
  match (s.ifc i).store with
  | [] => s
  | e :: _ =>
    if !(s.ifc i).mayHandle e.idx then s
    else match e.kind with
      | .marker => s
      | .zeroTile => s.checkSeq i e
      | .tile =>
        if s.tblHere i e.idx && (s.core e.lead).mng.tiles.any fun t => t.owner == i && t.idx == e.idx && t.phase == .array then
          s.checkSeq i e else s

/-- R126: TILE_SEQ_CHECK; markers before and after it have their turn. -/
def execTileSeqCheck (i : IfaceId) (s : State) : Out :=
  run (.tileSeqCheck i) s fun s =>
    let pass (s : State) : State := s.updIfc i fun x => x.passMarkers x.store.length
    pass ((pass s).storeTurn i)

end Sys2Proof.Machine
end

