-- ==== Sys2Proof/Machine/Press.lean ====
section
/-! DEFINITION. The Press: scale, bias, table or gate, clip and conversion of each output row, the drain taps, careful mode,
the completion of tiles and the Crease watch (R129 to R143, R170, R171, R174 to R177, R193, R199). -/

namespace Sys2Proof.Machine

/-- Two tallies of conditions together. -/
def Conds.plus (a b : Conds) : Conds := { inv := a.inv + b.inv, ovf := a.ovf + b.ovf, iovf := a.iovf + b.iovf }

/-- A rounded operation of the Press: the result of an exact one with what it raised. -/
def pressOp (f : Flt) (x : FVal × Bool) (c : Conds) : FVal × Conds :=
  let (v, n) := accRound f x.1 x.2
  (v, c.note n)

/-! ### Tables (R133, R193) -/

/-- A field of a table image, by word. -/
def tblF (img : List Word) (k : Nat) : FVal := flt32.dec (nth img k 0).toNat

/-- g of R132: the exponent of XMAX - XMIN. -/
def tblG (img : List Word) : Int :=
  match ((tblF img 1).sub (tblF img 0)).1 with
  | .fin _ m e => (m.log2 : Int) + e
  | _ => 0

/-- ⌊t⌋ of a value that is not negative, at most `top`. -/
def floorMin (top : Nat) : FVal → Nat
  | .fin _ m e => Nat.min top (if 0 ≤ e then m <<< e.toNat else m >>> (-e).toNat)
  | _ => top

/-- R133: a table lookup, each operation rounded once in format `f` (FP32, or the shadow format of R175). -/
def tableEval (f : Flt) (img : List Word) (x : FVal) : FVal × Conds :=
  if x.isNan then (.nan, {})
  else
    let lower := x.lt (tblF img 0)
    if lower || !x.lt (tblF img 1) then
      let a := tblF img (if lower then 2 else 4)
      let b := tblF img (if lower then 3 else 5)
      if x.isInf then
        if b.isZero then (a, {}) else if b.isNan then (.nan, {}) else (.inf (b.sign != x.sign), {})
      else
        let (p, c) := pressOp f (b.mul x) {}
        pressOp f (a.add p) c
    else
      let (d, c) := pressOp f (x.sub (tblF img 0)) {}
      let (t, c) := pressOp f (d.scale (8 - tblG img), false) c
      let n := floorMin 255 t
      let u := (t.sub (FVal.ofInt n)).1
      let step (k : Nat) (y : FVal × Conds) : FVal × Conds :=
        let (p, c) := pressOp f (u.mul y.1) y.2
        pressOp f ((tblF img (8 + 4 * n + k)).add p) c
      step 0 (step 1 (step 2 (tblF img (8 + 4 * n + 3), c)))

/-! ### Clip (R135) -/

/-- The largest finite value of a format, or of a block-scaled format's elements (R69, R76). -/
def Fmt.largest (f : Fmt) : FVal :=
  match f with
  | .int8 => FVal.ofInt 127
  | .int32 => FVal.ofInt 2147483647
  | .mxi8 => .fin false 127 (-6)
  | f => match f.flt with
    | some l => .fin false l.maxMag l.maxExp
    | none => .inf false

/-- A positive bound in an accumulator format, rounded toward zero. -/
def towardZero (f : Flt) (x : FVal) : FVal :=
  match x with
  | .fin s m e =>
    if m = 0 then x
    else
      let q := f.place m e
      let n := if e < q then m >>> (q - e).toNat else m
      let y := FVal.fin s n (if e < q then q else e)
      if (FVal.fin false f.maxMag f.maxExp).lt y then .fin s f.maxMag f.maxExp else y
  | x => x

/-- R135: the clip of one value; `scale` is the supplied scale byte of its block. -/
def clipVal (f : Flt) (d : TDesc) (scale : Nat) (v : FVal) : FVal :=
  if v.isNan then v
  else match TDesc.clip d with
    | 1 =>
      let fo := TDesc.fOut d
      if fo.isMx && !TDesc.supplied d then v
      else match (if fo.isMx then (e8m0 scale).map fun k => fo.largest.scale k else some fo.largest) with
        | none => v
        | some b =>
          let b := towardZero f b
          if b.lt v.abs then (if v.sign then b.neg else b) else v
    | 2 =>
      let lo := flt32.dec (TDesc.clipLo d)
      let hi := flt32.dec (TDesc.clipHi d)
      if hi.lt lo then hi else if v.lt lo then lo else if hi.lt v then hi else v
    | _ => v

/-! ### One row (R129, R136, R137, R193) -/

/-- R129, R193: a value up to its clip, in format `f`. -/
def pressVal (f : Flt) (t : Tile) (bias : Option FVal) (z : Option FVal) (scale : Nat) (acc : FVal) : FVal × Conds :=
  let d := t.desc
  let (v, c) := pressOp f (acc.scale (TDesc.scaleExp d), false) {}
  let (v, c) := match bias with
    | some b => pressOp f (v.add b) c
    | none => (v, c)
  let (v, c) := if TDesc.tbl d = 0 then (v, c) else match z with
    | some z =>
      let (y, k) := tableEval f t.tblImg z
      pressOp f (v.mul y) (c.plus k)
    | none =>
      let (y, k) := tableEval f t.tblImg v
      (y, c.plus k)
  (clipVal f d scale v, c)

/-- What a row becomes: its bytes, the values converted and before conversion, and its conditions. -/
structure PressedRow where
  elems  : List Byte
  scales : List Byte
  pairs  : List (FVal × FVal)
  early  : Conds
  conv   : Conds
  sup    : List Nat
  deriving DecidableEq, Repr

/-- R136: how element (i, j) of the output rounds. -/
def Tile.rnd (t : Tile) (seed i j : Nat) : Rnd :=
  let d := t.desc
  rndOf (TDesc.rnd d) (TDesc.grad d) seed t.iter.toNat (TDesc.tid d) ((TDesc.idxBase d + i * TDesc.idxRow d + j) % 2 ^ 48)

/-- Bytes of `k` elements of `w` bits packed from bit 0 (R78). -/
def packBytes (w k : Nat) (es : List Nat) : List Byte := leBytes (k * w / 8) (packElems w 0 es)

/-- R136: a row in a scalar format. -/
def convScalar (t : Tile) (seed i c0 : Nat) (vs : List FVal) : List Byte × List (FVal × FVal) × Conds :=
  let d := t.desc
  let fo := TDesc.fOut d
  let r : List (Nat × FVal × Cnd) := vs.zipIdx.map fun (v, j) =>
    let (b, c) := if fo = TDesc.accFmt d then ((TDesc.accFlt d).enc v, ({} : Cnd)) else fo.cvt 0 (t.rnd seed i (c0 + j)) v
    (b, v, c)
  (r.flatMap fun x => leBytes (fo.width / 8) x.1, r.map fun x => (fo.dec 0 x.1, x.2.1), r.foldl (fun k x => k.note x.2.2) {})

/-- R137: a row in a block-scaled format; `sup` holds the scale bytes supplied. A block that overflows counts once, however many
of its elements do: R138 counts conditions, and the spec does not say whether a block raises one or several (DESIGN CHOICE,
log 72). -/
def convBlocks (t : Tile) (seed i c0 : Nat) (vs : List FVal) (sup : List Nat) :
    List Byte × List Byte × List (FVal × FVal) × Conds :=
  let d := t.desc
  let fo := TDesc.fOut d
  let bl : List (MxBlock × List FVal) := (chunks 32 vs.length vs).zipIdx.map fun (b, k) =>
    let rn := (upto b.length).map fun j => t.rnd seed i (c0 + 32 * k + j)
    let m := mxConvert fo (if TDesc.supplied d then some (nth sup k 0) else none) rn b
    (m, b)
  (bl.flatMap fun x => packBytes fo.width 32 x.1.elems,
   bl.map fun x => BitVec.ofNat 8 x.1.scale,
   bl.flatMap fun x => (x.1.elems.map (mxVal fo x.1.scale)).zip x.2,
   { ovf := (bl.filter fun x => x.1.ovf).length })

/-- What a tile's Press covers (R139). -/
def Tile.pr (t : Tile) : Region :=
  match t.region with
  | [m0, mN, n0, nN] => if t.raw.isSome then ⟨m0, mN, n0, nN, t.k0, t.kN⟩ else t.region'
  | _ => t.region'

/-- The parts of a sum that a core's Press combines, over the cores of their interface (R139). -/
def State.partsOf (s : State) (c : CoreRef) (t : Tile) : List Tile :=
  (s.coresOf t.owner).flatMap fun r => (s.core r).mng.tiles.filter fun u =>
    u.owner == t.owner && u.idx == t.idx && u.raw.isSome && u.presser == c

/-- One element of a part's sums at place (i, j) of the output, where the part covers it. -/
def Tile.sumAt (t : Tile) (shadow : Bool) (i j : Nat) : Option FVal :=
  let (r0, rN) := t.region'.rows t.df
  let (c0, cN) := t.region'.cols t.df
  let f := if shadow then TDesc.shadow t.desc else TDesc.accFlt t.desc
  if r0 ≤ i ∧ i < r0 + rN ∧ c0 ≤ j ∧ j < c0 + cN then
    some (f.dec (nth (nth (if shadow then t.shadAcc else t.acc) (i - r0) []) (j - c0) 0).toNat)
  else none

/-- R59: the sum at place (i, j) that another device of the hem group has told for a tile. -/
def State.peerSum (s : State) (t : Tile) (shadow : Bool) (i j slot : Nat) : Option FVal :=
  let x := s.ifc t.owner
  let f := if shadow then TDesc.shadow t.desc else TDesc.accFlt t.desc
  (x.hemSums.find? fun h => h.slot.toNat == slot && h.key == x.hemKey t.idx && h.shadow == shadow && h.row == i
      && decide (h.col ≤ j) && decide (j < h.col + h.vals.length)).map fun h => f.dec (nth h.vals (j - h.col) 0).toNat

/-- R139: the sums of row i that other devices hold have come, but for a device that has stopped its span (R169). -/
def State.peersReady (s : State) (t : Tile) (i : Nat) : Bool :=
  let (c0, cN) := t.pr.cols t.df
  t.home.isSome || t.peers.all fun (_, sl) =>
    ((s.ifc t.owner).hem.any fun h => h.1 == sl && h.2.ovf)
    || (rangeFrom c0 cN).all fun j => (s.peerSum t false i j sl).isSome && (!t.sampled || (s.peerSum t true i j sl).isSome)

/-- The sums that row i enters the Press with: a part's own, or the combined values of a sum (R59, R139). -/
def State.rowSums (s : State) (c : CoreRef) (t : Tile) (shadow : Bool) (i : Nat) : List FVal × Conds :=
  let (c0, cN) := t.pr.cols t.df
  let f := if shadow then TDesc.shadow t.desc else TDesc.accFlt t.desc
  if t.raw.isNone then ((rangeFrom c0 cN).map fun j => (t.sumAt shadow i j).getD .zero, {})
  else
    let us := s.partsOf c t
    (rangeFrom c0 cN).foldl (fun (l, k) j =>
      let peers := if t.home.isSome then [] else t.peers.filterMap fun (k, sl) => (s.peerSum t shadow i j sl).map fun v => ([k], v)
      match combine f (TDesc.op t.desc) 257 ((us.filterMap fun u => (u.sumAt shadow i j).map fun v => (u.raw.getD [], v)) ++ peers) with
      | some (v, x) => (l ++ [v], (k : Conds).plus x)
      | none => (l ++ [.zero], k)) ([], {})

/-- The bias and the saved input of output (i, j) (R131, R193). -/
def State.pressIn (s : State) (t : Tile) (i j : Nat) : Option FVal × Option FVal :=
  let d := t.desc
  let n := TDesc.accSize d
  (if TDesc.biasEn d then some ((TDesc.accFlt d).dec (s.natAt (TDesc.biasAddr d + n * j) n)) else none,
   if decide (TDesc.tbl d ≠ 0) && t.tblDer then some (flt32.dec (s.natAt (TDesc.cinAddr d + i * TDesc.outStride d + 4 * j) 4)) else none)

/-- The scale bytes in use for a row in this attempt (R137, R170). -/
def State.rowScaleBytes (s : State) (t : Tile) (r i c0 cN : Nat) : List Nat :=
  let d := t.desc
  let fo := TDesc.fOut d
  if fo.isMx && TDesc.supplied d then
    if t.attempt = 0 then
      let (o, n) := rowScales fo c0 cN
      (s.bytesAt (TDesc.outScale d + i * scaleStride fo (TDesc.outStride d) + o) n).map BitVec.toNat
    else (nth t.sup r []).map fun b => if b = 0xFF then b else b + t.attempt
  else []

/-- R129, R136, R137: row `r` of a tile's Press. -/
def State.pressedRow (s : State) (c : CoreRef) (t : Tile) (r : Nat) : PressedRow :=
  let d := t.desc
  let fo := TDesc.fOut d
  let i := (t.pr.rows t.df).1 + r
  let (c0, cN) := t.pr.cols t.df
  let seed := ((s.jobOf t.owner).map Job.seed).getD 0
  let (sums, k) := s.rowSums c t false i
  let sup := s.rowScaleBytes t r i c0 cN
  let vs := sums.zipIdx.map fun (a, j) =>
    let (b, z) := s.pressIn t i (c0 + j)
    pressVal (TDesc.accFlt d) t b z (nth sup (j / 32) 0) a
  let early := vs.foldl (fun (x : Conds) v => x.plus v.2) k
  if fo.isMx then
    let (es, sc, ps, cv) := convBlocks t seed i c0 (vs.map (·.1)) sup
    { elems := es, scales := sc, pairs := ps, early := early, conv := cv, sup := sup }
  else
    let (es, ps, cv) := convScalar t seed i c0 (vs.map (·.1))
    { elems := es, scales := [], pairs := ps, early := early, conv := cv, sup := [] }

/-- R175: the shadow values of row `r`. -/
def State.shadowRow (s : State) (c : CoreRef) (t : Tile) (r : Nat) (sup : List Nat) : List FVal :=
  let i := (t.pr.rows t.df).1 + r
  let c0 := (t.pr.cols t.df).1
  (s.rowSums c t true i).1.zipIdx.map fun (a, j) =>
    let (b, z) := s.pressIn t i (c0 + j)
    (pressVal (TDesc.shadow t.desc) t b z (nth sup (j / 32) 0) a).1

/-! ### Taps (R141, R142, R158) -/

/-- R142: the squares of the conversion errors of finite results. The spec does not say whether a difference or a square rounds
in FP64 before the addition: both are taken exactly here, and the sum alone rounds (DESIGN CHOICE, log 62). -/
def cerrTerms (ps : List (FVal × FVal)) : List FVal :=
  (ps.filter fun p => p.1.isFinite).map fun p => let d := (p.1.sub p.2).1; (d.mul d).1

/-- R142: a slot with the errors of some elements added. -/
def Cerr.feed (e : Cerr) (ps : List (FVal × FVal)) : Cerr :=
  let ts := cerrTerms ps
  { sum := ts.foldl addTo64 e.sum, cnt := e.cnt + BitVec.ofNat 48 ts.length,
    exc := BitVec.ofNat 16 (stopAdd 0xFFFF e.exc.toNat (ps.length - ts.length)) }

/-- R142: feed the conversion-error tap. -/
def Mangle.cerrAdd (m : Mangle) (staged : Bool) (k : Nat) (ps : List (FVal × FVal)) : Mangle :=
  if staged then { m with stCerr := m.stCerr.set {} k ((m.stCerr.get {} k).feed ps) }
  else { m with cerr := m.cerr.set {} k ((m.cerr.get {} k).feed ps) }

/-- R141, R142: a core's taps take the values of a drained row. -/
def State.tapRow (s : State) (c : CoreRef) (t : Tile) (ps : List (FVal × FVal)) : State :=
  let d := t.desc
  let st := s.inSpan t
  let s := if TDesc.normEn d && t.wts.isEmpty then
      s.updCore c fun k => { k with mng := k.mng.normFeed ⟨t.owner, t.idx, st, TDesc.normSlot d, ps.map (·.1)⟩ } else s
  if TDesc.cerrEn d then s.updCore c fun k => { k with mng := k.mng.cerrAdd st (TDesc.cerrSlot d) ps } else s

/-- The tile's own conversion-error figures (R142). -/
def Tile.cerrFeed (t : Tile) (ps : List (FVal × FVal)) : Tile :=
  let ts := cerrTerms ps
  { t with ct := ts.foldl addTo64 t.ct, ctCnt := t.ctCnt + ts.length, ctExcl := t.ctExcl + (ps.length - ts.length) }

/-! ### Draining (R129, R136 to R139, R170, R199) -/

/-- R170: careful mode holds a tile's taps and queue rows back until its kept attempt. -/
def State.careful (s : State) (t : Tile) : Bool :=
  (TDesc.fOut t.desc).isMx && TDesc.supplied t.desc && match s.jobOf t.owner with
    | some j => bitOf j.numCtrl.toNat 0
    | none => false

/-- R170: an OVERFLOW of a tile arose outside the conversion, in the accumulation of any part of its sum or in its Press. -/
def State.overflowedEarly (s : State) (c : CoreRef) (t : Tile) : Bool :=
  let x := s.ifc t.owner
  t.early || (t.raw.isSome && ((s.partsOf c t).any (·.early)
    || x.hemSums.any fun h => h.early && h.key == x.hemKey t.idx))

/-- R170: an attempt that has drained must run again. -/
def State.mustRetry (s : State) (c : CoreRef) (t : Tile) : Bool :=
  t.home.isNone && s.careful t && decide (0 < t.pconds.ovf) && !s.overflowedEarly c t && decide (t.attempt < 8)
  && t.sup.all fun l => l.all fun b => decide (b + t.attempt + 1 ≤ 0xFE)

/-- Output rows of a tile's Press. -/
def Tile.outRows (t : Tile) : Nat := (t.pr.rows t.df).2

/-- No later row of the tile is written: this one ends its group in an output queue (R249). -/
def Tile.lastWritten (t : Tile) (r : Nat) : Bool :=
  (rangeFrom (r + 1) (t.outRows - (r + 1))).all fun k => t.isFrozen ((t.pr.rows t.df).1 + k)

/-- The queue entries of an output row. -/
def Tile.rowGroup (t : Tile) (r : Nat) (p : PressedRow) : List QEnt :=
  let es := groupOf (p.elems ++ p.scales)
  if t.lastWritten r then es else es.map fun e => { e with last := false }

/-- The bytes of an output row reach memory. -/
def State.writeRow (s : State) (c : CoreRef) (t : Tile) (r : Nat) (p : PressedRow) : State :=
  let d := t.desc
  let fo := TDesc.fOut d
  let i := (t.pr.rows t.df).1 + r
  let (c0, cN) := t.pr.cols t.df
  let e := TDesc.outAddr d + i * TDesc.outStride d + (rowBytes fo c0 cN).1
  let k := TDesc.outScale d + i * scaleStride fo (TDesc.outStride d) + (rowScales fo c0 cN).1
  let s := s.put e p.elems
  let s := if p.scales.isEmpty then s else s.put k p.scales
  s.touchAll (.core c) [(.write, e, p.elems.length), (.write, k, p.scales.length)]

/-- A place of the output lies in what a tile's Press covers. -/
def Tile.covers (t : Tile) (i j : Nat) : Bool :=
  let (r0, rN) := t.pr.rows t.df
  let (c0, cN) := t.pr.cols t.df
  decide (r0 ≤ i) && decide (i < r0 + rN) && decide (c0 ≤ j) && decide (j < c0 + cN)

/-- R139: the parts of a tile that a core's Press has combined are done, and the sums that other devices told for it go. What has
waited for the tile goes on: the feeds of norm slots behind it (R141), and the LOADs that its slot held back (R134). -/
def State.partsDone (s : State) (c : CoreRef) (t : Tile) : State :=
  let cores := if t.raw.isSome then dedup (s.coresOf t.owner) else [c]
  let s := if t.peers.isEmpty then s else
    s.updIfc t.owner fun x => { x with hemSums := x.hemSums.filter fun h => !(h.key == x.hemKey t.idx && t.covers h.row h.col) }
  let s := forEach (fun r s =>
    forEach (fun u s =>
      if u.owner = t.owner ∧ u.idx = t.idx ∧ (r = c ∨ (u.raw.isSome ∧ u.presser = c)) then
        (s.weigh r u).setTile r { u with phase := .done, slot := none } else s)
      (s.core r).mng.tiles s) cores s
  (forEach (fun r s => s.updCore r fun k => { k with mng := k.mng.normFlush }) cores s).fillTables t.owner

/-- A tile's last row has been written: the taps that waited are fed, the tile's error registers are set, its sample is
kept for the Crease watch, and the tile and the parts of its sum are done. -/
def State.drained' (s : State) (c : CoreRef) (t : Tile) : State :=
  let d := t.desc
  let s := if s.careful t then s.tapRow c t t.taps else s
  let s := if TDesc.cerrEn d then s.updCore c fun k => { k with mng := { k.mng with
      tileCnt := BitVec.ofNat 32 t.ctCnt, tileExcl := BitVec.ofNat 32 t.ctExcl, tileSum := t.ct } } else s
  let s := if t.sampled then s.updCore c fun k => { k with mng := { k.mng with
      sample := some { owner := t.owner, idx := t.idx, tag := BitVec.ofNat 16 (s.tileAt t).tag, seq := BitVec.ofNat 12 (TDesc.seq d),
                       outs := t.outs, shad := t.shads } } } else s
  s.partsDone c t

/-- R250: entries of a tile's rows enter its output queue as there is room for them; `fuel` bounds the times that a consumer
makes room. What is left waits. -/
def State.pushRows (s : State) (c : CoreRef) (q : Nat) : Nat → List QEnt → State × List QEnt
  | 0, es => (s, es)
  | fuel + 1, es =>
    let n := 64 - ((s.core c).dq.get [] q).length
    if es.isEmpty || decide (n = 0) then (s, es)
    else ((s.qpush c q (es.take n)).drain c q).pushRows c q fuel (es.drop n)

/-- R129, R170, R250: a tile whose row has been formed hands on what its output queue has room for, in careful mode once no
attempt can follow; with its last row written it is done. -/
def State.rowOut (s : State) (c : CoreRef) (t : Tile) : State :=
  let final := decide (t.row = t.outRows) && !s.mustRetry c t
  let (s, rest) := match queueRef (TDesc.outAddr t.desc) with
    | some q => if final || !s.careful t then s.pushRows c q t.rowsQ.length t.rowsQ else (s, t.rowsQ)
    | none => (s, t.rowsQ)
  let t := { t with rowsQ := rest, full := (final || !s.careful t) && !rest.isEmpty }
  let s := s.setTile c t
  if final && rest.isEmpty then s.drained' c t else s

/-- The reads of a Press for one output row (R131, R137, R193). -/
def Tile.rowReads (t : Tile) (r : Nat) : Ranges :=
  let d := t.desc
  let p := t.pr
  let i := (p.rows t.df).1 + r
  let one : Region := if t.df = 2 then { p with k0 := i, kN := 1 } else { p with m0 := i, mN := 1 }
  (if t.attempt = 0 then supRanges t.df d one else []) ++ biasRanges t.df d one
    ++ if decide (TDesc.tbl d ≠ 0) && t.tblDer then cinRanges t.df d one 4 else []

/-- R129: one row of a tile passes through the Press and is written. -/
def State.drainRow (s : State) (c : CoreRef) (t : Tile) : State :=
  let d := t.desc
  let r := t.row
  let i := (t.pr.rows t.df).1 + r
  let p := s.pressedRow c t r
  let q := queueRef (TDesc.outAddr d)
  let frozen := t.isFrozen i
  let hold := s.careful t
  let shot := t.sampled && decide (r < 16) && !frozen
  let t1 : Tile := { t with row := r + 1, sup := if t.attempt = 0 && hold then t.sup ++ [if frozen then [] else p.sup] else t.sup }
  let t2 : Tile := if frozen then t1 else
    let x := if TDesc.cerrEn d then t1.cerrFeed p.pairs else t1
    { x with
      pconds := (t.pconds.plus p.early).plus p.conv
      early := t.early || decide (0 < p.early.ovf)
      taps := if hold then t.taps ++ p.pairs else t.taps
      rowsQ := if q.isSome then t.rowsQ ++ t.rowGroup r p else t.rowsQ
      outs := if shot then t.outs ++ [p.pairs.map (·.1)] else t.outs
      shads := if shot then t.shads ++ [s.shadowRow c t r p.sup] else t.shads }
  let s := s.touchAll (.core c) (t.rowReads r)
  let s := if frozen then s else
    let s := if q.isSome then s else s.writeRow c t r p
    if hold then s else s.tapRow c t p.pairs
  s.rowOut c t2

/-- R59, R139: a row of this device's sums goes to the device whose Press combines it, in messages of up to seven words (log 67);
`wide` says FP64. -/
def State.tellRow (s : State) (t : Tile) (home : Nat) (shadow early wide : Bool) (i c0 : Nat) (bits : List Nat) : State :=
  let n := if wide then 3 else 7
  forEach (fun (k : Nat) (s : State) =>
    let vs := (bits.drop (n * k)).take n
    s.hemMessage t.owner home msgSums ([t.idx, (s.ifc t.owner).hemKey t.idx / 2 ^ 32,
      i + b2n shadow * 2 ^ 24 + b2n early * 2 ^ 25 + b2n wide * 2 ^ 26 + vs.length * 2 ^ 28, c0 + n * k]
      ++ if wide then vs.flatMap fun v => [fld v 0 32, fld v 32 32] else vs)) (upto (ceilDiv bits.length n)) s

/-- R139: a row of a part whose Press is another device's leaves its array: its sums are combined over this device's cores, and
told. A frozen row is told as any other, and its conditions are left out (R199). -/
def State.sendRow (s : State) (c : CoreRef) (t : Tile) (home : Nat) : State :=
  let i := (t.pr.rows t.df).1 + t.row
  let c0 := (t.pr.cols t.df).1
  let (vs, k) := s.rowSums c t false i
  let k : Conds := if t.isFrozen i then {} else k
  let t := { t with row := t.row + 1, pconds := t.pconds.plus k, early := t.early || decide (0 < k.ovf) }
  let tell (s : State) (shadow : Bool) (l : List FVal) : State :=
    let f := if shadow then TDesc.shadow t.desc else TDesc.accFlt t.desc
    s.tellRow t home shadow (s.overflowedEarly c t) (if shadow then !TDesc.acc64 t.desc else TDesc.acc64 t.desc) i c0 (l.map f.enc)
  let s := tell s false vs
  let s := if t.sampled then tell s true (s.rowSums c t true i).1 else s
  let s := s.pump.setTile c t
  if t.row = t.outRows then s.partsDone c t else s

/-- The first tile in a core's Press. -/
def Mangle.pressing (m : Mangle) : Option Tile := m.tiles.find? fun t => t.phase == .press

/-- R256: a tile of a core goes on: its interface has not halted at it or before it. -/
def State.goesOn (s : State) (t : Tile) : Bool := (s.ifc t.owner).mayHandle t.idx

/-- R129: PRESS_ROW. The entries of a row wait while its output queue is full, and the next row for them (R250); a combined row
waits for every part (R139). On a hem gang split along K, the device of the first member presses, and every other tells it its
sums (R59, log 67). -/
def execPressRow (c : CoreRef) (s : State) : Out :=
  run (.pressRow c) s fun s => match (s.core c).mng.pressing with
    | none => s
    | some t =>
      let ready := t.raw.isNone || (s.partsOf c t).all Tile.formed
      if s.darns (.mangle c) || !s.goesOn t then s
      else if t.full || decide (t.outRows ≤ t.row) then (if t.full then s.rowOut c t else s)
      else if ready && s.peersReady t ((t.pr.rows t.df).1 + t.row) then
        match t.home with
        | some h => s.sendRow c t h
        | none => s.drainRow c t
      else s

/-- R170: CAREFUL_RETRY: an attempt that overflowed in its conversion only runs again against the next scale. -/
def execCarefulRetry (c : CoreRef) (s : State) : Out :=
  run (.carefulRetry c) s fun s => match (s.core c).mng.pressing with
    | none => s
    | some t =>
      if t.row = t.outRows ∧ s.mustRetry c t = true ∧ s.darns (.mangle c) = false ∧ s.goesOn t = true then
        s.setTile c { t with attempt := t.attempt + 1, row := 0, pconds := {}, taps := [], rowsQ := [], ct := 0, ctCnt := 0,
                             ctExcl := 0, outs := [], shads := [] }
      else s

/-! ### Completion (R138, R60) -/

/-- R138, R170: a part has ended: its conditions reach the command, and a kept attempt is reported. The parts of a gang tile are
retried each on its own core with its own k, and TILE_RESCALED is raised for each, while the command counts once (DESIGN CHOICE,
log 63). -/
def State.partDone (s : State) (c : CoreRef) (t : Tile) : State :=
  let cs := t.conds.plus t.pconds
  let kept := if decide (0 < t.attempt) && decide (t.pconds.ovf = 0) then t.attempt else 0
  let s := s.updFlight t.owner .exe t.idx fun f =>
    { f with parts := f.parts - 1, conds := f.conds.plus cs, scaled := Nat.max f.scaled kept }
  if kept = 0 then s
  else match s.flightOf t.owner .exe t.idx with
    | some f => s.notice t.owner (.mng c) Code.tileRescaled (s.numArgs t.owner (s.ifc t.owner).layer kept (f.delivery .exe))
    | none => s

/-- R138: TILE_COMPLETE: the first done tile of a core leaves it; on a core interface its command completes. -/
def execTileComplete (c : CoreRef) (s : State) : Out :=
  run (.tileComplete c) s fun s => match (s.core c).mng.tiles.find? fun t => t.phase == .done && s.goesOn t with
    | none => s
    | some t =>
      let s := s.updCore c fun k => { k with mng := { k.mng with tiles := k.mng.tiles.filter fun u => !(u.owner == t.owner && u.idx == t.idx) } }
      let s := s.partDone c t
      match s.flightOf t.owner .exe t.idx with
      | some f => if !isGang t.owner && s.ended t.owner f then s.settle t.owner .exe f else s
      | none => s

/-! ### Crease watch (R177) -/

/-- The FP64 sum of squares of some values, each addition rounded. -/
def sumSquares (l : List FVal) : FVal := flt64.dec (addSquares 0 l).toNat

/-- R160, R177: √(D/S) in FP32; +∞ for a non-finite disagreement. -/
def creaseRatio (bad : Bool) (d z : FVal) : Word :=
  if bad then BitVec.ofNat 32 (flt32.infBits false)
  else if d.isZero then 0
  else if z.isZero then BitVec.ofNat 32 (flt32.infBits false)
  else BitVec.ofNat 32 (flt32.enc (flt32.round .rne ((d.div z).1.sqrt).1).1)

/-- R177: the verdict on a sample: whether it disagrees, and √(D/S). The spec does not say where D, S and THR² S round: the
differences and squares are exact here, each FP64 addition rounds once, and THR² S rounds once; identical pairs that are not
finite are left out of D and S (DESIGN CHOICE, log 62). -/
def Sample.decide (p : Sample) (thr : FVal) : Bool × Word :=
  let ps := p.outs.flatten.zip p.shad.flatten
  let odd (x : FVal × FVal) : Bool := !(x.1.isFinite && x.2.isFinite)
  let bad := ps.any fun x => odd x && x.1 != x.2
  let fin := ps.filter fun x => !odd x
  let d := sumSquares (fin.map fun x => (x.1.sub x.2).1)
  let z := sumSquares (fin.map (·.2))
  let lim := (flt64.round .rne ((thr.mul thr).1.mul z).1).1
  (bad || lim.lt d, creaseRatio bad d z)

/-- R177: CREASE_SAMPLE_DECIDE: the pending sample of a core is decided; its span counts it. -/
def execCreaseSampleDecide (c : CoreRef) (s : State) : Out :=
  run (.creaseSampleDecide c) s fun s => match (s.core c).mng.sample with
    | none => s
    | some p =>
      let s := s.updCore c fun k => { k with mng := { k.mng with sample := none } }
      s.updIfc p.owner fun x => { x with span := x.span.map fun sp =>
        let (dis, w) := p.decide (flt32.dec (layerThr sp.desc))
        { sp with
          sampled := sp.sampled + 1
          disagree := sp.disagree + b2n dis
          odd := if dis && sp.odd.isNone then some { Delivery.ofSpan p.idx with tag := p.tag, seq := some p.seq } else sp.odd
          worst := worse sp.worst w } }

end Sys2Proof.Machine
end

