-- ==== Sys2Proof/Machine/Optstep.lean ====
section
/-! DEFINITION. OPTSTEP: the fused optimiser step of the access engines' update paths, its norm record and its part in
the generation rule (R58, R179 to R184, R209, R252). -/

namespace Sys2Proof.Machine

/-! ### The descriptor (R181) -/

/-- An OPTSTEP descriptor. -/
abbrev ODesc := BitVec 1024

def ODesc.word (d : ODesc) (k : Nat) : Nat := wordAt d.toNat k
def ODesc.addr (d : ODesc) (k : Nat) : Nat := dwordAt d.toNat k
def ODesc.mode (d : ODesc) : Nat := fld (ODesc.word d 0) 0 2
def ODesc.momFmt (d : ODesc) : Fmt := if bitOf (ODesc.word d 0) 2 then .mx8e4 else .mxi8
def ODesc.check (d : ODesc) : Bool := bitOf (ODesc.word d 0) 3
def ODesc.wfmt (d : ODesc) : Nat := fld (ODesc.word d 0) 8 5
def ODesc.ufmt (d : ODesc) : Nat := fld (ODesc.word d 0) 16 5
def ODesc.gfmt (d : ODesc) : Nat := fld (ODesc.word d 0) 24 5
def ODesc.elems (d : ODesc) : Nat := ODesc.word d 1
def ODesc.uInit (d : ODesc) : Int := toSigned 8 (fld (ODesc.word d 2) 0 8)
def ODesc.normSlot (d : ODesc) : Nat := fld (ODesc.word d 2) 8 6
/-- B1, B2, EPS, LR, WD, C1, C2 by number. -/
def ODesc.coef (d : ODesc) (k : Nat) : FVal := flt32.dec (ODesc.word d (4 + k))
def ODesc.tid (d : ODesc) (k : Nat) : Nat := (ODesc.word d 11 + k) % 2 ^ 32
def ODesc.idxBase (d : ODesc) : Nat := fld (ODesc.addr d 12) 0 48
def ODesc.gAddr (d : ODesc) : Nat := ODesc.addr d 14
def ODesc.wAddr (d : ODesc) : Nat := ODesc.addr d 16
def ODesc.wScale (d : ODesc) : Nat := ODesc.addr d 18
def ODesc.mst (d : ODesc) : Nat := ODesc.addr d 20
def ODesc.mAddr (d : ODesc) : Nat := ODesc.addr d 22
def ODesc.mScale (d : ODesc) : Nat := ODesc.addr d 24
def ODesc.vAddr (d : ODesc) : Nat := ODesc.addr d 26
def ODesc.vScale (d : ODesc) : Nat := ODesc.addr d 28
def ODesc.nrec (d : ODesc) : Nat := ODesc.addr d 30
/-- Master mode. -/
def ODesc.master (d : ODesc) : Bool := ODesc.mode d == 0
def ODesc.fW (d : ODesc) : Fmt := fmtOf (ODesc.wfmt d)
def ODesc.fG (d : ODesc) : Fmt := fmtOf (ODesc.gfmt d)
def ODesc.fU (d : ODesc) : Fmt := fmtOf (ODesc.ufmt d)

/-- R181, R205, R228: an OPTSTEP descriptor carries a reserved encoding. Address fields count only where they are used. -/
def optBad (d : ODesc) : Bool :=
  let w0 := ODesc.word d 0
  let used := decide (ODesc.elems d ≠ 0)
  !zeroBits w0 4 4 || !zeroBits w0 13 3 || !zeroBits w0 21 3 || !zeroBits w0 29 3
  || !zeroBits (ODesc.word d 2) 14 18 || ODesc.word d 3 != 0 || !zeroBits (ODesc.word d 13) 16 16
  || decide (1 < ODesc.mode d) || decide (0x0B < ODesc.wfmt d) || (ODesc.mode d == 1 && ODesc.wfmt d != 3)
  || !(ODesc.ufmt d == 2 || ODesc.ufmt d == 3) || !(decide (1 ≤ ODesc.gfmt d) && decide (ODesc.gfmt d ≤ 3))
  || (used && !([ODesc.gAddr d, ODesc.mAddr d, ODesc.mScale d, ODesc.vAddr d, ODesc.vScale d, ODesc.nrec d].all plainDev))
  || (used && ODesc.master d && !plainDev (ODesc.mst d))
  || (used && !plainOrHandle (ODesc.wAddr d))
  || (used && (ODesc.fW d).isMx && !plainOrHandle (ODesc.wScale d))

/-! ### The update exponent (R180) -/

/-- ⌊log₂ (p / q)⌋ of a positive quotient. -/
def floorLogQ (p q : Nat) : Int :=
  let k : Int := (p.log2 : Int) - q.log2
  if p <<< (-k).toNat < q <<< k.toNat then k - 1 else k

/-- R180: the update exponent from U_SQ of the norm record. -/
def updExp (uSq : FVal) (elems : Nat) (init : Int) : Int :=
  match uSq with
  | .fin false m e =>
    if m = 0 ∨ elems = 0 then init
    else
      let l := floorLogQ m elems + e
      let h := l / 2
      if 64 < h then -64 else if h < -63 then 63 else -h
  | _ => init

/-! ### One element (R182) -/

/-- An FP32 operation: its rounded value, and its conditions counted. -/
def op32 (x : FVal × Bool) (c : Conds) : FVal × Conds :=
  let (v, o) := flt32.round .rne x.1
  (v, c.note { inv := x.2, ovf := o })

/-- The FP32 quotient. -/
def div32 (a b : FVal) (c : Conds) : FVal × Conds :=
  let (x, i, o) := a.div b
  let (v, o') := flt32.round .rne x
  (v, c.note { inv := i, ovf := o || o' })

/-- What OPTSTEP finds for an element: the new moments before their conversion, the new weight before its conversion to
WFMT (in master-free mode the exact difference), and the applied update. -/
structure OElem where
  m   : FVal
  v   : FVal
  w   : FVal
  upd : FVal

/-- R182: one element. `u` is the update exponent and `rn` rounds the scaled update. In master mode the scaling is undone in FP32,
which rounds a subnormal result only; in master-free mode nothing is rounded before the difference. -/
def optElem (d : ODesc) (u : Int) (rn : Rnd) (g m0 v0 w0 : FVal) (c : Conds) : OElem × Conds :=
  let k (n : Nat) : FVal := ODesc.coef d n
  let one := FVal.fin false 1 0
  let (r1, _) := op32 (one.sub (k 0)) {}
  let (r2, _) := op32 (one.sub (k 1)) {}
  let (a, c) := op32 ((k 0).mul m0) c
  let (b, c) := op32 (r1.mul g) c
  let (m, c) := op32 (a.add b) c
  let (a, c) := op32 ((k 1).mul v0) c
  let (gg, c) := op32 (g.mul g) c
  let (b, c) := op32 (r2.mul gg) c
  let (v, c) := op32 (a.add b) c
  let (x, c) := op32 (m.mul (k 5)) c
  let (num, c) := op32 ((k 3).mul x) c
  let (x, c) := op32 (v.mul (k 6)) c
  let (x, c) := op32 x.sqrt c
  let (den, c) := op32 (x.add (k 2)) c
  let (x, c) := div32 num den c
  let (y, c) := op32 ((k 4).mul w0) c
  let (dl, c) := op32 (x.add y) c
  let (su, c) := op32 (dl.scale u, false) c
  let (bits, x) := (ODesc.fU d).cvt 0 rn su
  let c := c.note x
  let us := ((ODesc.fU d).dec 0 bits).scale (-u)
  let (ap, c) := if ODesc.master d then op32 (us, false) c else (us, c)
  let diff := w0.sub ap
  if ODesc.master d then
    let (w, c) := op32 diff c
    ({ m := m, v := v, w := w, upd := ap }, c)
  else ({ m := m, v := v, w := diff.1, upd := ap }, c.note { inv := diff.2 })

/-! ### Tensors in memory -/

/-- The values of elements b to b + n - 1 of a tensor. -/
def State.tensor (s : State) (f : Fmt) (addr scale b n : Nat) : List FVal :=
  let e := rowBytes f b n
  let sc := rowScales f b n
  rowVals f b n (s.bytesAt (addr + e.1) e.2) (s.bytesAt (scale + sc.1) sc.2)

/-- The ranges of elements b to b + n - 1 of a tensor. -/
def tensorRanges (ks : List Acc) (f : Fmt) (addr scale b n : Nat) : Ranges :=
  let e := rowBytes f b n
  let sc := rowScales f b n
  ks.map (fun k => (k, addr + e.1, e.2)) ++ if sc.2 = 0 then [] else ks.map fun k => (k, scale + sc.1, sc.2)

/-- Write values as elements b onwards of a tensor: in a block-scaled format with a computed scale (R94), padding written
as zero bits (R79). `rn` rounds element i. -/
def State.putTensor (s : State) (f : Fmt) (addr scale b : Nat) (rn : Nat → Rnd) (vs : List FVal) (c : Conds) : State × Conds :=
  if f.isMx then
    let bl : List MxBlock := (chunks 32 vs.length vs).zipIdx.map fun (x, k) =>
      mxConvert f none ((upto x.length).map fun j => rn (b + 32 * k + j)) x
    let s := s.put (addr + 4 * f.width * (b / 32)) (bl.flatMap fun x => packBytes f.width 32 x.elems)
    (s.put (scale + b / 32) (bl.map fun x => BitVec.ofNat 8 x.scale), bl.foldl (fun c x => c.note { ovf := x.ovf }) c)
  else
    let r : List (Nat × Cnd) := vs.zipIdx.map fun (v, k) => f.cvt 0 (rn (b + k)) v
    (s.put (addr + f.width / 8 * b) (r.flatMap fun x => leBytes (f.width / 8) x.1), r.foldl (fun c x => c.note x.2) c)

/-! ### Parts (R58, R252) -/

/-- The parts of `n` elements from element `b` that the cores of a gang carry on this device, in member order. -/
def State.optPartsGo (s : State) (j : Job) : Nat → Nat → Nat → Nat → List (CoreRef × Nat × Nat)
  | 0, _, _, _ => []
  | fuel + 1, g, b, n =>
    match j.gang g with
    | none => []
    | some d => ((gangMembers d).zip (blockParts n (gangCount d))).flatMap fun (m, (x, k)) =>
      if k = 0 then []
      else match s.member d m with
        | .core r => [(r, b + x, k)]
        | .gang h => s.optPartsGo j fuel h (b + x) k
        | .other => []

/-- The parts of an OPTSTEP: core, first element, count. -/
def State.optParts (s : State) (i : IfaceId) (n : Nat) : List (CoreRef × Nat × Nat) :=
  match i with
  | .core r => [(r, 0, n)]
  | .gang k g => match s.job k with
    | some j => s.optPartsGo j 257 g.toNat 0 n
    | none => []

/-! ### The generation rule (R209) -/

/-- Where an OPTSTEP finds its weights: the bases it reads and writes, and the generation entry it writes. -/
structure OWeights where
  rd    : Nat
  wr    : Nat
  scale : Nat
  entry : Option Nat

/-- R205, R209: what W_ADDR and W_SCALE come to: bases, a wait for the target's count, or a code with its entry. -/
def State.optWeights (s : State) (i : IfaceId) (d : ODesc) : Except (BitVec 16 × Nat) (Option OWeights) :=
  let w := ODesc.wAddr d
  let sc := ODesc.wScale d
  let mx := (ODesc.fW d).isMx
  if !isHandle w then
    if mx && isHandle sc then match s.resolve i sc with
      | .ok a => .ok (some ⟨w, w, a, none⟩)
      | .error code => .error (code, handleEntry sc)
    else .ok (some ⟨w, w, sc, none⟩)
  else
    let n := handleEntry w
    match s.genEnt i n with
    | none => .error (Code.genAbsent, n)
    | some e =>
      if decide (handleLo w ≠ (e.current.toNat + 1) % 256) || decide (e.size.toNat ≤ handleOff w)
          || (mx && !(isHandle sc && handleEntry sc == n && handleLo sc == handleLo w && decide (handleOff sc < e.size.toNat))) then
        .error (Code.genBad, n)
      else if e.refs (!e.cur) ≠ 0 then .ok none
      else .ok (some ⟨e.base e.cur + handleOff w, e.base (!e.cur) + handleOff w,
        if mx then e.base (!e.cur) + handleOff sc else 0, some n⟩)

/-- R209: the head OPTSTEP's target slot is retiring; a first wait raises GEN_HELD, with the entry (R217). -/
def State.optRetire (s : State) (i : IfaceId) (n : Nat) (wait : Bool) : State :=
  match s.genEnt i n with
  | none => s
  | some e =>
    let s' := s.setGen i n { e.setRet (!e.cur) true with held := wait }
    if wait && !e.held then s'.raiseFor (.sched (s.schedOf i)) Code.genHeld i [n] else s'

/-- R209: the OPTSTEP that writes an entry has begun (`on`), or has written nothing (R184). -/
def State.optWriting (s : State) (i : IfaceId) (entry : Option Nat) (on : Bool) : State :=
  match entry.bind fun n => (s.genEnt i n).map (n, ·) with
  | none => s
  | some (n, e) =>
    if on then s.setGen i n { e with writing := true, held := false }
    else s.setGen i n { e.setRet (!e.cur) false with writing := false, held := false }

/-! ### The work of an OPTSTEP -/

/-- R367, R368: the ranges a part names, in field order. -/
def optRanges (d : ODesc) (w : OWeights) (b n : Nat) : Ranges :=
  let mf := ODesc.momFmt d
  tensorRanges [.read] (ODesc.fG d) (ODesc.gAddr d) 0 b n
  ++ (if ODesc.master d then [] else tensorRanges [.read] (ODesc.fW d) w.rd 0 b n)
  ++ tensorRanges [.write] (ODesc.fW d) w.wr w.scale b n
  ++ (if ODesc.master d then tensorRanges [.read, .write] .fp32 (ODesc.mst d) 0 b n else [])
  ++ tensorRanges [.read, .write] mf (ODesc.mAddr d) (ODesc.mScale d) b n
  ++ tensorRanges [.read, .write] mf (ODesc.vAddr d) (ODesc.vScale d) b n

/-- The running sums of an OPTSTEP. -/
structure ORun where
  s     : State
  conds : Conds := {}
  uSq   : DWord := 0
  wSq   : DWord := 0

/-- R182: the elements of a part. The sums take every value (R179). -/
def optPart (d : ODesc) (w : OWeights) (seed iter : Nat) (u : Int) (p : CoreRef × Nat × Nat) (x : ORun) : ORun :=
  let (_, b, n) := p
  let s := x.s
  let mf := ODesc.momFmt d
  let spr (k e : Nat) : Rnd := .spr (sprinkle seed iter (ODesc.tid d k) ((ODesc.idxBase d + e) % 2 ^ 48))
  let gs := s.tensor (ODesc.fG d) (ODesc.gAddr d) 0 b n
  let ms := s.tensor mf (ODesc.mAddr d) (ODesc.mScale d) b n
  let vs := s.tensor mf (ODesc.vAddr d) (ODesc.vScale d) b n
  let ws := if ODesc.master d then s.tensor .fp32 (ODesc.mst d) 0 b n else s.tensor (ODesc.fW d) w.rd 0 b n
  let one : FVal := .fin false 1 0
  let c0 := (op32 (one.sub (ODesc.coef d 1)) (op32 (one.sub (ODesc.coef d 0)) {}).2).2
  let c0 := if b = 0 then x.conds.plus c0 else x.conds
  let r := (((gs.zip ms).zip (vs.zip ws)).zipIdx).foldl
    (fun (acc : List OElem × Conds) ((gm, vw), k) =>
      let (e, c) := optElem d u (spr 0 (b + k)) gm.1 gm.2 vw.1 vw.2 acc.2
      (e :: acc.1, c)) ([], c0)
  let es := r.1.reverse
  let c := r.2
  let (s, c) := if ODesc.master d then
      let (s, _) := s.putTensor .fp32 (ODesc.mst d) 0 b (fun _ => .rne) (es.map (·.w)) {}
      s.putTensor (ODesc.fW d) w.wr w.scale b (fun _ => .rne) (es.map (·.w)) c
    else s.putTensor (ODesc.fW d) w.wr w.scale b (spr 1) (es.map (·.w)) c
  let (s, c) := s.putTensor mf (ODesc.mAddr d) (ODesc.mScale d) b (spr 2) (es.map (·.m)) c
  let (s, c) := s.putTensor mf (ODesc.vAddr d) (ODesc.vScale d) b (spr 3) (es.map (·.v)) c
  let new := if ODesc.master d then es.map (·.w) else s.tensor (ODesc.fW d) w.wr 0 b n
  let sq (a : DWord) (vs : List FVal) : DWord := vs.foldl (fun a v => addTo64 a (v.mul v).1) a
  { s := s, conds := c, uSq := sq x.uSq (es.map (·.upd)), wSq := sq x.wSq new }

/-- R183: take the gradient norm slots of the member cores, in member order, and set them to +0. -/
def State.takeNorms (s : State) (k : Nat) (cs : List CoreRef) : DWord × State :=
  let g := cs.foldl (fun a r => addTo64 a (flt64.dec ((s.core r).mng.norm.get 0 k).toNat)) 0
  (g, forEach (fun r s => s.updCore r fun c => { c with mng := { c.mng with norm := c.mng.norm.set 0 k 0 } }) cs s)

/-- R179, R183: write the norm record. -/
def State.putNorm (s : State) (a : Nat) (w g q : DWord) (u : Int) : State :=
  s.put a (leBytes 8 w.toNat ++ leBytes 8 g.toNat ++ leBytes 8 q.toNat ++ leBytes 8 (ofSigned 8 u))

/-- R184: the gradient holds a value that is not finite. -/
def State.gradBad (s : State) (d : ODesc) (ps : List (CoreRef × Nat × Nat)) : Bool :=
  ps.any fun (_, b, n) => (s.tensor (ODesc.fG d) (ODesc.gAddr d) 0 b n).any fun v => !v.isFinite

/-- R182 to R184: the parts are worked in member order, and the norm record is written. On a hem gang the scan of CHECK and the
sums W_SQ, G_SQ and U_SQ cover this device's part alone, although R180 divides by the ELEMS of the whole: no rule has the eight
devices tell one another of them (DESIGN CHOICE, log 74). -/
def State.optWork (s : State) (i : IfaceId) (idx : Nat) (d : ODesc) (w : OWeights) (ps : List (CoreRef × Nat × Nat)) : State :=
  let seed := ((s.jobOf i).map Job.seed).getD 0
  let iter := ((s.jobOf i).map (·.iter.toNat)).getD 0
  let u := updExp (flt64.dec (s.natAt (ODesc.nrec d + 16) 8)) (ODesc.elems d) (ODesc.uInit d)
  let x := forEach (optPart d w seed iter u) ps { s := s }
  let (g, s) := x.s.takeNorms (ODesc.normSlot d) (s.coresOf i)
  let s := s.putNorm (ODesc.nrec d) x.wSq g x.uSq u
  s.updFlight i .acc idx fun f => { f with conds := x.conds }

/-- The target slot of a handle OPTSTEP is retiring from the head of its stream. -/
def State.optRetireFor (s : State) (i : IfaceId) (w : OWeights) : State :=
  match w.entry with
  | some n => s.optRetire i n false
  | none => s

/-- R181 to R184, R209: an OPTSTEP begins. Its descriptor and every range are checked before a byte is written; the scan of
R184 comes before the ranges that it would write. -/
def State.optGo (s : State) (i : IfaceId) (c : BitVec 256) : Act State := do
  let a := s.headAt i .acc c
  s.checkPlace a .read 0 128 (.mem (cmdAddr c))
  let d : ODesc := BitVec.ofNat 1024 (s.natAt (cmdAddr c) 128)
  if optBad d then throw (s.halt a false Code.badCommand (.bob i) [])
  if ODesc.elems d = 0 then
    pure (((s.touchAll i [(.fetch, cmdAddr c, 128)]).beginFlight i .acc c).finish i .acc a.idx)
  else match s.optWeights i d with
    | .error (code, n) => throw (s.genHalt a false code n)
    | .ok none => pure (s.optRetire i (handleEntry (ODesc.wAddr d)) true)
    | .ok (some w) =>
      let ps := s.optParts i (ODesc.elems d)
      let deny (rs : CoreRef × Nat × Nat → Ranges) : Option State := firstSome (fun p =>
        (s.deniedAny (.core p.1) (rs p)).map fun e => s.haltDenied a false (.bob i) (s.logNo p.1) e) ps
      let grad (p : CoreRef × Nat × Nat) : Ranges := tensorRanges [.read] (ODesc.fG d) (ODesc.gAddr d) 0 p.2.1 p.2.2
      match deny grad with
      | some s => throw s
      | none => pure ()
      let begun := ((s.touchAll i [(.fetch, cmdAddr c, 128)]).optRetireFor i w).beginFlight i .acc c
      if ODesc.check d && s.gradBad d ps then
        let s := forEach (fun p s => s.touchAll i (grad p)) ps begun
        pure (((s.optWriting i w.entry false).raiseFor (.bob i) Code.optNonfinite i []).finish i .acc a.idx)
      else
        match deny fun p => optRanges d w p.2.1 p.2.2 with
        | some s => throw s
        | none => pure ()
        s.checkPlace a .read 0 32 (.mem (ODesc.nrec d))
        s.checkPlace a .write 0 32 (.mem (ODesc.nrec d))
        let s := (begun.optWriting i w.entry true).updFlight i .acc a.idx fun f => { f with gen := w.entry }
        let s := s.optWork i a.idx d w ps
        let s := forEach (fun p s => s.touchAll i (optRanges d w p.2.1 p.2.2)) ps s
        pure ((s.touchAll i [(.read, ODesc.nrec d, 32), (.write, ODesc.nrec d, 32)]).finish i .acc a.idx)

/-- R209: an OPTSTEP that its engine cannot accept yet: from the moment it stands at the head, its target slot is retiring. -/
def State.optHead (s : State) (i : IfaceId) (c : BitVec 256) : State :=
  let d : ODesc := BitVec.ofNat 1024 (s.natAt (cmdAddr c) 128)
  if (s.denied i false .read (cmdAddr c) 128).isSome || optBad d || decide (ODesc.elems d = 0) then s
  else match s.optWeights i d with
    | .error _ => s
    | .ok none => s.optRetire i (handleEntry (ODesc.wAddr d)) true
    | .ok (some w) => s.optRetireFor i w

/-- An OPTSTEP at the head of the access stream begins; on a gang without cores it has nothing to do. -/
def State.opt (s : State) (i : IfaceId) (c : BitVec 256) : State :=
  let idx := (s.ifc i).acc.head
  if s.engineCore i = none then (if s.engineFree i then (s.beginFlight i .acc c).finish i .acc idx else s)
  else if s.engineFree i then (s.optGo i c).begun i .acc c else s.optHead i c

/-- R182: OPTSTEP. -/
def execOptstep (i : IfaceId) (s : State) : Out :=
  run (.optstep i) s fun s => s.begin i .acc (isOp 0x50) fun c s => s.opt i c

end Sys2Proof.Machine
end

