-- ==== Sys2Proof/Machine/VecOps.lean ====
section
/-! DEFINITION. The vector engine's shared operations: the fields of an instruction and the row it belongs to, registers
and groups, element functions, legality, and how an instruction commits, waits or faults (R269 to R288, R305 to R309). -/

namespace Sys2Proof.Machine

/-! ### Instruction fields (R280) -/

def wOpc (w : Nat) : Nat := fld w 0 7
def wD (w : Nat) : Nat := fld w 7 5
def wA (w : Nat) : Nat := fld w 12 5
def wB (w : Nat) : Nat := fld w 17 5
def wMk (w : Nat) : Nat := fld w 22 3
def wFn (w : Nat) : Nat := fld w 25 7
def wFn3 (w : Nat) : Nat := fld w 17 3
/-- Signed immediates and offsets: bits [31:20] and bits [31:12]. -/
def wImm12 (w : Nat) : Int := toSigned 12 (fld w 20 12)
def wImm20 (w : Nat) : Int := toSigned 20 (fld w 12 20)
/-- A and B of a branch. -/
def wBrA (w : Nat) : Nat := fld w 7 5
def wBrB (w : Nat) : Nat := fld w 12 5

/-- R284: the row of a VV or VS function. -/
def elemRow (vs : Bool) (fn : Nat) (c : CoreRef) : Option Instr :=
  match fn with
  | 0x00 => some (.vadd c)
  | 0x01 => some (.vsub c)
  | 0x02 => some (.vmul c)
  | 0x03 => some (.vfma c)
  | 0x04 => some (.vfms c)
  | 0x05 => some (.vdiv c)
  | 0x06 => if vs then none else some (.vsqrt c)
  | 0x07 => some (.vmin c)
  | 0x08 => some (.vmax c)
  | 0x09 => if vs then none else some (.vabs c)
  | 0x0A => if vs then none else some (.vneg c)
  | 0x0B => some (.vsad c)
  | 0x0C => if vs then none else some (.vexp c)
  | 0x0E => if vs then none else some (.vmov c)
  | 0x0F => some (.vmerge c)
  | 0x10 => some (.vcmpeq c)
  | 0x11 => some (.vcmpne c)
  | 0x12 => some (.vcmplt c)
  | 0x13 => some (.vcmple c)
  | 0x18 => some (.vand c)
  | 0x19 => some (.vor c)
  | 0x1A => some (.vxor c)
  | 0x1B => some (.vshl c)
  | 0x1C => some (.vshr c)
  | 0x1D => some (.vsra c)
  | 0x20 => if vs then none else some (.vredsum c)
  | 0x21 => if vs then none else some (.vredmax c)
  | 0x22 => if vs then none else some (.vredmin c)
  | 0x23 => if vs then none else some (.vredsad c)
  | 0x24 => if vs then none else some (.vsegsum c)
  | 0x25 => if vs then none else some (.vsegmax c)
  | 0x26 => if vs then none else some (.vsegmin c)
  | 0x30 => if vs then none else some (.vinterp c)
  | 0x38 => if vs then some (.vext c) else none
  | 0x40 | 0x41 | 0x42 | 0x43 | 0x44 | 0x45 | 0x4C | 0x4D => if vs then none else some (.vcvt c)
  | 0x56 | 0x57 | 0x58 | 0x59 | 0x5A | 0x5B => if vs then none else some (.vpack c)
  | 0x66 | 0x67 | 0x68 | 0x69 | 0x6A | 0x6B => if vs then none else some (.vunpack c)
  | _ => none

/-- R297: the row of a mask function. -/
def maskRow (fn : Nat) (c : CoreRef) : Option Instr :=
  match fn with
  | 0x00 => some (.mand c)
  | 0x01 => some (.mor c)
  | 0x02 => some (.mxor c)
  | 0x03 => some (.mandn c)
  | 0x04 => some (.mnot c)
  | 0x05 => some (.mpop c)
  | 0x06 => some (.mfirst c)
  | 0x07 => some (.mset c)
  | _ => none

/-- R303: the row of an SR function. -/
def scalarRow (fn : Nat) (c : CoreRef) : Option Instr :=
  match fn with
  | 0x00 => some (.add c)
  | 0x01 => some (.sub c)
  | 0x02 => some (.mul c)
  | 0x03 => some (.andS c)
  | 0x04 => some (.orS c)
  | 0x05 => some (.xor c)
  | 0x06 => some (.shl c)
  | 0x07 => some (.shr c)
  | 0x08 => some (.sra c)
  | 0x09 => some (.slt c)
  | 0x0A => some (.sltu c)
  | 0x10 => some (.fadd c)
  | 0x11 => some (.fsub c)
  | 0x12 => some (.fmul c)
  | 0x13 => some (.fdiv c)
  | 0x14 => some (.fmin c)
  | 0x15 => some (.fmax c)
  | 0x16 => some (.flt c)
  | 0x17 => some (.fle c)
  | 0x18 => some (.feq c)
  | 0x19 => some (.fsqrt c)
  | 0x1A => some (.cvtIntToFp64 c)
  | 0x1B => some (.cvtFp64ToInt c)
  | 0x1C => some (.cvtFp32ToFp64 c)
  | 0x1D => some (.cvtFp64ToFp32 c)
  | 0x1F => some (.jumpRegister c)
  | _ => none

/-- R304: the row of an SI function. -/
def immRow (fn3 : Nat) (c : CoreRef) : Option Instr :=
  match fn3 with
  | 0 => some (.addi c)
  | 1 => some (.andi c)
  | 2 => some (.ori c)
  | 3 => some (.xori c)
  | 4 => some (.slli c)
  | 5 => some (.srli c)
  | 6 => some (.srai c)
  | _ => some (.slti c)

/-- R282: the row of a branch. -/
def branchRow (cond : Nat) (c : CoreRef) : Option Instr :=
  match cond with
  | 0 => some (.beq c)
  | 1 => some (.bne c)
  | 2 => some (.blt c)
  | 3 => some (.bge c)
  | 4 => some (.bltu c)
  | 5 => some (.bgeu c)
  | _ => none

/-- R305: the row of a SYS function. -/
def sysRow (fn : Nat) (c : CoreRef) : Option Instr :=
  match fn with
  | 0x00 => some (.vend c)
  | 0x01 => some (.setvl c)
  | 0x02 => some (.cvtset c)
  | 0x03 => some (.psetp c)
  | 0x04 => some (.vcond c)
  | 0x05 => some (.vtbl c)
  | 0x06 => some (.vlen c)
  | _ => none

/-- R280, R283: the row of an instruction word; none for a reserved OPC, FN, FN3, COND or width. -/
def rowOf (w : Nat) (c : CoreRef) : Option Instr :=
  match wOpc w with
  | 0x01 => elemRow false (wFn w) c
  | 0x02 => elemRow true (wFn w) c
  | 0x03 => maskRow (wFn w) c
  | 0x10 => scalarRow (wFn w) c
  | 0x11 => immRow (wFn3 w) c
  | 0x12 => some (.scalarUpper c)
  | 0x20 => if wFn w = 0 then some (.vld c) else none
  | 0x21 => if wFn w = 0 then some (.vst c) else none
  | 0x22 => if wFn w = 0 then some (.vldx c) else none
  | 0x23 => if wFn w = 0 then some (.vstx c) else none
  | 0x24 => if wFn w = 0 then some (.vqpop c) else none
  | 0x25 => if wFn w = 0 then some (.vqpush c) else none
  | 0x26 => if wFn3 w ≤ 3 then some (.sld c) else none
  | 0x27 => if wFn3 w ≤ 3 then some (.sst c) else none
  | 0x30 => branchRow (wFn3 w) c
  | 0x31 => some (.jump c)
  | 0x3F => sysRow (wFn w) c
  | _ => none

/-! ### Registers (R269 to R274) -/

/-- VLEN of the Twigen. -/
def vlen : Nat := 2048

def Vec.fmtCode (v : Vec) : Nat := fld v.vtype.toNat 0 5
def Vec.fmt (v : Vec) : Fmt := fmtOf v.fmtCode
/-- EW (R270). -/
def Vec.ew (v : Vec) : Nat := v.fmt.width
/-- G (R271). -/
def Vec.grp (v : Vec) : Nat := 2 ^ fld v.vtype.toNat 5 2
/-- VLMAX (R271). -/
def Vec.vlmax (v : Vec) : Nat := vlen * v.grp / v.ew
def Vec.vlN (v : Vec) : Nat := v.vl.toNat

/-- A scalar register; S0 reads zero (R269). -/
def Vec.sreg (v : Vec) (n : Nat) : Nat := if n = 0 then 0 else (v.s.get 0 n).toNat

/-- A mask register. -/
def Vec.mreg (v : Vec) (n : Nat) : Nat := (v.m.get 0 n).toNat

/-- Write the bits of a mask register below VL; the others stay (R273). -/
def Vec.setM (v : Vec) (n bits : Nat) : Vec :=
  let k := v.vlN
  let old := v.mreg n
  { v with m := v.m.set 0 n (BitVec.ofNat 2048 ((old >>> k) <<< k + bits % 2 ^ k)) }

/-- The bit string of the `g` registers from `n` (R270). -/
def Vec.group (v : Vec) (n : Nat) : Nat → Nat
  | 0 => 0
  | g + 1 => (v.v.get 0 n).toNat + v.group (n + 1) g <<< vlen

/-- Write the bit string of the `g` registers from `n`. -/
def Vec.setGroup (v : Vec) (n : Nat) : Nat → Nat → Vec
  | 0, _ => v
  | g + 1, x => { v with v := v.v.set 0 n (BitVec.ofNat 2048 x) }.setGroup (n + 1) g (x >>> vlen)

/-- Elements 0 to `cnt` - 1, of `ew` bits, of a bit string. -/
def elemsOf (ew cnt x : Nat) : List Nat := (upto cnt).map fun k => fld x (ew * k) ew

/-- Elements 0 to VL - 1 of the group at `n` (R271). -/
def Vec.elems (v : Vec) (n : Nat) : List Nat := elemsOf v.ew v.vlN (v.group n v.grp)

/-- R281: element `k` is active. -/
def Vec.active (v : Vec) (mk k : Nat) : Bool := mk == 0 || bitOf (v.mreg mk) k

/-- A bit string with some of its first elements replaced (R273). -/
def withElems (ew old : Nat) (xs : List (Option Nat)) : Nat :=
  let n := ew * xs.length
  (old >>> n) <<< n + packElems ew 0 (xs.zipIdx.map fun (x, k) => x.getD (fld old (ew * k) ew))

/-- Write elements 0 to VL - 1 of `ew` bits in the `g` registers from `n`; a missing value stays. -/
def Vec.putElems (v : Vec) (n g ew : Nat) (xs : List (Option Nat)) : Vec := v.setGroup n g (withElems ew (v.group n g) xs)

/-- R271: a group operand of `g` registers is aligned and stands within V0 to V31. -/
def groupOk (n g : Nat) : Bool := decide (n % g = 0) && decide (n + g ≤ 32)

/-- R283: a destination group overlaps a source group without coinciding with it. -/
def overlapBad (d dn a an : Nat) : Bool := decide (d < a + an) && decide (a < d + dn) && !(d == a && dn == an)

/-! ### How an instruction ends -/

/-- What an instruction works from: the state, its core, that core's engine, the program and the word. -/
structure VCtx where
  s : State
  r : CoreRef
  v : Vec
  x : VRun
  w : Nat

/-- What an instruction changes when it commits (R306). -/
structure VStep where
  s     : State
  v     : Vec
  x     : VRun
  conds : Conds := {}
  /-- where a taken branch or a jump leads -/
  target    : Option DWord := none
  /-- the program has ended (R276) -/
  ends  : Bool := false

/-- Why an instruction does not commit: it faults (R309), or waits for a data queue. -/
inductive VStop where
  | illegal
  /-- a bad table image: the slot is no longer valid (R298) -/
  | badTable (slot : Nat)
  | addr (a : Nat)
  | denied (d : Denied)
  | skew
  /-- it waits for a data queue; one whose operands are ready has begun (R310) -/
  | wait (begun : Bool)

/-- The work of an instruction. -/
abbrev VAct := Except VStop VStep

/-- Commit with these registers. -/
def VCtx.done (c : VCtx) (v : Vec) (k : Conds) : VAct := .ok { s := c.s, v := v, x := c.x, conds := k }

/-- R283: the instruction is illegal unless `b`. -/
def need (b : Bool) : Except VStop Unit := if b then .ok () else .error .illegal

/-- R308: conditions as VEC_COND shows them. -/
def Conds.flags (c : Conds) : Nat := b2n (decide (0 < c.inv)) + 2 * b2n (decide (0 < c.ovf)) + 4 * b2n (decide (0 < c.iovf))

/-- R308: what a VRUN delivers of its counts. -/
def VRun.delivery (x : VRun) (tag : Nat) : Delivery :=
  { idx := x.idx, strm := .exe, tag := BitVec.ofNat 16 tag, seq := none, rung := none, isInt := false, scaled := 0, conds := x.conds }

/-- R309: the counts of the committed instructions, on a gang those of the members that have ended too. They reach the span, or
are reported; the VRUN does not complete, so an INVALID does not halt the interface a second time (R173). A member that ends after
the VRUN has failed delivers its own. -/
def State.tellCounts (s : State) (x : VRun) (f : Option Flight) : State :=
  let d := x.delivery x.tag.toNat
  let d := { d with conds := d.conds.plus ((f.map (·.conds)).getD {}) }
  match (s.ifc x.owner).span with
  | some sp => if d.conds.none then s else s.updIfc x.owner fun y => { y with span := some { sp with got := sp.got ++ [d] } }
  | none => s.report x.owner (s.numSrc x.owner) d

/-- R309: the program stops on a fault: the interface halts with the fault's code, and the counts of the committed instructions
are delivered. -/
def State.vecFault (s : State) (r : CoreRef) (x : VRun) (e : VStop) : State :=
  let f := s.flightOf x.owner .exe x.idx
  let a : At := ⟨x.owner, .exe, x.idx, x.tag.toNat⟩
  let pc := x.next.toNat % 2 ^ 32
  let at_ (f : Option Nat) (t : State) : State := t.updVec r fun v =>
    { v with pc := BitVec.ofNat 32 pc, halted := true, run := none,
             faultAddr := (f.map (BitVec.ofNat 64)).getD v.faultAddr }
  let stop (s : State) : State := s.loseFlight x.owner .exe x.idx
  let tell (s : State) : State := s.tellCounts x f
  match e with
  | .wait begun => s.updVec r fun v =>
      { v with run := some { x with qwait := true }, pc := if begun then BitVec.ofNat 32 pc else v.pc }
  | .illegal => tell ((stop (at_ none s)).halt a false Code.vecIllegal (.vec r) [pc])
  | .badTable n =>
    let s := s.updVec r fun v => { v with tbl := v.tbl.set {} n { v.tbl.get {} n with valid := false } }
    tell ((stop (at_ none s)).halt a false Code.vecIllegal (.vec r) [pc])
  | .addr f => tell ((stop (at_ (some f) s)).halt a false Code.vecAddr (.vec r) [pc])
  | .denied d =>
    tell ((stop (at_ (if d.code = Code.windowFault then some d.addr else none) s)).haltDenied a false (.vec r) (s.logNo r) d)
  | .skew => tell ((stop (at_ none s)).halt a false Code.queueSkew (.vec r) [])

/-- A program has ended: the VRUN of a core has finished; a gang's has one part fewer (R60, R276, R279), and one that has failed
on another member has its counts delivered (R309). The next sub-command
that stands in the core's Bobbin may begin (R253). -/
def State.vecEnd (s : State) (r : CoreRef) (x : VRun) : State :=
  let s := s.updVec r fun v => { v with run := none }
  let s := if (s.flightOf x.owner .exe x.idx).isNone then s.tellCounts x none else s.updFlight x.owner .exe x.idx fun f =>
    { f with fin := true, parts := f.parts - b2n x.gang, conds := f.conds.plus x.conds,
             preds := if x.gang then f.preds else x.preds,
             mpreds := if x.gang then f.mpreds.set [] x.place x.preds else f.mpreds }
  s.startSub r

/-- R306, R308: an instruction commits. -/
def vecCommit (r : CoreRef) (y : VStep) : State :=
  let x := { y.x with next := y.target.getD (y.x.next + 1), qwait := false, conds := y.x.conds.plus y.conds }
  let v := { y.v with
    pc := BitVec.ofNat 32 y.x.next.toNat
    cond := y.v.cond ||| BitVec.ofNat 3 y.conds.flags
    run := some x }
  let s := y.s.updVec r fun _ => v
  if y.ends then s.vecEnd r x else s

/-- R276: the next instruction of a core's program is fetched; where it is the row's, it runs. An instruction outside the
windows, or whose word belongs to no row, faults in every row. -/
def State.vecStep (s : State) (r : CoreRef) (row : Instr) (sem : VCtx → VAct) : State :=
  let v := (s.core r).vec
  match v.run with
  | none => s
  | some x =>
    let a := (v.prog.toNat + 4 * x.next.toNat) % 2 ^ 64
    if s.darns (.vector r) then s
    else match s.denied (.core r) false .fetch a 4 with
    | some d => s.vecFault r x (.denied d)
    | none =>
      let w := s.natAt a 4
      match rowOf w r with
      | none => s.vecFault r x .illegal
      | some i =>
        if i ≠ row then s
        else match sem { s := s.touchAll (.core r) [(.fetch, a, 4)], r := r, v := v, x := x, w := w } with
          | .ok y => vecCommit r y
          | .error e => s.vecFault r x e

/-! ### Element functions (R284 to R287) -/

/-- Formats that a function allows. -/
def isF (c : Nat) : Bool := decide (c ≤ 3)
def isI (c : Nat) : Bool := c == 0x0C || c == 0x0D

/-- ln 2 over 2^-320. -/
def ln2Fix : Nat := 1480553391661173448385607439722553250922680800745876974795605978609098082859138712941075737848984

/-- Bits below the binary point in the evaluation of e^x. -/
def expBits : Nat := 320

/-- Σ r^k / k! over 2^-320, from term `t` of number `k`. -/
def expSum (r : Nat) : Nat → Nat → Nat → Nat
  | 0, _, _ => 0
  | f + 1, k, t => t + expSum r f (k + 1) (t * r / 2 ^ expBits / (k + 1))

/-- R285: e^x to 300 bits and more with a sticky bit below them, which is as good as exact before a rounding to at most 53
bits; a value beyond every format's range is brought to the nearest one that is still beyond it. -/
def FVal.exp (x : FVal) : FVal :=
  match x with
  | .nan => .nan
  | .inf n => if n then .fin false 0 0 else .inf false
  | .fin n m e =>
    if m = 0 then .fin false 1 0
    else if 11 < (m.log2 : Int) + e then .fin false 1 (if n then -4000 else 4000)
    else
      let f := if 0 ≤ e + expBits then m <<< (e + expBits).toNat else m >>> (-(e + expBits)).toNat
      let q := f / ln2Fix
      let k : Int := if n then -(q : Int) - 1 else q
      let r := if n then (q + 1) * ln2Fix - f else f - q * ln2Fix
      .fin false (2 * expSum r 90 0 (2 ^ expBits) + 1) (k - expBits - 1)

/-- Several operands, one of which is a NaN. -/
def anyNan (l : List FVal) : Bool := l.any FVal.isNan

/-- A floating-point function's rounded result; a NaN operand gives a NaN and no condition (R286). -/
def fResult (f : Fmt) (ops : List FVal) (x : FVal) (inv : Bool) : Nat × Cnd :=
  if anyNan ops then f.result 0 .nan false else f.result 0 x inv

/-- A binary or unary element function, for floating-point and for integer formats: of the old destination, A and B. -/
structure EFun where
  flt : Fmt → FVal → FVal → FVal → Nat × Cnd
  int : Nat → Int → Int → Int → Int

/-- A function of which the integer side is not allowed. -/
def noInt : Nat → Int → Int → Int → Int := fun _ _ _ _ => 0

def eAdd : EFun := ⟨fun f _ a b => let r := a.add b; fResult f [a, b] r.1 r.2, fun _ _ a b => a + b⟩
def eSub : EFun := ⟨fun f _ a b => let r := a.sub b; fResult f [a, b] r.1 r.2, fun _ _ a b => a - b⟩
def eMul : EFun := ⟨fun f _ a b => let r := a.mul b; fResult f [a, b] r.1 r.2, fun _ _ a b => a * b⟩
def eFma : EFun := ⟨fun f d a b => let p := a.mul b; let r := d.add p.1; fResult f [d, a, b] r.1 (p.2 || r.2), noInt⟩
def eFms : EFun := ⟨fun f d a b => let p := a.mul b; let r := d.sub p.1; fResult f [d, a, b] r.1 (p.2 || r.2), noInt⟩
def eDiv : EFun := ⟨fun f _ a b => let r := a.div b; let x := fResult f [a, b] r.1 r.2.1; (x.1, { x.2 with ovf := x.2.ovf || r.2.2 }), noInt⟩
def eSqrt : EFun := ⟨fun f _ a _ => let r := a.sqrt; fResult f [a] r.1 r.2, noInt⟩
def eMin : EFun := ⟨fun f _ a b => fResult f [a, b] (a.min b) false, fun _ _ a b => if a ≤ b then a else b⟩
def eMax : EFun := ⟨fun f _ a b => fResult f [a, b] (a.max b) false, fun _ _ a b => if a ≤ b then b else a⟩
def eAbs : EFun := ⟨fun f _ a _ => fResult f [a] a.abs false, fun _ _ a _ => a.natAbs⟩
def eNeg : EFun := ⟨fun f _ a _ => fResult f [a] a.neg false, fun _ _ a _ => -a⟩
def eSad : EFun := ⟨fun f d a b => let p := a.sub b; let r := d.add p.1.abs; fResult f [d, a, b] r.1 (p.2 || r.2), fun _ d a b => d + (a - b).natAbs⟩
def eExp : EFun := ⟨fun f _ a _ => fResult f [a] a.exp false, noInt⟩

/-- The bits that an element function gives for an element's bits. -/
def EFun.run (e : EFun) (f : Fmt) (d a b : Nat) : Nat × Cnd :=
  if f.isInt then
    let w := f.width
    (ofSigned w (e.int w (toSigned w d) (toSigned w a) (toSigned w b)), {})
  else e.flt f (f.dec 0 d) (f.dec 0 a) (f.dec 0 b)

/-- The elements of operand B: of a group, or one scalar for every element (R284). -/
def VCtx.bElems (c : VCtx) : List Nat :=
  if wOpc c.w = 0x02 then List.replicate c.v.vlN (fld (c.v.sreg (wB c.w)) 0 c.v.ew) else c.v.elems (wB c.w)

/-- R271: operand B of an element instruction is aligned. -/
def VCtx.bOk (c : VCtx) : Bool := wOpc c.w == 0x02 || groupOk (wB c.w) c.v.grp

/-- Conditions of a list of elements. -/
def condsOf (l : List Cnd) : Conds := l.foldl Conds.note {}

/-- R284, R287: an element instruction. `int` allows the integer formats, and `one` says that it has one operand. -/
def elemOp (e : EFun) (int one : Bool) (c : VCtx) : VAct := do
  let v := c.v
  let g := v.grp
  need ((isF v.fmtCode || (int && isI v.fmtCode)) && groupOk (wD c.w) g && groupOk (wA c.w) g)
  need (if one then wB c.w == 0 else c.bOk)
  if v.vlN = 0 then c.done v {}
  else
    let bs := if one then List.replicate v.vlN 0 else c.bElems
    let rs : List (Option (Nat × Cnd)) := (((v.elems (wD c.w)).zip ((v.elems (wA c.w)).zip bs)).zipIdx).map fun ((d, (a, b)), k) =>
      if v.active (wMk c.w) k then some (e.run v.fmt d a b) else none
    c.done (v.putElems (wD c.w) g v.ew (rs.map fun r => r.map (·.1))) (condsOf (rs.filterMap fun r => r.map (·.2)))

/-- R284: a bitwise or shift instruction on the bits of integer elements. -/
def bitOp (f : Nat → Nat → Nat → Nat) (c : VCtx) : VAct := do
  let v := c.v
  let g := v.grp
  need (isI v.fmtCode && groupOk (wD c.w) g && groupOk (wA c.w) g && c.bOk)
  let rs : List (Option Nat) := ((v.elems (wA c.w)).zip c.bElems).zipIdx.map fun ((a, b), k) =>
    if v.active (wMk c.w) k then some (f v.ew a b % 2 ^ v.ew) else none
  c.done (v.putElems (wD c.w) g v.ew rs) {}

/-- The three outcomes that a comparison asks about: equal, less, and unordered. -/
def cmpElem (f : Fmt) (a b : Nat) : Bool × Bool × Bool :=
  let x := f.dec 0 a
  let y := f.dec 0 b
  (x.eq y, x.lt y, x.isNan || y.isNan)

/-- R284, R286: a comparison into a mask register. -/
def cmpOp (p : Bool → Bool → Bool → Bool) (c : VCtx) : VAct := do
  let v := c.v
  need ((isF v.fmtCode || isI v.fmtCode) && decide (wD c.w < 8) && groupOk (wA c.w) v.grp && c.bOk)
  let old := v.mreg (wD c.w)
  let bits := ((v.elems (wA c.w)).zip c.bElems).zipIdx.map fun ((a, b), k) =>
    let (e, l, n) := cmpElem v.fmt a b
    b2n (if v.active (wMk c.w) k then p e l n else bitOf old k)
  c.done (v.setM (wD c.w) (packElems 1 0 bits)) {}

end Sys2Proof.Machine
end

