-- ==== Sys2Proof/Machine/Vector.lean ====
section
/-! DEFINITION. VRUN and the vector element, reduction, segment, table, conversion, mask and system instructions (R275 to R279,
R284 to R288, R295 to R302, R305 to R308). -/

namespace Sys2Proof.Machine

/-! ### Launching a program (R275 to R279) -/

/-- What a core of a VRUN is launched with: the core, S2, S3, S4 and S5. -/
structure VPart where
  core   : CoreRef
  len    : Nat
  first  : Nat
  member : Nat
  count  : Nat

/-- R278: the parts of a gang's VRUN over `n` elements from `b`, in member order; the parts that run nothing are left
out. -/
def State.vecParts (s : State) (j : Job) : Nat → Nat → Nat → Nat → List VPart
  | 0, _, _, _ => []
  | fuel + 1, g, b, n =>
    match j.gang g with
    | none => []
    | some d =>
      let all := gangSplit d == 3
      let ps := if all then List.replicate (gangCount d) (0, n) else parts n (gangCount d)
      ((gangMembers d).zip ps).zipIdx.flatMap fun ((m, (x, k)), z) =>
        if k = 0 ∧ !all then []
        else match s.member d m with
          | .core r => [{ core := r, len := k, first := b + x, member := z, count := gangCount d }]
          | .gang h => s.vecParts j fuel h (b + x) k
          | .other => []

/-- The parts of a VRUN. -/
def State.vrunParts (s : State) (i : IfaceId) (n : Nat) : List VPart :=
  match i with
  | .core r => [{ core := r, len := n, first := 0, member := 0, count := 1 }]
  | .gang k g => match s.job k with
    | some j => s.vecParts j 257 g.toNat 0 n
    | none => []

/-- R221, R275: what a core of a VRUN is launched with. -/
def VPart.sub (p : VPart) (c : BitVec 256) (x : VRun) : VSub :=
  { run := x, prog := BitVec.ofNat 64 (cmdAddr c), argA := BitVec.ofNat 64 (cmdDst c), len := p.len, first := p.first,
    member := p.member, count := p.count }

/-- R231, R253, R275, R278: a VRUN of a core begins once its vector engine is free; one of a gang begins at once, and its
sub-commands enter the Bobbins of the members that run a part. -/
def State.vrun (s : State) (i : IfaceId) (c : BitVec 256) : State :=
  let idx := (s.ifc i).exe.head
  let ps := s.vrunParts i (cmdWord c 7)
  if !isGang i && ps.any fun p => (s.core p.core).vec.run.isSome then s
  else
    let iter := ((s.jobOf i).map (·.iter)).getD 0
    let s := (s.beginFlight i .exe c).updFlight i .exe idx fun f => { f with fin := ps.isEmpty, parts := if isGang i then ps.length else 0 }
    forEach (fun (p, k) s =>
      let u : VSub := VPart.sub p c { owner := i, idx := idx, gang := isGang i, tag := BitVec.ofNat 16 (cmdTag c), place := k, iter := iter }
      (s.updCore p.core fun x => { x with subs := x.subs ++ [u] }).startSub p.core) ps.zipIdx s

/-- R275: VRUN. -/
def execVrun (i : IfaceId) (s : State) : Out :=
  run (.vrun i) s fun s => s.begin i .exe (isOp 0x30) fun c s => s.vrun i c

/-- The meaning of a vector instruction's row. -/
def vecRun (c : CoreRef) (row : Instr) (s : State) (sem : VCtx → VAct) : Out := run row s fun s => s.vecStep c row sem

/-! ### Element instructions (R284) -/

def execVadd (c : CoreRef) (s : State) : Out := vecRun c (.vadd c) s (elemOp eAdd true false)
def execVsub (c : CoreRef) (s : State) : Out := vecRun c (.vsub c) s (elemOp eSub true false)
def execVmul (c : CoreRef) (s : State) : Out := vecRun c (.vmul c) s (elemOp eMul true false)
def execVfma (c : CoreRef) (s : State) : Out := vecRun c (.vfma c) s (elemOp eFma false false)
def execVfms (c : CoreRef) (s : State) : Out := vecRun c (.vfms c) s (elemOp eFms false false)
def execVdiv (c : CoreRef) (s : State) : Out := vecRun c (.vdiv c) s (elemOp eDiv false false)
def execVsqrt (c : CoreRef) (s : State) : Out := vecRun c (.vsqrt c) s (elemOp eSqrt false true)
def execVmin (c : CoreRef) (s : State) : Out := vecRun c (.vmin c) s (elemOp eMin true false)
def execVmax (c : CoreRef) (s : State) : Out := vecRun c (.vmax c) s (elemOp eMax true false)
def execVabs (c : CoreRef) (s : State) : Out := vecRun c (.vabs c) s (elemOp eAbs true true)
def execVneg (c : CoreRef) (s : State) : Out := vecRun c (.vneg c) s (elemOp eNeg true true)
def execVsad (c : CoreRef) (s : State) : Out := vecRun c (.vsad c) s (elemOp eSad true false)
def execVexp (c : CoreRef) (s : State) : Out := vecRun c (.vexp c) s (elemOp eExp false true)

/-- R284: vmov copies the bits of active elements, in every format. -/
def vmovSem (c : VCtx) : VAct := do
  let v := c.v
  need (groupOk (wD c.w) v.grp && groupOk (wA c.w) v.grp && wB c.w == 0)
  let xs := (v.elems (wA c.w)).zipIdx.map fun (a, k) => if v.active (wMk c.w) k then some a else none
  c.done (v.putElems (wD c.w) v.grp v.ew xs) {}

def execVmov (c : CoreRef) (s : State) : Out := vecRun c (.vmov c) s vmovSem

/-- R284: vmerge picks each element from A or B by the mask, for every element below VL. -/
def vmergeSem (c : VCtx) : VAct := do
  let v := c.v
  need (groupOk (wD c.w) v.grp && groupOk (wA c.w) v.grp && c.bOk && decide (wMk c.w ≠ 0))
  let xs := ((v.elems (wA c.w)).zip c.bElems).zipIdx.map fun ((a, b), k) => some (if bitOf (v.mreg (wMk c.w)) k then a else b)
  c.done (v.putElems (wD c.w) v.grp v.ew xs) {}

def execVmerge (c : CoreRef) (s : State) : Out := vecRun c (.vmerge c) s vmergeSem

def execVcmpeq (c : CoreRef) (s : State) : Out := vecRun c (.vcmpeq c) s (cmpOp fun e _ _ => e)
def execVcmpne (c : CoreRef) (s : State) : Out := vecRun c (.vcmpne c) s (cmpOp fun e _ _ => !e)
def execVcmplt (c : CoreRef) (s : State) : Out := vecRun c (.vcmplt c) s (cmpOp fun _ l _ => l)
def execVcmple (c : CoreRef) (s : State) : Out := vecRun c (.vcmple c) s (cmpOp fun e l _ => e || l)

def execVand (c : CoreRef) (s : State) : Out := vecRun c (.vand c) s (bitOp fun _ a b => a &&& b)
def execVor (c : CoreRef) (s : State) : Out := vecRun c (.vor c) s (bitOp fun _ a b => a ||| b)
def execVxor (c : CoreRef) (s : State) : Out := vecRun c (.vxor c) s (bitOp fun _ a b => a ^^^ b)
def execVshl (c : CoreRef) (s : State) : Out := vecRun c (.vshl c) s (bitOp fun w a b => a <<< (b % w))
def execVshr (c : CoreRef) (s : State) : Out := vecRun c (.vshr c) s (bitOp fun w a b => a >>> (b % w))
/-- Arithmetic shift right of `w` bits. -/
def sraBits (w a n : Nat) : Nat := ofSigned w (toSigned w a / (2 ^ n : Nat))
def execVsra (c : CoreRef) (s : State) : Out := vecRun c (.vsra c) s (bitOp fun w a b => sraBits w a (b % w))

/-- R284: vext takes element Sb of A; an index at or above VL gives 0, and a masked-off element is not processed (R281). -/
def vextSem (c : VCtx) : VAct := do
  let v := c.v
  need (groupOk (wA c.w) v.grp)
  let k := v.sreg (wB c.w)
  if v.vlN = 0 then c.done v {}
  else if v.vlN ≤ k then c.done (v.setS (wD c.w) 0) {}
  else if v.active (wMk c.w) k then c.done (v.setS (wD c.w) (fld (v.group (wA c.w) v.grp) (v.ew * k) v.ew)) {}
  else c.done v {}

def execVext (c : CoreRef) (s : State) : Out := vecRun c (.vext c) s vextSem

/-! ### Reductions and segments (R295, R296) -/

/-- R295: the exact sum of several values, a NaN for a NaN among them, and INVALID for infinities of both signs. -/
def sumNums (l : List FVal) : FVal × Bool :=
  if anyNan l then (.nan, false)
  else if l.contains (.inf false) && l.contains (.inf true) then (.nan, true)
  else (l.foldl (fun a x => (a.add x).1) (.fin (l.all FVal.sign) 0 0), false)

/-- What a reduction is over. -/
inductive RedKind where
  | sum
  | sad
  | max
  | min
  deriving DecidableEq, Repr

/-- R295: a floating-point reduction over Sd's value and the active pairs: the result's bits and conditions. -/
def redFloat (k : RedKind) (f : Fmt) (init : List FVal) (ab : List (FVal × FVal)) : Nat × Cnd :=
  match k with
  | .sum => let r := sumNums (init ++ ab.map (·.1)); f.result 0 r.1 r.2
  | .sad =>
    if anyNan (init ++ ab.map (·.1) ++ ab.map (·.2)) then f.result 0 .nan false
    else
      let ds := ab.map fun (a, b) => a.sub b
      if ds.any (·.2) then f.result 0 .nan true
      else let r := sumNums (init ++ ds.map fun d => d.1.abs); f.result 0 r.1 r.2
  | .max => match init ++ ab.map (·.1) with
    | [] => (0, {})
    | x :: r => f.result 0 (r.foldl FVal.max x) false
  | .min => match init ++ ab.map (·.1) with
    | [] => (0, {})
    | x :: r => f.result 0 (r.foldl FVal.min x) false

/-- R295: an integer reduction. -/
def redInt (k : RedKind) (init : List Int) (ab : List (Int × Int)) : Int :=
  match k with
  | .sum => (init ++ ab.map (·.1)).foldl (· + ·) 0
  | .sad => (init ++ ab.map fun x => (Int.natAbs (x.1 - x.2) : Int)).foldl (· + ·) 0
  | .max => match init ++ ab.map (·.1) with
    | [] => 0
    | x :: r => r.foldl (fun a b => if a ≤ b then b else a) x
  | .min => match init ++ ab.map (·.1) with
    | [] => 0
    | x :: r => r.foldl (fun a b => if a ≤ b then a else b) x

/-- R295: a reduction writes Sd. -/
def redOp (k : RedKind) (c : VCtx) : VAct := do
  let v := c.v
  let two := k == .sad
  need ((isF v.fmtCode || isI v.fmtCode) && groupOk (wA c.w) v.grp && (!two || groupOk (wB c.w) v.grp))
  if v.vlN = 0 then c.done v {}
  else
    let bs := if two then v.elems (wB c.w) else List.replicate v.vlN 0
    let on : List (Nat × Nat) := (((v.elems (wA c.w)).zip bs).zipIdx.filter fun x => v.active (wMk c.w) x.2).map (·.1)
    let f := v.fmt
    let sd := v.sreg (wD c.w)
    if f.isInt then
      let w := f.width
      let x := redInt k [toSigned 64 sd] (on.map fun (a, b) => (toSigned w a, toSigned w b))
      c.done (v.setS (wD c.w) (ofSigned 64 x)) {}
    else
      let r := redFloat k f [f.dec 0 (fld sd 0 v.ew)] (on.map fun (a, b) => (f.dec 0 a, f.dec 0 b))
      c.done (v.setS (wD c.w) r.1) (condsOf [r.2])

def execVredsum (c : CoreRef) (s : State) : Out := vecRun c (.vredsum c) s (redOp .sum)
def execVredmax (c : CoreRef) (s : State) : Out := vecRun c (.vredmax c) s (redOp .max)
def execVredmin (c : CoreRef) (s : State) : Out := vecRun c (.vredmin c) s (redOp .min)
def execVredsad (c : CoreRef) (s : State) : Out := vecRun c (.vredsad c) s (redOp .sad)

/-- R296: cut elements into segments; an element whose flag is set starts one. -/
def segments : List (Nat × Bool) → List (List Nat)
  | [] => []
  | (a, _) :: r => match r, segments r with
    | [], _ => [[a]]
    | (_, st) :: _, segs => if st then [a] :: segs else match segs with
      | h :: t => (a :: h) :: t
      | [] => [[a]]

/-- R296: a segment instruction writes every element with its segment's total, largest or smallest value. -/
def segOp (k : RedKind) (c : VCtx) : VAct := do
  let v := c.v
  need ((isF v.fmtCode || isI v.fmtCode) && groupOk (wD c.w) v.grp && groupOk (wA c.w) v.grp)
  let f := v.fmt
  let mk := wMk c.w
  let es : List (Nat × Bool) := (v.elems (wA c.w)).zipIdx.map fun (a, j) => (a, decide (mk ≠ 0) && bitOf (v.mreg mk) j)
  let init : List FVal := if k = .sum then [FVal.zero] else []
  let rs : List (Nat × Cnd × Nat) := (segments es).map fun sg =>
    if f.isInt then (ofSigned f.width (redInt k [] (sg.map fun a => (toSigned f.width a, 0))), {}, sg.length)
    else let r := redFloat k f init (sg.map fun a => (f.dec 0 a, FVal.zero)); (r.1, r.2, sg.length)
  c.done (v.putElems (wD c.w) v.grp v.ew (rs.flatMap fun r => List.replicate r.2.2 (some r.1))) (condsOf (rs.map fun r => r.2.1))

def execVsegsum (c : CoreRef) (s : State) : Out := vecRun c (.vsegsum c) s (segOp .sum)
def execVsegmax (c : CoreRef) (s : State) : Out := vecRun c (.vsegmax c) s (segOp .max)
def execVsegmin (c : CoreRef) (s : State) : Out := vecRun c (.vsegmin c) s (segOp .min)

/-! ### Tables (R298) -/

/-- R298: vinterp evaluates the table of a slot for each active element. -/
def vinterpSem (c : VCtx) : VAct := do
  let v := c.v
  let t := v.tbl.get {} (fld (wB c.w) 0 2)
  need (v.fmtCode == 1 && groupOk (wD c.w) v.grp && groupOk (wA c.w) v.grp && decide (wB c.w < 4) && t.valid)
  let rs : List (Option (Nat × Conds)) := (v.elems (wA c.w)).zipIdx.map fun (a, k) =>
    if v.active (wMk c.w) k then
      let r := tableEval flt32 t.image (flt32.dec a)
      some (flt32.enc r.1, r.2)
    else none
  c.done (v.putElems (wD c.w) v.grp v.ew (rs.map fun r => r.map (·.1))) ((rs.filterMap fun r => r.map (·.2)).foldl Conds.plus {})

def execVinterp (c : CoreRef) (s : State) : Out := vecRun c (.vinterp c) s vinterpSem

/-! ### Conversions (R299 to R302) -/

/-- CVT_CTL's fields. -/
def Vec.rnd (v : Vec) : Bool := bitOf v.cvtCtl.toNat 32
def Vec.grad (v : Vec) : Bool := bitOf v.cvtCtl.toNat 33
def Vec.supplied (v : Vec) : Bool := bitOf v.cvtCtl.toNat 34

/-- How element `k` of a conversion rounds (R299). -/
def VCtx.rnd (c : VCtx) (k : Nat) : Rnd :=
  let v := c.v
  rndOf v.rnd v.grad (((c.s.jobOf c.x.owner).map Job.seed).getD 0) c.x.iter.toNat (fld v.cvtCtl.toNat 0 32)
    ((v.cvtIdx.toNat + k) % 2 ^ 48)

/-- R299: CVT_IDX advances by VL. -/
def Vec.advance (v : Vec) : Vec := { v with cvtIdx := v.cvtIdx + BitVec.ofNat 48 v.vlN }

/-- Scalar formats that vcvt takes and gives. -/
def isCvtFmt (c : Nat) : Bool := decide (c ≤ 5) || isI c

/-- R300: vcvt. -/
def vcvtSem (c : VCtx) : VAct := do
  let v := c.v
  let code := wFn c.w - 0x40
  let fd := fmtOf code
  let n := if v.grp * fd.width < v.ew then 1 else v.grp * fd.width / v.ew
  need (isCvtFmt v.fmtCode && decide (n ≤ 8) && groupOk (wD c.w) n && groupOk (wA c.w) v.grp
    && !overlapBad (wD c.w) n (wA c.w) v.grp)
  let rs : List (Option (Nat × Cnd)) := (v.elems (wA c.w)).zipIdx.map fun (a, k) =>
    if v.active (wMk c.w) k then some (fd.cvt 0 (c.rnd k) (v.fmt.dec 0 a)) else none
  let k := condsOf (rs.filterMap fun r => r.map (·.2))
  let k := if fd.isInt then { k with ovf := 0, iovf := k.ovf } else k
  c.done (v.putElems (wD c.w) n fd.width (rs.map fun r => r.map (·.1))).advance k

def execVcvt (c : CoreRef) (s : State) : Out := vecRun c (.vcvt c) s vcvtSem

/-- R301: registers of an element array of `w` bits; the decision on legality takes VLMAX for VL (R283). -/
def Vec.arrayRegs (v : Vec) (w : Nat) : Nat := Nat.max 1 (ceilDiv (v.vlmax * w) vlen)

/-- R301: a block of vpack: its active values are converted, with the scale byte supplied under SCALE_MODE 1. The scale
byte, the elements' bits, and OVERFLOW; none for a block without active elements. A last block is padded to 32 elements with
zero bits (R79, R302). -/
def packBlock (f : Fmt) (sup : Option Nat) (l : List (Option (Rnd × FVal))) : Option Nat × List (Option Nat) × Bool :=
  let on := l.filterMap id
  if on.isEmpty then (none, l.map fun _ => none, false)
  else
    let m := mxConvert f sup (on.map (·.1)) (on.map (·.2))
    let rec fill : List (Option (Rnd × FVal)) → List Nat → List (Option Nat)
      | [], _ => []
      | none :: r, es => none :: fill r es
      | some _ :: r, e :: es => some e :: fill r es
      | some _ :: r, [] => none :: fill r []
    (some m.scale, fill l m.elems ++ List.replicate (32 - l.length) (some 0), m.ovf)

/-- R301: vpack. -/
def vpackSem (c : VCtx) : VAct := do
  let v := c.v
  let f := fmtOf (wFn c.w - 0x50)
  let n := v.arrayRegs f.width
  need (isF v.fmtCode && groupOk (wD c.w) n && groupOk (wA c.w) v.grp && !overlapBad (wD c.w) n (wA c.w) v.grp
    && !overlapBad (wB c.w) 1 (wA c.w) v.grp && (!v.supplied || !overlapBad (wD c.w) n (wB c.w) 1))
  let vals : List (Option (Rnd × FVal)) := (v.elems (wA c.w)).zipIdx.map fun (a, k) =>
    if v.active (wMk c.w) k then some (c.rnd k, v.fmt.dec 0 a) else none
  let old := v.group (wB c.w) 1
  let bl : List (Option Nat × List (Option Nat) × Bool) := (chunks 32 vals.length vals).zipIdx.map fun (b, k) =>
    packBlock f (if v.supplied then some (fld old (8 * k) 8) else none) b
  let v := v.putElems (wD c.w) n f.width (bl.flatMap fun b => b.2.1)
  let v := v.putElems (wB c.w) 1 8 (bl.map (·.1))
  c.done v.advance { ovf := (bl.filter fun b => b.2.2).length }

def execVpack (c : CoreRef) (s : State) : Out := vecRun c (.vpack c) s vpackSem

/-- R301: vunpack. -/
def vunpackSem (c : VCtx) : VAct := do
  let v := c.v
  let f := fmtOf (wFn c.w - 0x60)
  let n := v.arrayRegs f.width
  need (isF v.fmtCode && groupOk (wD c.w) v.grp && groupOk (wA c.w) n && !overlapBad (wD c.w) v.grp (wA c.w) n
    && !overlapBad (wD c.w) v.grp (wB c.w) 1)
  let sc := v.group (wB c.w) 1
  let rs : List (Option (Nat × Cnd)) := (elemsOf f.width v.vlN (v.group (wA c.w) n)).zipIdx.map fun (a, k) =>
    if v.active (wMk c.w) k then some (v.fmt.cvt 0 (c.rnd k) (mxVal f (fld sc (8 * (k / 32)) 8) a)) else none
  c.done (v.putElems (wD c.w) v.grp v.ew (rs.map fun r => r.map (·.1))).advance (condsOf (rs.filterMap fun r => r.map (·.2)))

def execVunpack (c : CoreRef) (s : State) : Out := vecRun c (.vunpack c) s vunpackSem

/-! ### Masks (R297) -/

/-- R297: a field that names a mask register. -/
def maskOk (n : Nat) : Bool := decide (n < 8)

/-- R297: a mask function of two mask registers. -/
def maskOp (f : Nat → Nat → Nat) (c : VCtx) : VAct := do
  need (wMk c.w == 0 && maskOk (wD c.w) && maskOk (wA c.w) && maskOk (wB c.w))
  let v := c.v
  let k := v.vlN
  c.done (v.setM (wD c.w) (f (v.mreg (wA c.w) % 2 ^ k) (v.mreg (wB c.w) % 2 ^ k))) {}

def execMand (c : CoreRef) (s : State) : Out := vecRun c (.mand c) s (maskOp fun a b => a &&& b)
def execMor (c : CoreRef) (s : State) : Out := vecRun c (.mor c) s (maskOp fun a b => a ||| b)
def execMxor (c : CoreRef) (s : State) : Out := vecRun c (.mxor c) s (maskOp fun a b => a ^^^ b)
def execMandn (c : CoreRef) (s : State) : Out := vecRun c (.mandn c) s (maskOp fun a b => a - (a &&& b))

/-- R297: mnot. -/
def mnotSem (c : VCtx) : VAct := do
  need (wMk c.w == 0 && maskOk (wD c.w) && maskOk (wA c.w) && wB c.w == 0)
  let v := c.v
  c.done (v.setM (wD c.w) (2 ^ v.vlN - 1 - v.mreg (wA c.w) % 2 ^ v.vlN)) {}

def execMnot (c : CoreRef) (s : State) : Out := vecRun c (.mnot c) s mnotSem

/-- R297: a function of the set bits below VL, written to Sd. -/
def mcountSem (f : Nat → List Nat → Nat) (c : VCtx) : VAct := do
  need (wMk c.w == 0 && maskOk (wA c.w) && maskOk (wB c.w))
  let v := c.v
  c.done (v.setS (wD c.w) (f v.vlN ((upto v.vlN).filter (bitOf (v.mreg (wA c.w)))))) {}

def execMpop (c : CoreRef) (s : State) : Out := vecRun c (.mpop c) s (mcountSem fun _ l => l.length)
def execMfirst (c : CoreRef) (s : State) : Out := vecRun c (.mfirst c) s (mcountSem fun n l => l.headD n)

/-- R297: mset. -/
def msetSem (c : VCtx) : VAct := do
  need (wMk c.w == 0 && maskOk (wD c.w) && wA c.w == 0 && wB c.w == 0)
  c.done (c.v.setM (wD c.w) (2 ^ c.v.vlN - 1)) {}

def execMset (c : CoreRef) (s : State) : Out := vecRun c (.mset c) s msetSem

/-! ### System instructions (R272, R299, R305) -/

/-- R272: setvl. A reserved format code is a reserved field. -/
def setvlSem (c : VCtx) : VAct := do
  need (decide (wB c.w < 16) && !bitOf c.w 24)
  let v := { c.v with vtype := BitVec.ofNat 7 (wB c.w + fld c.w 22 2 * 2 ^ 5) }
  let n := Nat.min (v.sreg (wA c.w)) v.vlmax
  c.done ({ v with vl := BitVec.ofNat 13 n }.setS (wD c.w) n) {}

def execSetvl (c : CoreRef) (s : State) : Out := vecRun c (.setvl c) s setvlSem

/-- R299: cvtset. -/
def cvtsetSem (c : VCtx) : VAct := do
  let x := c.v.sreg (wA c.w)
  need (wD c.w == 0 && wMk c.w == 0 && zeroBits x 35 29)
  c.done { c.v with cvtCtl := BitVec.ofNat 64 x, cvtIdx := BitVec.ofNat 48 (c.v.sreg (wB c.w)) } {}

def execCvtset (c : CoreRef) (s : State) : Out := vecRun c (.cvtset c) s cvtsetSem

/-- R305: psetp. P has sixteen flags. -/
def psetpSem (c : VCtx) : VAct := do
  need (decide (wD c.w < 16))
  .ok { s := c.s, v := c.v, x := { c.x with preds := c.x.preds ++ [(wD c.w, decide (c.v.sreg (wA c.w) ≠ 0))] } }

def execPsetp (c : CoreRef) (s : State) : Out := vecRun c (.psetp c) s psetpSem

/-- R305: vcond reads VEC_COND and clears it. -/
def vcondSem (c : VCtx) : VAct := c.done { (c.v.setS (wD c.w) c.v.cond.toNat) with cond := 0 } {}

def execVcond (c : CoreRef) (s : State) : Out := vecRun c (.vcond c) s vcondSem

/-- R305: vlen. -/
def vlenSem (c : VCtx) : VAct := c.done (c.v.setS (wD c.w) vlen) {}

def execVlen (c : CoreRef) (s : State) : Out := vecRun c (.vlen c) s vlenSem

end Sys2Proof.Machine
end

