-- ==== Sys2Proof/Machine/VecMem.lean ====
section
/-! DEFINITION. The vector engine's memory, queue, table, branch and scalar instructions, the end of a program, and the
restart of an instruction (R276, R280, R282, R289 to R294, R298, R303 to R307). -/

namespace Sys2Proof.Machine

/-! ### Memory (R289 to R293) -/

/-- R291, R293: one access of a vector program: its address must be a plain device address aligned to `al`, and pass the
checks. -/
def VCtx.check (c : VCtx) (k : Acc) (al a n : Nat) : Except VStop Unit :=
  if !plainDev a || decide (a % al ≠ 0) then .error (.addr a)
  else match c.s.denied (.core c.r) false k a n with
    | some d => .error (.denied d)
    | none => .ok ()

/-- Check the accesses of the active elements in ascending order. -/
def VCtx.checkAll (c : VCtx) (k : Acc) (al n : Nat) : List Nat → Except VStop Unit
  | [] => .ok ()
  | a :: r => do
    c.check k al a n
    c.checkAll k al n r

/-- Device addresses wrap in 64 bits. -/
def wrap64 (i : Int) : Nat := ofSigned 64 i

/-- R290: registers of a run of VLMAX unsigned 32-bit offsets. -/
def Vec.runRegs (v : Vec) : Nat := ceilDiv (v.vlmax * 32) vlen

/-- Element bytes of whole-byte formats. -/
def Vec.bytes (v : Vec) : Nat := v.ew / 8

/-- A format of 4 or 6 bits (R291). -/
def Vec.packed (v : Vec) : Bool := decide (v.ew < 8)

/-- R290: the stride of a vld or vst. -/
def VCtx.stride (c : VCtx) : Int := if wB c.w = 0 then c.v.bytes else toSigned 64 (c.v.sreg (wB c.w))

/-- R290: the addresses of elements 0 to VL - 1: strided from the base, or by offsets. -/
def VCtx.strided (c : VCtx) : List Nat := (upto c.v.vlN).map fun (k : Nat) => wrap64 (c.v.sreg (wA c.w) + k * c.stride)
def VCtx.indexed (c : VCtx) : List Nat :=
  (elemsOf 32 c.v.vlN (c.v.group (wB c.w) c.v.runRegs)).map fun (o : Nat) => (c.v.sreg (wA c.w) + o) % 2 ^ 64

/-- The addresses of the active elements, with their numbers. -/
def VCtx.activeOf (c : VCtx) (as : List Nat) : List (Nat × Nat) := as.zipIdx.filter fun x => c.v.active (wMk c.w) x.2

/-- The reads or writes of a vector access pass the home lookups. -/
def VCtx.touched (c : VCtx) (s : State) (k : Acc) (n : Nat) (as : List (Nat × Nat)) : State :=
  s.touchAll (.core c.r) (as.map fun a => (k, a.1, n))

/-- Load elements of whole bytes from the addresses given. -/
def VCtx.loadFrom (c : VCtx) (as : List Nat) : VAct := do
  let v := c.v
  let n := v.bytes
  let on := c.activeOf as
  c.checkAll .read n n (on.map (·.1))
  let xs := as.zipIdx.map fun (a, k) => if v.active (wMk c.w) k then some (c.s.natAt a n) else none
  .ok { s := c.touched c.s .read n on, v := v.putElems (wD c.w) v.grp v.ew xs, x := c.x }

/-- Store elements of whole bytes to the addresses given, in ascending order: every address is checked first (R292). -/
def VCtx.storeTo (c : VCtx) (as : List Nat) : VAct := do
  let v := c.v
  let n := v.bytes
  let on := c.activeOf as
  c.checkAll .write n n (on.map (·.1))
  let es := v.elems (wD c.w)
  let s := forEach (fun (x : Nat × Nat) (s : State) => s.put x.1 (leBytes n (nth es x.2 0))) on c.s
  .ok { s := c.touched s .write n on, v := v, x := c.x }

/-- R291: the bytes of a packed array that hold element `k`. -/
def packedBytes (ew k : Nat) : List Nat := rangeFrom (ew * k / 8) ((ew * k + ew - 1) / 8 - ew * k / 8 + 1)

/-- The bytes of a packed array that hold active elements, ascending. -/
def VCtx.packedOn (c : VCtx) : List Nat :=
  (upto (ceilDiv (c.v.vlN * c.v.ew) 8)).filter fun b =>
    (upto c.v.vlN).any fun k => c.v.active (wMk c.w) k && (packedBytes c.v.ew k).contains b

/-- R291: a contiguous load or store of elements of 4 or 6 bits. The bits of masked-off elements that share a stored byte
stay, and the unused bits of the last byte are written zero. -/
def VCtx.packedAccess (c : VCtx) (store : Bool) : VAct := do
  let v := c.v
  let base := v.sreg (wA c.w)
  if wB c.w ≠ 0 then throw (.addr base)
  let on := c.packedOn
  let addrs := on.map fun b => ((base + b) % 2 ^ 64)
  let k : Acc := if store then .write else .read
  c.checkAll k 1 1 addrs
  let total := ceilDiv (v.vlN * v.ew) 8
  let old := leNat ((upto total).map fun b => if on.contains b then c.s.byteAt (((base + b) % 2 ^ 64)) else 0)
  let regs := v.elems (wD c.w)
  if store then
    let new := packElems v.ew 0 (regs.zipIdx.map fun (x, j) => if v.active (wMk c.w) j then x else fld old (v.ew * j) v.ew)
    let bs := leBytes total new
    let s := forEach (fun b (s : State) => s.put (((base + b) % 2 ^ 64)) [nth bs b 0]) on c.s
    .ok { s := s.touchAll (.core c.r) (addrs.map fun a => (k, a, 1)), v := v, x := c.x }
  else
    let xs := (elemsOf v.ew v.vlN old).zipIdx.map fun (x, j) => if v.active (wMk c.w) j then some x else none
    .ok { s := c.s.touchAll (.core c.r) (addrs.map fun a => (k, a, 1)), v := v.putElems (wD c.w) v.grp v.ew xs, x := c.x }

/-- R289: vld. -/
def vldSem (c : VCtx) : VAct := do
  need (groupOk (wD c.w) c.v.grp)
  if c.v.vlN = 0 then c.done c.v {}
  else if c.v.packed then c.packedAccess false else c.loadFrom c.strided

/-- R289, R292: vst. -/
def vstSem (c : VCtx) : VAct := do
  need (groupOk (wD c.w) c.v.grp)
  if c.v.vlN = 0 then c.done c.v {}
  else if c.v.packed then c.packedAccess true else c.storeTo c.strided

/-- R290: the run of offsets of an indexed access is legal. -/
def Vec.runOk (v : Vec) (w : Nat) : Bool := decide (v.runRegs ≤ 8) && groupOk (wB w) v.runRegs

/-- R289: vldx. -/
def vldxSem (c : VCtx) : VAct := do
  need (groupOk (wD c.w) c.v.grp && c.v.runOk c.w && !overlapBad (wD c.w) c.v.grp (wB c.w) c.v.runRegs)
  if c.v.vlN = 0 then c.done c.v {}
  else if c.v.packed then .error (.addr (c.v.sreg (wA c.w)))
  else c.loadFrom c.indexed

/-- R289, R292: vstx. -/
def vstxSem (c : VCtx) : VAct := do
  need (groupOk (wD c.w) c.v.grp && c.v.runOk c.w)
  if c.v.vlN = 0 then c.done c.v {}
  else if c.v.packed then .error (.addr (c.v.sreg (wA c.w)))
  else c.storeTo c.indexed

def execVld (c : CoreRef) (s : State) : Out := vecRun c (.vld c) s vldSem
def execVst (c : CoreRef) (s : State) : Out := vecRun c (.vst c) s vstSem
def execVldx (c : CoreRef) (s : State) : Out := vecRun c (.vldx c) s vldxSem
def execVstx (c : CoreRef) (s : State) : Out := vecRun c (.vstx c) s vstxSem

/-- R280: the address of a scalar load or store, and its width in bytes. -/
def VCtx.sAddr (c : VCtx) : Nat := wrap64 (c.v.sreg (wA c.w) + wImm12 c.w)
def VCtx.sBytes (c : VCtx) : Nat := 2 ^ wFn3 c.w

/-- R280: a scalar load zero-extends. -/
def sldSem (c : VCtx) : VAct := do
  c.check .read c.sBytes c.sAddr c.sBytes
  .ok { s := c.s.touchAll (.core c.r) [(.read, c.sAddr, c.sBytes)], v := c.v.setS (wD c.w) (c.s.natAt c.sAddr c.sBytes), x := c.x }

/-- R280: a scalar store. -/
def sstSem (c : VCtx) : VAct := do
  c.check .write c.sBytes c.sAddr c.sBytes
  let s := c.s.put c.sAddr (leBytes c.sBytes (c.v.sreg (wD c.w)))
  .ok { s := s.touchAll (.core c.r) [(.write, c.sAddr, c.sBytes)], v := c.v, x := c.x }

def execSld (c : CoreRef) (s : State) : Out := vecRun c (.sld c) s sldSem
def execSst (c : CoreRef) (s : State) : Out := vecRun c (.sst c) s sstSem

/-! ### Data queues (R294) -/

/-- Bytes that a vqpop or vqpush moves. -/
def Vec.queueBytes (v : Vec) : Nat := ceilDiv (v.vlN * v.ew) 8

/-- Take `n` bytes of a queue from `off` in its head entry: the bytes, the entries that are consumed whole, the offset in
the entry that is then at the head, and whether the last byte lies in the last entry of a group. -/
def popBytes (l : List QEnt) (off n : Nat) : List Byte × Nat × Nat × Bool :=
  let all := l.flatMap (·.data)
  let e := off + n
  ((all.drop off).take n, e / 512, e % 512, (l[(e - 1) / 512]?.map (·.last)).getD true)

/-- R294: vqpop waits until the queue holds the bytes it takes. -/
def vqpopSem (c : VCtx) : VAct := do
  let v := c.v
  let q := wA c.w
  need (groupOk (wD c.w) v.grp && decide (q < 2) && !c.x.gang)
  let n := v.queueBytes
  if n = 0 then c.done v {}
  else
    let off := if q = 0 then c.x.off0 else c.x.off1
    let l := ((c.s.core c.r).dq.get [] q).take 64
    if 512 * l.length < off + n then throw (.wait false)
    let (bs, whole, off, last) := popBytes l off n
    let (_, s) := c.s.qpop c.r q whole
    let x := if q = 0 then { c.x with off0 := off, pop0 := some last } else { c.x with off1 := off, pop1 := some last }
    let xs := (elemsOf v.ew v.vlN (leNat bs)).zipIdx.map fun (e, k) => if v.active (wMk c.w) k then some e else none
    .ok { s := s, v := v.putElems (wD c.w) v.grp v.ew xs, x := x }

/-- The bits that stand in a vqpush for masked-off elements: the spec gives them no value, so each is a fresh free value
(log 6). -/
def pushElems (v : Vec) (mk : Nat) : List (Nat × Nat) → State → List Nat × State
  | [], s => ([], s)
  | (e, k) :: r, s =>
    if v.active mk k then let (l, s) := pushElems v mk r s; (e :: l, s)
    else
      let (f, s) := s.fresh
      let (l, s) := pushElems v mk r s
      (fld f.toNat 0 v.ew :: l, s)

/-- R294: the entries that stand filled, and the bytes that do not yet fill one. An entry enters its queue as one that does not
end its group; where nothing follows it, `vend` marks it as the last (log 44). -/
def fillEntries (bs : List Byte) : List QEnt × List Byte :=
  let n := bs.length / 512
  ((chunks 512 n (bs.take (512 * n))).map fun d => { data := d, last := false }, bs.drop (512 * n))

/-- R294: vqpush waits while the queue has no room for the entries that it fills. -/
def vqpushSem (c : VCtx) : VAct := do
  let v := c.v
  let q := wA c.w
  need (groupOk (wD c.w) v.grp && (q == 2 || q == 3) && !c.x.gang)
  if v.queueBytes = 0 then c.done v {}
  else
    let (es, s) := pushElems v (wMk c.w) (v.elems (wD c.w)).zipIdx c.s
    let bs := (if q = 2 then c.x.push2 else c.x.push3) ++ leBytes v.queueBytes (packElems v.ew 0 es)
    let (full, rest) := fillEntries bs
    if 64 < ((c.s.core c.r).dq.get [] q).length + full.length then throw (.wait true)
    let x := if q = 2 then { c.x with push2 := rest, any2 := true } else { c.x with push3 := rest, any3 := true }
    let s := ((s.qpush c.r q full).updVec c.r fun v => { v with run := some x }).drain c.r q
    .ok { s := s, v := v, x := x }

def execVqpop (c : CoreRef) (s : State) : Out := vecRun c (.vqpop c) s vqpopSem
def execVqpush (c : CoreRef) (s : State) : Out := vecRun c (.vqpush c) s vqpushSem

/-! ### Tables (R298) -/

/-- R298: vtbl loads a table slot; an image whose header breaks R132 leaves the slot not valid. -/
def vtblSem (c : VCtx) : VAct := do
  need (decide (wD c.w < 4))
  let a := c.v.sreg (wA c.w)
  c.check .read 1 a 4128
  let ws := leWords (c.s.bytesAt a 4128)
  if !tableGood ws then throw (.badTable (wD c.w))
  .ok { s := c.s.touchAll (.core c.r) [(.read, a, 4128)], x := c.x
        v := { c.v with tbl := c.v.tbl.set {} (wD c.w) { valid := true, deriv := false, image := ws } } }

def execVtbl (c : CoreRef) (s : State) : Out := vecRun c (.vtbl c) s vtblSem

/-! ### Branches and jumps (R282) -/

/-- The index that lies `o` instructions from the present one. -/
def VCtx.rel (c : VCtx) (o : Int) : DWord := c.x.next + BitVec.ofNat 64 (ofSigned 64 o)

/-- R282: a branch. -/
def branchOp (p : Nat → Nat → Bool) (c : VCtx) : VAct :=
  .ok { s := c.s, v := c.v, x := c.x
        target := if p (c.v.sreg (wBrA c.w)) (c.v.sreg (wBrB c.w)) then some (c.rel (wImm12 c.w)) else none }

def execBeq (c : CoreRef) (s : State) : Out := vecRun c (.beq c) s (branchOp fun a b => a == b)
def execBne (c : CoreRef) (s : State) : Out := vecRun c (.bne c) s (branchOp fun a b => a != b)
def execBlt (c : CoreRef) (s : State) : Out := vecRun c (.blt c) s (branchOp fun a b => decide (toSigned 64 a < toSigned 64 b))
def execBge (c : CoreRef) (s : State) : Out := vecRun c (.bge c) s (branchOp fun a b => decide (toSigned 64 b ≤ toSigned 64 a))
def execBltu (c : CoreRef) (s : State) : Out := vecRun c (.bltu c) s (branchOp fun a b => decide (a < b))
def execBgeu (c : CoreRef) (s : State) : Out := vecRun c (.bgeu c) s (branchOp fun a b => decide (b ≤ a))

/-- R282: a jump writes the index of the next instruction to Sd. -/
def VCtx.jumpTo (c : VCtx) (t : DWord) : VAct :=
  .ok { s := c.s, v := c.v.setS (wD c.w) (c.x.next + 1).toNat, x := c.x, target := some t }

/-- R282: jump. -/
def jumpSem (c : VCtx) : VAct := c.jumpTo (c.rel (wImm20 c.w))

/-- R303: jump to instruction Sa. -/
def jumpRegSem (c : VCtx) : VAct := do
  need (wMk c.w == 0)
  c.jumpTo (BitVec.ofNat 64 (c.v.sreg (wA c.w)))

def execJump (c : CoreRef) (s : State) : Out := vecRun c (.jump c) s jumpSem
def execJumpRegister (c : CoreRef) (s : State) : Out := vecRun c (.jumpRegister c) s jumpRegSem

/-! ### Scalar instructions (R303, R304) -/

/-- R303: an SR function of Sa and Sb, with its conditions. -/
def scalarOp (f : Nat → Nat → Nat × Cnd) (c : VCtx) : VAct := do
  need (wMk c.w == 0)
  let r := f (c.v.sreg (wA c.w)) (c.v.sreg (wB c.w))
  c.done (c.v.setS (wD c.w) r.1) (condsOf [r.2])

/-- An SR function on the bits, modulo 2^64. -/
def intOp (f : Nat → Nat → Nat) : VCtx → VAct := scalarOp fun a b => (f a b % 2 ^ 64, {})

/-- An SR function in FP64. -/
def fltOp (e : EFun) : VCtx → VAct := scalarOp fun a b => e.run .fp64 0 a b

/-- A comparison in FP64. -/
def fltCmp (p : FVal → FVal → Bool) : VCtx → VAct := scalarOp fun a b => (b2n (p (flt64.dec a) (flt64.dec b)), {})

def execAdd (c : CoreRef) (s : State) : Out := vecRun c (.add c) s (intOp fun a b => a + b)
def execSub (c : CoreRef) (s : State) : Out := vecRun c (.sub c) s (intOp fun a b => a + (2 ^ 64 - b))
def execMul (c : CoreRef) (s : State) : Out := vecRun c (.mul c) s (intOp fun a b => a * b)
def execAndS (c : CoreRef) (s : State) : Out := vecRun c (.andS c) s (intOp fun a b => a &&& b)
def execOrS (c : CoreRef) (s : State) : Out := vecRun c (.orS c) s (intOp fun a b => a ||| b)
def execXor (c : CoreRef) (s : State) : Out := vecRun c (.xor c) s (intOp fun a b => a ^^^ b)
def execShl (c : CoreRef) (s : State) : Out := vecRun c (.shl c) s (intOp fun a b => a <<< (b % 64))
def execShr (c : CoreRef) (s : State) : Out := vecRun c (.shr c) s (intOp fun a b => a >>> (b % 64))
def execSra (c : CoreRef) (s : State) : Out := vecRun c (.sra c) s (intOp fun a b => sraBits 64 a (b % 64))
def execSlt (c : CoreRef) (s : State) : Out :=
  vecRun c (.slt c) s (intOp fun a b => b2n (decide (toSigned 64 a < toSigned 64 b)))
def execSltu (c : CoreRef) (s : State) : Out := vecRun c (.sltu c) s (intOp fun a b => b2n (decide (a < b)))

def execFadd (c : CoreRef) (s : State) : Out := vecRun c (.fadd c) s (fltOp eAdd)
def execFsub (c : CoreRef) (s : State) : Out := vecRun c (.fsub c) s (fltOp eSub)
def execFmul (c : CoreRef) (s : State) : Out := vecRun c (.fmul c) s (fltOp eMul)
def execFdiv (c : CoreRef) (s : State) : Out := vecRun c (.fdiv c) s (fltOp eDiv)
def execFmin (c : CoreRef) (s : State) : Out := vecRun c (.fmin c) s (fltOp eMin)
def execFmax (c : CoreRef) (s : State) : Out := vecRun c (.fmax c) s (fltOp eMax)
def execFlt (c : CoreRef) (s : State) : Out := vecRun c (.flt c) s (fltCmp FVal.lt)
def execFle (c : CoreRef) (s : State) : Out := vecRun c (.fle c) s (fltCmp FVal.le)
def execFeq (c : CoreRef) (s : State) : Out := vecRun c (.feq c) s (fltCmp FVal.eq)
def execFsqrt (c : CoreRef) (s : State) : Out := vecRun c (.fsqrt c) s (fltOp eSqrt)

def execCvtIntToFp64 (c : CoreRef) (s : State) : Out :=
  vecRun c (.cvtIntToFp64 c) s (scalarOp fun a _ => Fmt.fp64.cvt 0 .rne (FVal.ofInt (toSigned 64 a)))
def execCvtFp64ToInt (c : CoreRef) (s : State) : Out :=
  vecRun c (.cvtFp64ToInt c) s (scalarOp fun a _ => cvtInt 64 .rne (flt64.dec a))
def execCvtFp32ToFp64 (c : CoreRef) (s : State) : Out :=
  vecRun c (.cvtFp32ToFp64 c) s (scalarOp fun a _ => Fmt.fp64.cvt 0 .rne (flt32.dec (fld a 0 32)))
def execCvtFp64ToFp32 (c : CoreRef) (s : State) : Out :=
  vecRun c (.cvtFp64ToFp32 c) s (scalarOp fun a _ => Fmt.fp32.cvt 0 .rne (flt64.dec a))

/-- R304: an SI function of Sa and the sign-extended immediate. -/
def immOp (f : Nat → Nat → Nat) (c : VCtx) : VAct :=
  c.done (c.v.setS (wD c.w) (f (c.v.sreg (wA c.w)) (ofSigned 64 (wImm12 c.w)) % 2 ^ 64)) {}

/-- R304: an SI shift by IMM12[5:0]; IMM12[11:6] must be 0. -/
def immShift (f : Nat → Nat → Nat) (c : VCtx) : VAct := do
  need (fld c.w 26 6 == 0)
  c.done (c.v.setS (wD c.w) (f (c.v.sreg (wA c.w)) (fld c.w 20 6) % 2 ^ 64)) {}

def execAddi (c : CoreRef) (s : State) : Out := vecRun c (.addi c) s (immOp fun a b => a + b)
def execAndi (c : CoreRef) (s : State) : Out := vecRun c (.andi c) s (immOp fun a b => a &&& b)
def execOri (c : CoreRef) (s : State) : Out := vecRun c (.ori c) s (immOp fun a b => a ||| b)
def execXori (c : CoreRef) (s : State) : Out := vecRun c (.xori c) s (immOp fun a b => a ^^^ b)
def execSlli (c : CoreRef) (s : State) : Out := vecRun c (.slli c) s (immShift fun a b => a <<< b)
def execSrli (c : CoreRef) (s : State) : Out := vecRun c (.srli c) s (immShift fun a b => a >>> b)
def execSrai (c : CoreRef) (s : State) : Out := vecRun c (.srai c) s (immShift fun a b => sraBits 64 a b)
def execSlti (c : CoreRef) (s : State) : Out :=
  vecRun c (.slti c) s (immOp fun a b => b2n (decide (toSigned 64 a < toSigned 64 b)))

/-- R280: SU. -/
def upperSem (c : VCtx) : VAct := c.done (c.v.setS (wD c.w) (ofSigned 64 (wImm20 c.w * 2 ^ 12))) {}

def execScalarUpper (c : CoreRef) (s : State) : Out := vecRun c (.scalarUpper c) s upperSem

/-! ### The end of a program, and restart (R276, R294, R307) -/

/-- The newest entry of a queue ends its group. -/
def endGroup (l : List QEnt) : List QEnt := match l.reverse with
  | [] => []
  | e :: r => r.reverse ++ [{ e with last := true }]

/-- R294: what remains in a push buffer, padded, enters its queue as the last entry of the group; where the bytes fill whole
entries, the newest of them is the last. -/
def State.pushRest (s : State) (r : CoreRef) (q : Nat) (any : Bool) (bs : List Byte) : State :=
  if !any then s
  else if bs.isEmpty then (s.updCore r fun k => { k with dq := k.dq.upd [] q endGroup }).drain r q
  else (s.qpush r q [{ data := bs ++ List.replicate (512 - bs.length) 0, last := true }]).drain r q

/-- R276, R294: vend. It waits while a queue has no room for the last entry of a group. -/
def vendSem (c : VCtx) : VAct := do
  need (zeroBits c.w 7 18)
  let x := c.x
  if x.pop0 = some false ∨ x.pop1 = some false then throw .skew
  let room (q : Nat) : Bool := decide (((c.s.core c.r).dq.get [] q).length < 64)
  if (!x.push2.isEmpty && !room 2) || (!x.push3.isEmpty && !room 3) then throw (.wait true)
  let drop (q off : Nat) (s : State) : State := if off = 0 then s else (s.qpop c.r q 1).2
  let s := drop 1 x.off1 (drop 0 x.off0 c.s)
  let s := (s.pushRest c.r 2 x.any2 x.push2).pushRest c.r 3 x.any3 x.push3
  .ok { s := s, v := c.v, x := x, ends := true }

def execVend (c : CoreRef) (s : State) : Out := vecRun c (.vend c) s vendSem

/-- R306, R307: the instruction that runs restarts from its beginning. It has committed nothing, so no register, memory byte
or queue entry changes; VEC_PC names it as the instruction last begun (R311). -/
def execVecInstructionRestart (c : CoreRef) (s : State) : Out :=
  run (.vecInstructionRestart c) s fun s => match (s.core c).vec.run with
    | some x => s.updVec c fun v => { v with pc := BitVec.ofNat 32 x.next.toNat }
    | none => s

end Sys2Proof.Machine
end

