-- ==== Sys2Proof/Machine/IronOps.lean ====
section
/-! DEFINITION. Iron's arithmetic: the solve descriptor, matrices, Q vectors, exact sums, factors, preconditioners and the three
methods with their ending tests (R212, R315 to R333, R337 to R340). -/

namespace Sys2Proof.Machine

/-! ### The solve descriptor (R340) -/

/-- A solve descriptor, as one number. -/
abbrev SDesc := BitVec 2048

def SDesc.word (d : SDesc) (k : Nat) : Nat := wordAt d.toNat k
def SDesc.addr (d : SDesc) (k : Nat) : Nat := dwordAt d.toNat k
def SDesc.method (d : SDesc) : Nat := fld (SDesc.word d 0) 0 2
def SDesc.precond (d : SDesc) : Nat := fld (SDesc.word d 0) 2 2
def SDesc.q64 (d : SDesc) : Bool := bitOf (SDesc.word d 0) 4
def SDesc.bcsr (d : SDesc) : Bool := bitOf (SDesc.word d 0) 5
def SDesc.gmresM (d : SDesc) : Nat := fld (SDesc.word d 0) 6 6
def SDesc.warm (d : SDesc) : Nat := fld (SDesc.word d 0) 12 2
def SDesc.crit (d : SDesc) : Nat := fld (SDesc.word d 0) 14 2
def SDesc.haltOnErr (d : SDesc) : Bool := bitOf (SDesc.word d 0) 16
def SDesc.reuse (d : SDesc) : Bool := bitOf (SDesc.word d 0) 17
def SDesc.rnd (d : SDesc) : Bool := bitOf (SDesc.word d 0) 18
def SDesc.grad (d : SDesc) : Bool := bitOf (SDesc.word d 0) 19
def SDesc.adjMode (d : SDesc) : Nat := fld (SDesc.word d 0) 20 2
def SDesc.predOk (d : SDesc) : Nat := fld (SDesc.word d 0) 24 4
def SDesc.predConv (d : SDesc) : Nat := fld (SDesc.word d 0) 28 4
def SDesc.n (d : SDesc) : Nat := SDesc.word d 1
def SDesc.maxIter (d : SDesc) : Nat := SDesc.word d 2
def SDesc.stagWin (d : SDesc) : Nat := fld (SDesc.word d 3) 0 16
def SDesc.tolAbs (d : SDesc) : FVal := flt64.dec (SDesc.addr d 4)
def SDesc.tolRel (d : SDesc) : FVal := flt64.dec (SDesc.addr d 6)
def SDesc.stagFactor (d : SDesc) : FVal := flt64.dec (SDesc.addr d 8)
def SDesc.pivotFloor (d : SDesc) : FVal := flt64.dec (SDesc.addr d 10)
/-- The tags, by byte number in words 12 and 13: A, B, X, F, R, P, Q, Z. -/
def SDesc.tag (d : SDesc) (k : Nat) : Int := toSigned 8 (fld (SDesc.addr d 12) (8 * k) 8)
def SDesc.tagA (d : SDesc) : Int := SDesc.tag d 0
def SDesc.tagB (d : SDesc) : Int := SDesc.tag d 1
def SDesc.tagX (d : SDesc) : Int := SDesc.tag d 2
def SDesc.tagF (d : SDesc) : Int := SDesc.tag d 3
def SDesc.tagR (d : SDesc) : Int := SDesc.tag d 4
def SDesc.tagP (d : SDesc) : Int := SDesc.tag d 5
def SDesc.tagQ (d : SDesc) : Int := SDesc.tag d 6
def SDesc.tagZ (d : SDesc) : Int := SDesc.tag d 7
def SDesc.bFmt (d : SDesc) : Nat := fld (SDesc.word d 14) 0 5
def SDesc.xFmt (d : SDesc) : Nat := fld (SDesc.word d 14) 8 5
def SDesc.xfFmt (d : SDesc) : Nat := fld (SDesc.word d 14) 16 5
def SDesc.pgFmt (d : SDesc) : Nat := fld (SDesc.word d 14) 24 5
def SDesc.xTid (d : SDesc) : Nat := SDesc.word d 15
def SDesc.tid (d : SDesc) : Nat := SDesc.word d 16
def SDesc.rowPtr (d : SDesc) : Nat := SDesc.addr d 18
def SDesc.colIdx (d : SDesc) : Nat := SDesc.addr d 20
def SDesc.val (d : SDesc) : Nat := SDesc.addr d 22
def SDesc.b (d : SDesc) : Nat := SDesc.addr d 24
def SDesc.x (d : SDesc) : Nat := SDesc.addr d 26
def SDesc.work (d : SDesc) : Nat := SDesc.addr d 28
def SDesc.fact (d : SDesc) : Nat := SDesc.addr d 30
def SDesc.warmAddr (d : SDesc) : Nat := SDesc.addr d 32
def SDesc.stat (d : SDesc) : Nat := SDesc.addr d 34
def SDesc.xf (d : SDesc) : Nat := SDesc.addr d 36
def SDesc.pg (d : SDesc) : Nat := SDesc.addr d 38
/-- Bits of a Q element, and its bytes. -/
def SDesc.w (d : SDesc) : Nat := if SDesc.q64 d then 64 else 32
def SDesc.eb (d : SDesc) : Nat := SDesc.w d / 8
/-- The mode writes the pattern gradient (R338). -/
def SDesc.pattern (d : SDesc) : Bool := decide (1 ≤ SDesc.adjMode d)
/-- The mode solves. -/
def SDesc.solves (d : SDesc) : Bool := decide (SDesc.adjMode d ≠ 2)

/-- A finite value that is +0 or above. -/
def tolOk (x : FVal) : Bool := x.isFinite && !x.sign
/-- A finite value above 0. -/
def posOk (x : FVal) : Bool := tolOk x && !x.isZero
/-- R340: a format of B, X or XF. -/
def vecFmtOk (c : Nat) : Bool := c == 0 || c == 1 || c == 0x0E || c == 0x0F
/-- A plain device address aligned to `al`. -/
def alignedDev (al w : Nat) : Bool := plainDev w && decide (w % al = 0)

/-- R340: the pivot floor lies on the F_TAG grid above 0 and below 2^F_TAG. -/
def floorOk (d : SDesc) : Bool :=
  posOk (SDesc.pivotFloor d) && match cvtQ (SDesc.w d) (SDesc.tagF d) .rne (SDesc.pivotFloor d) with
    | (n, c) => decide (0 < n) && !c.rng

/-- R338, R340: a solve descriptor carries a reserved encoding. Fields that the mode does not read are not judged. -/
def solveBad (adj : Bool) (d : SDesc) : Bool :=
  let w0 := SDesc.word d 0
  let sv := SDesc.solves d
  !zeroBits w0 22 2 || !zeroBits (SDesc.word d 3) 16 16 || !zeroBits (SDesc.word d 14) 5 3 || !zeroBits (SDesc.word d 14) 13 3
  || !zeroBits (SDesc.word d 14) 21 3 || !zeroBits (SDesc.word d 14) 29 3 || SDesc.word d 17 != 0 || !zeroBits d.toNat 1280 768
  || (if adj then SDesc.adjMode d == 3 else SDesc.adjMode d != 0)
  || (SDesc.bcsr d && decide (SDesc.n d % 4 ≠ 0))
  || !vecFmtOk (SDesc.xFmt d)
  || (sv && (SDesc.method d == 3 || SDesc.warm d == 3 || SDesc.crit d == 3
    || (if SDesc.method d = 2 then !(decide (1 ≤ SDesc.gmresM d) && decide (SDesc.gmresM d ≤ 32)) else SDesc.gmresM d != 0)
    || !tolOk (SDesc.tolAbs d) || !tolOk (SDesc.tolRel d) || (decide (SDesc.stagWin d ≠ 0) && !posOk (SDesc.stagFactor d))
    || (decide (SDesc.precond d ≠ 0) && !floorOk d)
    || (SDesc.reuse d && SDesc.precond d == 0) || (adj && decide (2 ≤ SDesc.precond d) && !SDesc.reuse d)
    || !vecFmtOk (SDesc.bFmt d)
    || !([SDesc.val d, SDesc.b d].all plainDev) || !alignedDev 4096 (SDesc.work d)
    || (decide (SDesc.precond d ≠ 0) && !alignedDev 64 (SDesc.fact d))
    || (decide (SDesc.warm d ≠ 0) && !alignedDev 64 (SDesc.warmAddr d))))
  || (SDesc.pattern d && (!vecFmtOk (SDesc.xfFmt d) || !(SDesc.pgFmt d == 0 || SDesc.pgFmt d == 1 || SDesc.pgFmt d == 3)
    || !plainDev (SDesc.xf d) || !plainDev (SDesc.pg d)))
  || !([SDesc.rowPtr d, SDesc.colIdx d, SDesc.x d].all plainDev) || !alignedDev 64 (SDesc.stat d)

/-! ### Matrices (R315 to R317, R329) -/

/-- A stored entry: row, column and integer value. -/
structure Ent where
  i : Nat
  j : Nat
  a : Int

/-- A matrix: its stored entries in storage order, and each scalar row's entries in ascending columns. -/
structure Mat where
  n    : Nat
  ents : List Ent
  rows : Array (List (Nat × Int))
  /-- pairs of (block) row and column that the hash is over (R329) -/
  pat  : List (Nat × Nat)
  nnz  : Nat

/-- Rows that ROWPTR counts. -/
def SDesc.ptrRows (d : SDesc) : Nat := if SDesc.bcsr d then SDesc.n d / 4 else SDesc.n d
/-- Elements per counted entry. -/
def SDesc.perEnt (d : SDesc) : Nat := if SDesc.bcsr d then 16 else 1

/-- `k` words from a device address. -/
def State.wordsAt (s : State) (a k : Nat) : List Nat := (leWords (s.bytesAt a (4 * k))).map BitVec.toNat

/-- R316: the column indices of a row strictly ascend and lie below the bound. -/
def colsOk (bound : Nat) : List Nat → Bool
  | [] => true
  | [c] => decide (c < bound)
  | c :: d :: r => decide (c < d) && decide (c < bound) && colsOk bound (d :: r)

/-- R316: the lowest bad counted row, given ROWPTR and COLIDX. -/
def badRow (per rows : Nat) (ptr cols : List Nat) : Option Nat :=
  if nth ptr 0 0 ≠ 0 then some 0
  else
    let p := ptr.toArray
    let c := cols.toArray
    (upto rows).find? fun i =>
      let b := p.getD i 0
      let e := p.getD (i + 1) 0
      decide (e < b) || decide (2 ^ 32 ≤ per * e) || !colsOk rows ((rangeFrom b (Nat.min e c.size - b)).map fun k => c.getD k 0)

/-- The matrix that ROWPTR, COLIDX and VAL describe. -/
def buildMat (d : SDesc) (ptr cols : List Nat) (vals : List Int) : Mat :=
  let p := ptr.toArray
  let c := cols.toArray
  let v := vals.toArray
  let pairs : List (Nat × Nat × Nat) := (upto (SDesc.ptrRows d)).flatMap fun i =>
    (rangeFrom (p.getD i 0) (p.getD (i + 1) 0 - p.getD i 0)).map fun k => (i, c.getD k 0, k)
  let ents : List Ent := if SDesc.bcsr d then
      pairs.flatMap fun (i, j, k) => (upto 16).map fun e => ⟨4 * i + e / 4, 4 * j + e % 4, v.getD (16 * k + e) 0⟩
    else pairs.map fun (i, j, k) => ⟨i, j, v.getD k 0⟩
  let rows := ents.foldl (fun (r : Array (List (Nat × Int))) e => r.setIfInBounds e.i ((e.j, e.a) :: r.getD e.i []))
    (Array.replicate (SDesc.n d) [])
  { n := SDesc.n d, ents := ents, rows := rows.map List.reverse, pat := pairs.map fun (i, j, _) => (i, j), nnz := ents.length }

/-- R329. -/
def mix64 (v : Nat) : Nat :=
  let m := v * 0xA24BAED4963EE407 % 2 ^ 64
  let m := m ^^^ (m >>> 29)
  let m := m * 0x9FB21C651E98DF25 % 2 ^ 64
  m ^^^ (m >>> 32)

/-- R329: the pattern hash of a list of places. -/
def hashPat (l : List (Nat × Nat)) : DWord := l.foldl (fun h (i, j) => h + BitVec.ofNat 64 (mix64 (i * 2 ^ 32 + j))) 0

/-- R317: the lowest empty scalar row. -/
def Mat.emptyRow (m : Mat) : Option Nat := (upto m.n).find? fun i => (m.rows.getD i []).all fun e => e.2 == 0

/-! ### Vectors and exact sums (R319 to R323) -/

/-- Why a solve stops in the error class before a test. -/
inductive SStop where
  /-- a range breach: vector ID and element -/
  | breach (id idx : Nat)
  | breakdown
  deriving DecidableEq, Repr

abbrev SAct := Except SStop

/-- A vector in the solve's format. -/
structure QVec where
  w   : Nat
  tag : Int
  v   : Array Int

/-- The value of an element. -/
def QVec.at (x : QVec) (k : Nat) : FVal := qVal x.w x.tag (x.v.getD k 0)

/-- Exponent of the last place of a Q grid. -/
def qExp (w : Nat) (t : Int) : Int := t - (w - 1 : Nat)

/-- R320, R322: a vector assignment: each element rounded once; a breach of any element stops the solve. -/
def qAssign (w : Nat) (t : Int) (id n : Nat) (f : Nat → FVal) : SAct QVec :=
  let r := (upto n).map fun k => cvtQ w t .rne (f k)
  match r.zipIdx.find? fun x => x.1.2.rng || x.1.2.inv with
  | some x => .error (.breach id x.2)
  | none => .ok ⟨w, t, (r.map (·.1)).toArray⟩

/-- The exact sum of some values. -/
def exactSum (l : List FVal) : FVal := l.foldl (fun a x => (a.add x).1) FVal.zero

/-- A product, exactly. -/
def mulN (a b : FVal) : FVal := (a.mul b).1

/-- R321: an FP64 scalar operation; a result that is not finite is a breakdown (R324). -/
def s64 (x : FVal) : SAct FVal :=
  let r := (flt64.round .rne x).1
  if r.isFinite then .ok r else .error .breakdown

def sMul (a b : FVal) : SAct FVal := s64 (a.mul b).1
def sAdd (a b : FVal) : SAct FVal := s64 (a.add b).1
def sSub (a b : FVal) : SAct FVal := s64 (a.sub b).1
def sDiv (a b : FVal) : SAct FVal := s64 (a.div b).1
def sSqrt (a : FVal) : SAct FVal := s64 a.sqrt.1

/-- R321: a dot product, rounded once. -/
def qDot (a b : QVec) : SAct FVal :=
  let s : Int := ((upto a.v.size).map fun k => a.v.getD k 0 * b.v.getD k 0).foldl (· + ·) 0
  s64 (FVal.ofScaled s (qExp a.w a.tag + qExp b.w b.tag))

/-- R321: a norm. -/
def qNorm (a : QVec) : SAct FVal := do
  let q ← qDot a a
  sSqrt q

/-- R320, R337: the exact elements of A v, or of its transpose times v. -/
def Mat.mulVec (m : Mat) (tagA : Int) (tr : Bool) (x : QVec) : Array FVal :=
  let e := qExp x.w tagA + qExp x.w x.tag
  let sums : Array Int := if tr then
      m.ents.foldl (fun (r : Array Int) t => r.setIfInBounds t.j (r.getD t.j 0 + t.a * x.v.getD t.i 0)) (Array.replicate m.n 0)
    else m.rows.map fun l => l.foldl (fun s t => s + t.2 * x.v.getD t.1 0) 0
  sums.map fun s => FVal.ofScaled s e

/-- Element `k` of an exact product. -/
def numAt (a : Array FVal) (k : Nat) : FVal := a.getD k FVal.zero

/-! ### Preconditioners (R325 to R327, R337, R339) -/

/-- A triangular factor by rows, off the diagonal. -/
abbrev Tri := Array (List (Nat × FVal))

/-- A preconditioner in effect. -/
structure Pre where
  kind : Nat
  piv  : Array FVal := #[]
  /-- what the forward and the backward substitution read -/
  lo   : Tri := #[]
  up   : Tri := #[]

/-- A column of a list of entries. -/
def entAt (l : List (Nat × FVal)) (j : Nat) : FVal := ((l.find? fun e => e.1 == j).map (·.2)).getD FVal.zero

/-- What a factorisation has formed: pivots, L and U by rows, pivots floored and the lowest of their rows, or a breach. -/
structure Fact where
  piv   : Array FVal := #[]
  l     : Tri := #[]
  u     : Tri := #[]
  count : Nat := 0
  first : Option Nat := none
  bad   : Option Nat := none

/-- R326: a pivot on the F_TAG grid, floored where it lies below the floor. -/
def Fact.addPivot (f : Fact) (d : SDesc) (i : Nat) (x : FVal) : Fact :=
  let w := SDesc.w d
  let (n, c) := cvtQ w (SDesc.tagF d) .rne x
  let q := qVal w (SDesc.tagF d) n
  if c.rng || c.inv then { f with bad := f.bad.or (some i), piv := f.piv.push q }
  else if q.abs.lt (SDesc.pivotFloor d) then
    let p := qVal w (SDesc.tagF d) (cvtQ w (SDesc.tagF d) .rne (SDesc.pivotFloor d)).1
    { f with piv := f.piv.push (if x.sign && !x.isZero then p.neg else p), count := f.count + 1, first := f.first.or (some i) }
  else { f with piv := f.piv.push q }

/-- A factor entry on the F_TAG grid, and whether it breached. -/
def factEnt (d : SDesc) (x : FVal) : FVal × Bool :=
  let (n, c) := cvtQ (SDesc.w d) (SDesc.tagF d) .rne x
  (qVal (SDesc.w d) (SDesc.tagF d) n, c.rng || c.inv)

/-- Σ l(k) d(k) u(k) over the columns below `j` of a row of L that `u` names too. -/
def tripleSum (piv : Array FVal) (l : List (Nat × FVal)) (u : Nat → FVal) (j : Nat) : List FVal :=
  (l.filter fun e => decide (e.1 < j)).map fun e => (mulN (mulN e.2 (numAt piv e.1)) (u e.1)).neg

/-- R325: one row of IC(0) (`sym`) or ILU(0), over the entries of the row that lie in its member's block. -/
def Fact.row (d : SDesc) (sym : Bool) (f : Fact) (i : Nat) (es : List (Nat × FVal)) : Fact :=
  let uOf (j k : Nat) : FVal := if sym then entAt (f.l.getD j []) k else entAt (f.u.getD k []) j
  let step (x : List (Nat × FVal) × Bool) (e : Nat × FVal) : List (Nat × FVal) × Bool :=
    let (v, b) := factEnt d ((exactSum (e.2 :: tripleSum f.piv x.1 (uOf e.1) e.1)).div (numAt f.piv e.1)).1
    (x.1 ++ [(e.1, v)], x.2 || b)
  let (l, b) := (es.filter fun e => decide (e.1 < i)).foldl step ([], false)
  let own (k : Nat) : FVal := if sym then entAt l k else entAt (f.u.getD k []) i
  let f := f.addPivot d i (exactSum (entAt es i :: tripleSum f.piv l own i))
  let upper : List (Nat × FVal × Bool) := if sym then [] else (es.filter fun e => decide (i < e.1)).map fun e =>
    let (v, b) := factEnt d ((exactSum (e.2 :: tripleSum f.piv l (fun k => entAt (f.u.getD k []) e.1) i)).div (numAt f.piv i)).1
    (e.1, v, b)
  { f with l := f.l.push l, u := f.u.push (upper.map fun x => (x.1, x.2.1)),
           bad := if b || upper.any (·.2.2) then f.bad.or (some i) else f.bad }

/-- R325, R339: form the preconditioner's factors, each member's rows by themselves. `parts` holds (first row, rows). -/
def factorise (d : SDesc) (m : Mat) (parts : List (Nat × Nat)) : Fact :=
  let block (i : Nat) : Nat × Nat := (parts.find? fun p => decide (p.1 ≤ i) && decide (i < p.1 + p.2)).getD (0, m.n)
  (upto m.n).foldl (fun f i =>
    let row : List (Nat × FVal) := (m.rows.getD i []).map fun e => (e.1, qVal (SDesc.w d) (SDesc.tagA d) e.2)
    if SDesc.precond d = 1 then f.addPivot d i (entAt row i)
    else
      let (b, k) := block i
      f.row d (SDesc.precond d == 2) i (row.filter fun e => decide (b ≤ e.1) && decide (e.1 < b + k))) {}

/-- The transpose of a triangular factor. -/
def Tri.transpose (t : Tri) : Tri :=
  (upto t.size).foldl (fun r i => (t.getD i []).foldl (fun r e => r.setIfInBounds e.1 (r.getD e.1 [] ++ [(i, e.2)])) r)
    (Array.replicate t.size [])

/-- R325, R337: the preconditioner that factors make; `tr` applies their transposes. -/
def Fact.pre (f : Fact) (kind : Nat) (tr : Bool) : Pre :=
  let u := if kind = 2 then Tri.transpose f.l else f.u
  if tr then { kind := kind, piv := f.piv, lo := Tri.transpose u, up := Tri.transpose f.l }
  else { kind := kind, piv := f.piv, lo := f.l, up := u }

/-- One element of a substitution: rounded onto the grid, with a breach noted at the lowest element. -/
def subst (w : Nat) (t : Int) (k : Nat) (x : FVal) (y : Array Int × Option Nat) : Array Int × Option Nat :=
  let (n, c) := cvtQ w t .rne x
  (y.1.setIfInBounds k n, if c.rng || c.inv then some (match y.2 with
    | some b => Nat.min b k
    | none => k) else y.2)

/-- R325: z := M⁻¹ r on the grid of Z_TAG. Forward: each element is its exact sum divided by its pivot; backward: the unit
triangle's. -/
def Pre.apply (p : Pre) (d : SDesc) (r : QVec) : SAct QVec :=
  let n := r.v.size
  let t := SDesc.tagZ d
  if p.kind = 1 then qAssign r.w t 4 n fun k => ((r.at k).div (numAt p.piv k)).1
  else
    let val (y : Array Int) (k : Nat) : FVal := qVal r.w t (y.getD k 0)
    let fwd := (upto n).foldl (fun y i =>
      let s := exactSum (r.at i :: (p.lo.getD i []).map fun e => (mulN (mulN e.2 (numAt p.piv e.1)) (val y.1 e.1)).neg)
      subst r.w t i (s.div (numAt p.piv i)).1 y) ((Array.replicate n 0 : Array Int), (none : Option Nat))
    match fwd.2 with
    | some b => .error (.breach 4 b)
    | none =>
      let bwd := (upto n).reverse.foldl (fun y i =>
        subst r.w t i (exactSum (val fwd.1 i :: (p.up.getD i []).map fun e => (mulN e.2 (val y.1 e.1)).neg)) y)
        ((Array.replicate n 0 : Array Int), (none : Option Nat))
      match bwd.2 with
      | some b => .error (.breach 4 b)
      | none => .ok ⟨r.w, t, bwd.1⟩

/-- M⁻¹ v, or v itself without a preconditioner (R324). -/
def Pre.minv (p : Pre) (d : SDesc) (v : QVec) : SAct QVec := if p.kind = 0 then .ok v else p.apply d v

/-! ### The methods (R324, R333) -/

/-- What a method works with. -/
structure Sys where
  d  : SDesc
  m  : Mat
  tr : Bool
  p  : Pre
  b  : QVec
  nb : FVal

/-- Where an iteration stands: the iterate, iterations completed, and the residual norms, newest first. -/
structure Iter where
  x    : QVec
  k    : Nat := 0
  norms : List FVal := []

/-- How a method has ended: a test met (END_REASON 0 to 2), or an error in iteration `at_`. -/
inductive SEnd where
  | met (reason : Nat) (y : Iter)
  | err (e : SStop) (at_ : Nat) (y : Iter)

/-- The exact product with the matrix, or with its transpose for ADJOINT. -/
def Sys.mul (y : Sys) (v : QVec) : Array FVal := y.m.mulVec (SDesc.tagA y.d) y.tr v

/-- A vector assignment of this solve. -/
def Sys.assign (y : Sys) (t : Int) (id : Nat) (f : Nat → FVal) : SAct QVec := qAssign (SDesc.w y.d) t id y.m.n f

/-- R333: the tests after iteration k with residual norm `r`, the newest of `norms`. -/
def Sys.test (y : Sys) (k : Nat) (norms : List FVal) : Option Nat :=
  let d := y.d
  let r := norms.headD FVal.zero
  let rel := (flt64.round .rne (mulN (SDesc.tolRel d) y.nb)).1
  let conv := match SDesc.crit d with
    | 0 => r.le (SDesc.tolAbs d)
    | 1 => r.le rel
    | _ => r.le (SDesc.tolAbs d) || r.le rel
  let w := SDesc.stagWin d
  if conv then some 0
  else if k = SDesc.maxIter d then some 1
  else if w ≠ 0 ∧ w ≤ k ∧ ((flt64.round .rne (mulN (SDesc.stagFactor d) (nth norms w FVal.zero))).1).lt r then some 2
  else none

/-- A scalar that must not be zero. -/
def nonzero (x : FVal) : SAct Unit := if x.isZero then .error .breakdown else .ok ()

/-- r := b - A x on a grid. -/
def Sys.residual (y : Sys) (t : Int) (id : Nat) (x : QVec) : SAct QVec :=
  let ax := y.mul x
  y.assign t id fun k => ((y.b.at k).sub (numAt ax k)).1

/-- One iteration of conjugate gradients on (x, r, p, rho): the new (x, r) and its residual norm. -/
def Sys.cgHalf (y : Sys) (x r p : QVec) (rho : FVal) : SAct (QVec × QVec × FVal) := do
  let d := y.d
  let ap := y.mul p
  let q ← y.assign (SDesc.tagQ d) 3 fun k => numAt ap k
  let dd ← qDot p q
  nonzero dd
  let al ← sDiv rho dd
  let x ← y.assign (SDesc.tagX d) 0 fun k => ((x.at k).add (mulN al (p.at k))).1
  let r ← y.assign (SDesc.tagR d) 1 fun k => ((r.at k).sub (mulN al (q.at k))).1
  let n ← qNorm r
  pure (x, r, n)

/-- The rest of an iteration: the next direction and rho. -/
def Sys.cgDir (y : Sys) (r p : QVec) (rho : FVal) : SAct (QVec × FVal) := do
  let z ← y.p.minv y.d r
  let rn ← qDot r z
  nonzero rn
  let be ← sDiv rn rho
  let p ← y.assign (SDesc.tagP y.d) 2 fun k => ((z.at k).add (mulN be (p.at k))).1
  pure (p, rn)

/-- R324: the loop of conjugate gradients; `fuel` bounds the iterations. -/
def Sys.cgLoop (y : Sys) : Nat → QVec → QVec → FVal → Iter → SEnd
  | 0, _, _, _, it => .met 1 it
  | fuel + 1, r, p, rho, it =>
    match y.cgHalf it.x r p rho with
    | .error e => .err e (it.k + 1) it
    | .ok (x, r, n) =>
      let it := { x := x, k := it.k + 1, norms := n :: it.norms }
      match y.test it.k it.norms with
      | some w => .met w it
      | none => match y.cgDir r p rho with
        | .error e => .err e it.k it
        | .ok (p, rho) => y.cgLoop fuel r p rho it

/-- The first direction of conjugate gradients. -/
def Sys.cgStart (y : Sys) (r : QVec) : SAct (QVec × FVal) := do
  let z ← y.p.minv y.d r
  let p ← y.assign (SDesc.tagP y.d) 2 fun k => z.at k
  let rho ← qDot r z
  nonzero rho
  pure (p, rho)

/-- Scalars and vectors that BiCGSTAB carries from one iteration to the next. -/
structure Bi where
  r   : QVec
  p   : QVec
  v   : QVec
  rho : FVal
  al  : FVal
  om  : FVal

/-- R324: one iteration of BiCGSTAB. -/
def Sys.biStep (y : Sys) (r0 x : QVec) (c : Bi) : SAct (QVec × Bi × FVal) := do
  let d := y.d
  let rho ← qDot r0 c.r
  nonzero rho
  let q1 ← sDiv rho c.rho
  let q2 ← sDiv c.al c.om
  let be ← sMul q1 q2
  let p ← y.assign (SDesc.tagP d) 2 fun k =>
    exactSum [c.r.at k, mulN be (c.p.at k), (mulN (mulN be c.om) (c.v.at k)).neg]
  let yv ← y.p.minv d p
  let av := y.mul yv
  let v ← y.assign (SDesc.tagQ d) 3 fun k => numAt av k
  let rv ← qDot r0 v
  nonzero rv
  let al ← sDiv rho rv
  let s ← y.assign (SDesc.tagR d) 1 fun k => ((c.r.at k).sub (mulN al (v.at k))).1
  let z ← y.p.minv d s
  let az := y.mul z
  let t ← y.assign (SDesc.tagQ d) 3 fun k => numAt az k
  let ts ← qDot t s
  let tt ← qDot t t
  nonzero tt
  let om ← sDiv ts tt
  let x ← y.assign (SDesc.tagX d) 0 fun k => exactSum [x.at k, mulN al (yv.at k), mulN om (z.at k)]
  let r ← y.assign (SDesc.tagR d) 1 fun k => ((s.at k).sub (mulN om (t.at k))).1
  let n ← qNorm r
  pure (x, { r := r, p := p, v := v, rho := rho, al := al, om := om }, n)

/-- R324: the loop of BiCGSTAB. -/
def Sys.biLoop (y : Sys) (r0 : QVec) : Nat → Bi → Iter → SEnd
  | 0, _, it => .met 1 it
  | fuel + 1, c, it =>
    match y.biStep r0 it.x c with
    | .error e => .err e (it.k + 1) it
    | .ok (x, c, n) =>
      let it := { x := x, k := it.k + 1, norms := n :: it.norms }
      match y.test it.k it.norms with
      | some w => .met w it
      | none => y.biLoop r0 fuel c it

/-- Where a GMRES cycle stands: the basis, the rotations, the columns of R and the entries of gamma, each in order. -/
structure Gm where
  vs    : List QVec
  rots  : List (FVal × FVal)
  cols  : List (List FVal)
  gamma : List FVal

/-- Earlier rotations on a column: the entries above the last two are final. -/
def rotate : List (FVal × FVal) → List FVal → SAct (List FVal)
  | [], h => .ok h
  | (c, s) :: rs, a :: b :: h => do
    let x ← sMul c a
    let z ← sMul s b
    let u ← sAdd x z
    let x ← sMul s a
    let z ← sMul c b
    let v ← sSub z x
    let t ← rotate rs (v :: h)
    pure (u :: t)
  | _, h => .ok h

/-- Steps of modified Gram-Schmidt: the entries h(i, j), and what is left of w. -/
def Sys.gramSchmidt (y : Sys) : List QVec → QVec → SAct (List FVal × QVec)
  | [], w => .ok ([], w)
  | v :: r, w => do
    let h ← qDot w v
    let w ← y.assign (SDesc.tagQ y.d) 3 fun k => ((w.at k).sub (mulN h (v.at k))).1
    let (hs, w) ← y.gramSchmidt r w
    pure (h :: hs, w)

/-- R324: an Arnoldi step: the cycle with its new column, the new basis vector where h(j+1, j) is not zero, and the
residual estimate. -/
def Sys.arnoldi (y : Sys) (g : Gm) : SAct (Gm × Option QVec × FVal) := do
  let z ← y.p.minv y.d (g.vs.getLastD y.b)
  let az := y.mul z
  let w ← y.assign (SDesc.tagQ y.d) 3 fun k => numAt az k
  let (hs, w) ← y.gramSchmidt g.vs w
  let h1 ← qNorm w
  let nv ← if h1.isZero then pure none else (do
    let v ← y.assign 1 7 fun k => ((w.at k).div h1).1
    pure (some v))
  let col ← rotate g.rots (hs ++ [h1])
  let j := hs.length - 1
  let a := nth col j FVal.zero
  let a2 ← sMul a a
  let b2 ← sMul h1 h1
  let sm ← sAdd a2 b2
  let den ← sSqrt sm
  let c ← sDiv a den
  let s ← sDiv h1 den
  let gj := g.gamma.getLastD FVal.zero
  let g0 ← sMul c gj
  let sg ← sMul s gj
  let g1 := sg.neg
  pure ({ vs := g.vs ++ nv.toList, rots := g.rots ++ [(c, s)], cols := g.cols ++ [col.take j ++ [den]],
          gamma := g.gamma.dropLast ++ [g0, g1] }, nv, g1.abs)

/-- The upper triangular system in FP64, from the last unknown up; `cols` are the columns of R from the last. -/
def backSolve : List (List FVal) → List FVal → SAct (List FVal)
  | [], _ => .ok []
  | c :: cs, g => do
    let k := cs.length
    let yk ← sDiv (nth g k FVal.zero) (nth c k FVal.zero)
    let g' ← (upto k).mapM fun i => do
      let p ← sMul (nth c i FVal.zero) yk
      sSub (nth g i FVal.zero) p
    let r ← backSolve cs g'
    pure (r ++ [yk])

/-- R324: the end of a cycle: x := x + M⁻¹ Σ y v. -/
def Sys.gmUpdate (y : Sys) (x : QVec) (g : Gm) : SAct QVec := do
  let ys ← backSolve g.cols.reverse g.gamma
  let sum (k : Nat) : List FVal := (ys.zip g.vs).map fun (a, v) => mulN a (v.at k)
  if y.p.kind = 0 then y.assign (SDesc.tagX y.d) 0 fun k => exactSum (x.at k :: sum k)
  else
    let u ← y.assign (SDesc.tagZ y.d) 4 fun k => exactSum (sum k)
    let z ← y.p.minv y.d u
    y.assign (SDesc.tagX y.d) 0 fun k => ((x.at k).add (z.at k)).1

/-- The start of a cycle: w := b - A x, its norm, and the first basis vector where the norm is not zero. -/
def Sys.gmStart (y : Sys) (x : QVec) : SAct (FVal × Option Gm) := do
  let w ← y.residual (SDesc.tagQ y.d) 3 x
  let be ← qNorm w
  if be.isZero then pure (be, none)
  else
    let v ← y.assign 1 7 fun k => ((w.at k).div be).1
    pure (be, some { vs := [v], rots := [], cols := [], gamma := [be] })

/-- R324: GMRES(m) from within a cycle. -/
def Sys.gmLoop (y : Sys) : Nat → Gm → Iter → SEnd
  | 0, _, it => .met 1 it
  | fuel + 1, g, it =>
    match y.arnoldi g with
    | .error e => .err e (it.k + 1) it
    | .ok (g, nv, n) =>
      let it := { it with k := it.k + 1, norms := n :: it.norms }
      let met := if nv.isNone then some 0 else y.test it.k it.norms
      if met.isNone && decide (g.cols.length < SDesc.gmresM y.d) then y.gmLoop fuel g it
      else match y.gmUpdate it.x g with
        | .error e => .err e it.k it
        | .ok x =>
          let it := { it with x := x }
          match met with
          | some w => .met w it
          | none => match y.gmStart x with
            | .error e => .err e (it.k + 1) it
            | .ok (_, none) => .met 0 it
            | .ok (_, some g) => y.gmLoop fuel g it

/-- R324, R333: a method from its starting vector. `zero` says that x0 = 0. -/
def Sys.run (y : Sys) (x : QVec) (zero : Bool) : SEnd :=
  let d := y.d
  let it0 : Iter := { x := x }
  let first : SAct (QVec × FVal) := do
    let r ← if zero then y.assign (SDesc.tagR d) 1 fun k => y.b.at k else y.residual (SDesc.tagR d) 1 x
    let n ← qNorm r
    pure (r, n)
  if SDesc.method d = 2 then
    match y.gmStart x with
    | .error e => .err e 0 it0
    | .ok (n, g) =>
      let it := { it0 with norms := [n] }
      match y.test 0 it.norms, g with
      | some w, _ => .met w it
      | none, none => .met 0 it
      | none, some g => y.gmLoop (SDesc.maxIter d) g it
  else match first with
    | .error e => .err e 0 it0
    | .ok (r, n) =>
      let it := { it0 with norms := [n] }
      match y.test 0 it.norms with
      | some w => .met w it
      | none =>
        if SDesc.method d = 0 then
          match y.cgStart r with
          | .error e => .err e 0 it
          | .ok (p, rho) => y.cgLoop (SDesc.maxIter d) r p rho it
        else
          let z (t : Int) : QVec := ⟨SDesc.w d, t, Array.replicate y.m.n 0⟩
          let one : FVal := .fin false 1 0
          y.biLoop r (SDesc.maxIter d) { r := r, p := z (SDesc.tagP d), v := z (SDesc.tagQ d), rho := one, al := one, om := one } it

end Sys2Proof.Machine
end

