-- ==== Sys2Proof/Machine/Iron.lean ====
section
/-! DEFINITION. The Iron solver's commands: SOLVE, ADJOINT and the pattern gradient, and the end of a solve (R212 to R214, R323,
R327 to R341). -/

namespace Sys2Proof.Machine

/-! ### Areas in memory (R324, R327, R331) -/

/-- R324: work slots, and the bytes of one. -/
def SDesc.slots (d : SDesc) : Nat :=
  match SDesc.method d with
  | 0 => 5
  | 1 => 9
  | _ => SDesc.gmresM d + 4
def SDesc.slotSize (d : SDesc) : Nat := ceilDiv (SDesc.n d * SDesc.eb d) 4096 * 4096

/-- The off-diagonal places of L and of U in storage order (R327). -/
def Mat.lower (m : Mat) : List (Nat × Nat) := (m.ents.filter fun e => decide (e.j < e.i)).map fun e => (e.i, e.j)
def Mat.upper (m : Mat) : List (Nat × Nat) := (m.ents.filter fun e => decide (e.i < e.j)).map fun e => (e.i, e.j)

/-- The places of the factor values after the pivots. -/
def SDesc.factPlaces (d : SDesc) (m : Mat) : List (Nat × Nat) × List (Nat × Nat) :=
  match SDesc.precond d with
  | 2 => (m.lower, [])
  | 3 => (m.lower, m.upper)
  | _ => ([], [])

/-- Bytes of the factor area. -/
def SDesc.factSize (d : SDesc) (m : Mat) : Nat :=
  let p := SDesc.factPlaces d m
  64 + SDesc.eb d * (SDesc.n d + p.1.length + p.2.length)

/-- R331: the words of a header. -/
def headerWords (d : SDesc) (valid : Bool) (tag : Int) (nnz : Nat) (hash : DWord) (count first : Nat) : List Nat :=
  [b2n valid + b2n (SDesc.bcsr d) * 2 + b2n (SDesc.q64 d) * 4 + ofSigned 8 tag * 2 ^ 8, SDesc.n d, nnz, 0,
   fld hash.toNat 0 32, fld hash.toNat 32 32, 0, 0, 0, 0, count, first, 0, 0, 0, 0]

/-- Q integers as bytes. -/
def qBytes (w : Nat) (l : List Int) : List Byte := l.flatMap fun n => leBytes (w / 8) (ofSigned w n)

/-- `n` Q integers from a device address. -/
def State.qInts (s : State) (w a n : Nat) : List Int :=
  (chunks (w / 8) n (s.bytesAt a (w / 8 * n))).map fun b => toSigned w (leNat b)

/-- The Q integer of a value that lies on a grid. -/
def toGrid (w : Nat) (t : Int) (x : FVal) : Int := (cvtQ w t .rne x).1

/-- R327: write the factor area. -/
def State.putFact (s : State) (d : SDesc) (m : Mat) (h : DWord) (f : Fact) : State :=
  let w := SDesc.w d
  let t := SDesc.tagF d
  let p := SDesc.factPlaces d m
  let (fr, s) := match f.first with
    | some k => (k, s)
    | none => let (x, s) := s.fresh; (fld x.toNat 0 32, s)
  let ints := f.piv.toList.map (toGrid w t)
    ++ p.1.map (fun (i, j) => toGrid w t (entAt (f.l.getD i []) j)) ++ p.2.map fun (i, j) => toGrid w t (entAt (f.u.getD i []) j)
  s.put (SDesc.fact d) (bytesOf (headerWords d true t m.nnz h f.count fr) ++ qBytes w ints)

/-- A triangular factor from its places and values. -/
def triOf (n : Nat) (ps : List ((Nat × Nat) × FVal)) : Tri :=
  ps.foldl (fun r ((i, j), v) => r.setIfInBounds i (r.getD i [] ++ [(j, v)])) (Array.replicate n [])

/-- R327: read a factor area; none where its header does not match the matrix. -/
def State.getFact (s : State) (d : SDesc) (m : Mat) (h : DWord) : Option Fact :=
  let hd := s.wordsAt (SDesc.fact d) 16
  let w0 := nth hd 0 0
  if !bitOf w0 0 || bitOf w0 1 != SDesc.bcsr d || bitOf w0 2 != SDesc.q64 d || nth hd 1 0 != SDesc.n d || nth hd 2 0 != m.nnz
      || nth hd 4 0 + nth hd 5 0 * 2 ^ 32 != h.toNat then none
  else
    let w := SDesc.w d
    let t := toSigned 8 (fld w0 8 8)
    let p := SDesc.factPlaces d m
    let v := (s.qInts w (SDesc.fact d + 64) (SDesc.n d + p.1.length + p.2.length)).map (qVal w t)
    some { piv := (v.take (SDesc.n d)).toArray
           l := triOf (SDesc.n d) (p.1.zip (v.drop (SDesc.n d)))
           u := triOf (SDesc.n d) (p.2.zip (v.drop (SDesc.n d + p.1.length)))
           count := nth hd 10 0, first := some (nth hd 11 0) }

/-! ### Warm start (R328 to R332) -/

/-- R330: the warm decision: the starting vector where the record is used, and the reason of a rejection. -/
def State.warmX (s : State) (d : SDesc) (m : Mat) (h : DWord) : Option (List Int) × Nat :=
  let hd := s.wordsAt (SDesc.warmAddr d) 16
  let w0 := nth hd 0 0
  if SDesc.warm d ≠ 2 ∨ !bitOf w0 0 then (none, 0)
  else if nth hd 1 0 ≠ SDesc.n d ∨ bitOf w0 1 ≠ SDesc.bcsr d then (none, 1)
  else if nth hd 2 0 ≠ m.nnz then (none, 2)
  else if nth hd 4 0 + nth hd 5 0 * 2 ^ 32 ≠ h.toNat then (none, 3)
  else
    let w := if bitOf w0 2 then 64 else 32
    let l := (s.qInts w (SDesc.warmAddr d + 64) (SDesc.n d)).map fun n =>
      qConv w (toSigned 8 (fld w0 8 8)) (SDesc.w d) (SDesc.tagX d) n
    if l.any fun x => x.2.rng then (none, 4) else (some (l.map (·.1)), 0)

/-! ### The ranges of a solve (R367, R368) -/

/-- Element bytes of a format code. -/
def fmtBytes (c : Nat) : Nat := (fmtOf c).width / 8

/-- The ranges that the structural pass reads. -/
def matRanges (d : SDesc) (cnt : Nat) : Ranges :=
  [(.read, SDesc.rowPtr d, 4 * (SDesc.ptrRows d + 1)), (.read, SDesc.colIdx d, 4 * cnt)]
  ++ if SDesc.solves d then [(.read, SDesc.val d, SDesc.eb d * SDesc.perEnt d * cnt)] else []

/-- The other ranges, in field order. -/
def restRanges (d : SDesc) (fact nnz : Nat) : Ranges :=
  let n := SDesc.n d
  let vec := 64 + n * SDesc.eb d
  (if SDesc.solves d then
    [(.read, SDesc.b d, n * fmtBytes (SDesc.bFmt d)), (.write, SDesc.x d, n * fmtBytes (SDesc.xFmt d)),
     (.read, SDesc.work d, SDesc.slots d * SDesc.slotSize d), (.write, SDesc.work d, SDesc.slots d * SDesc.slotSize d)]
    ++ (if SDesc.precond d = 0 then [] else [(if SDesc.reuse d then .read else .write, SDesc.fact d, fact)])
    ++ (match SDesc.warm d with
      | 0 => []
      | 1 => [(.write, SDesc.warmAddr d, vec)]
      | _ => [(.read, SDesc.warmAddr d, vec), (.write, SDesc.warmAddr d, vec)])
  else [(.read, SDesc.x d, n * fmtBytes (SDesc.xFmt d))])
  ++ [(.write, SDesc.stat d, 64)]
  ++ if SDesc.pattern d then [(.read, SDesc.xf d, n * fmtBytes (SDesc.xfFmt d)), (.write, SDesc.pg d, nnz * fmtBytes (SDesc.pgFmt d))] else []

/-! ### The parts of a split solve (R339) -/

/-- The rows that the cores of a gang carry, in member order: core, first row, rows. `u` is the rows of a unit. -/
def State.solvePartsGo (s : State) (j : Job) (u : Nat) : Nat → Nat → Nat → Nat → List (CoreRef × Nat × Nat)
  | 0, _, _, _ => []
  | fuel + 1, g, b, n =>
    match j.gang g with
    | none => []
    | some d => ((gangMembers d).zip (parts (n / u) (gangCount d))).flatMap fun (m, (x, k)) =>
      if k = 0 then []
      else match s.member d m with
        | .core r => [(r, b + u * x, u * k)]
        | .gang h => s.solvePartsGo j u fuel h (b + u * x) (u * k)
        | .other => []

/-- The rows of a solve by core. -/
def State.solveParts (s : State) (i : IfaceId) (d : SDesc) : List (CoreRef × Nat × Nat) :=
  match i with
  | .core r => [(r, 0, SDesc.n d)]
  | .gang k g => match s.job k with
    | some j => s.solvePartsGo j (if SDesc.bcsr d then 4 else 1) 257 g.toNat 0 (SDesc.n d)
    | none => []

/-! ### The solve itself (R341) -/

/-- The values of `n` elements of a scalar format from a device address. -/
def State.vecAt (s : State) (c : Nat) (tag : Int) (a n : Nat) : List FVal :=
  let k := fmtBytes c
  (chunks k n (s.bytesAt a (k * n))).map fun b => (fmtOf c).dec tag (leNat b)

/-- R323: B converted to the solve's format: a NaN, or a breach, by the lowest element. -/
def convB (d : SDesc) (l : List FVal) : Except (BitVec 16 × Nat) QVec :=
  match l.zipIdx.find? fun x => x.1.isNan with
  | some x => .error (Code.irnInvalid, x.2)
  | none => match qAssign (SDesc.w d) (SDesc.tagB d) 5 l.length fun k => nth l k FVal.zero with
    | .ok b => .ok b
    | .error (.breach _ k) => .error (Code.rangeBreach, k)
    | .error .breakdown => .error (Code.irnBreakdown, 0)

/-- The code of a test met. -/
def reasonCode (w : Nat) : BitVec 16 :=
  match w with
  | 0 => Code.irnConverged
  | 1 => Code.irnIterCap
  | _ => Code.irnStagnated

/-- A Q integer vector from a list. -/
def QVec.ofList (w : Nat) (t : Int) (l : List Int) : QVec := ⟨w, t, l.toArray⟩

/-- How element `k` of x rounds on its way to X_FMT (R90, R91, R335). A Q format of the solve's width or above is exact in
either way; Q64 to Q32 is the narrowing conversion of R83. -/
def SDesc.xRnd (d : SDesc) (seed iter k : Nat) : Rnd :=
  rndOf (SDesc.rnd d) (SDesc.grad d) seed iter (SDesc.xTid d) (k % 2 ^ 48)

/-- The result x in a Q format of another width than the solve's breaches where a rounded element does not fit (R83, R322,
R335). `rn` rounds element k. -/
def outBreach (d : SDesc) (rn : Nat → Rnd) (x : List Int) : Option Nat :=
  if SDesc.xFmt d = 0x0E ∧ SDesc.q64 d then
    (x.zipIdx.find? fun (n, k) => (cvtQ 32 (SDesc.tagX d) (rn k) (qVal 64 (SDesc.tagX d) n)).2.rng).map (·.2)
  else none

/-- FP64 bits of a norm. -/
def normBits (x : FVal) : DWord := BitVec.ofNat 64 (flt64.enc x)

/-- How a method's end reads as an outcome. -/
def SolveOut.ended (o : SolveOut) (d : SDesc) (rn : Nat → Rnd) (e : SEnd) : SolveOut :=
  let at_ (o : SolveOut) (y : Iter) : SolveOut := { o with iters := y.k, resNorm := y.norms.head?.map normBits, x := y.x.v.toList }
  match e with
  | .met w y =>
    let o := at_ o y
    match outBreach d rn o.x with
    | some k => { o with codes := o.codes ++ [Code.rangeBreach], reason := 3, breach := some (0, y.k), index := some k }
    | none => { o with codes := o.codes ++ [reasonCode w], reason := w }
  | .err (.breach id k) t y => { at_ o y with codes := o.codes ++ [Code.rangeBreach], reason := 3, breach := some (id, t), index := some k }
  | .err .breakdown _ y => { at_ o y with codes := o.codes ++ [Code.irnBreakdown], reason := 3 }

/-- Phases 3 to 5 of R341: factors, the warm decision, b, and the iterations. The outcome, and the factors formed. `rn` rounds
element k of x. -/
def State.solveGo (s : State) (d : SDesc) (m : Mat) (h : DWord) (adj : Bool) (rn : Nat → Rnd) (ps : List (Nat × Nat)) :
    SolveOut × Option Fact :=
  let o : SolveOut := { hash := h, nnz := m.nnz }
  let kind := SDesc.precond d
  let fact : Option Fact := if kind = 0 then some {} else if SDesc.reuse d then s.getFact d m h else some (factorise d m ps)
  match fact with
  | none => ({ o with codes := [Code.irnFactStale], reason := 3, phase := 3 }, none)
  | some f =>
    let formed := if kind = 0 ∨ SDesc.reuse d then none else some f
    let o := { o with pivCount := f.count, pivFirst := f.first, factReused := decide (kind ≠ 0) && SDesc.reuse d,
                      codes := if formed.isSome ∧ f.count ≠ 0 then [Code.pivotFloored] else [] }
    match f.bad with
    | some k => ({ o with codes := o.codes ++ [Code.rangeBreach], reason := 3, phase := 3, breach := some (6, 0), index := some k }, formed)
    | none =>
      let (wx, wr) := s.warmX d m h
      let o := { o with warmUsed := wx.isSome, warmReason := wr, codes := o.codes ++ if wr = 0 then [] else [Code.warmRejected] }
      match convB d (s.vecAt (SDesc.bFmt d) (SDesc.tagB d) (SDesc.b d) (SDesc.n d)) with
      | .error (code, k) =>
        ({ o with codes := o.codes ++ [code], reason := 3, phase := 4, index := some k,
                  breach := if code = Code.rangeBreach then some (5, 0) else none }, formed)
      | .ok b =>
        match qNorm b with
        | .error _ => ({ o with codes := o.codes ++ [Code.irnBreakdown], reason := 3, phase := 4 }, formed)
        | .ok nb =>
          let o := { o with bNorm := some (normBits nb) }
          let y : Sys := { d := d, m := m, tr := adj, p := f.pre kind adj, b := b, nb := nb }
          let x0 := QVec.ofList (SDesc.w d) (SDesc.tagX d) (wx.getD (List.replicate (SDesc.n d) 0))
          (o.ended d rn (y.run x0 wx.isNone), formed)

/-- The pattern gradient alone (R338): lambda is read for a NaN. -/
def State.patternOnly (s : State) (d : SDesc) (nnz : Nat) : SolveOut :=
  match (s.vecAt (SDesc.xFmt d) (SDesc.tagX d) (SDesc.x d) (SDesc.n d)).zipIdx.find? fun x => x.1.isNan with
  | some x => { codes := [Code.irnInvalid], reason := 3, phase := 2, index := some x.2, nnz := nnz }
  | none => { codes := [Code.irnConverged], reason := 0, phase := 2, nnz := nnz }

/-- The cores of a solve show its state (R343). -/
def State.updIron (s : State) (cs : List CoreRef) (f : CoreRef → Iron → Iron) : State :=
  forEach (fun r s => s.updCore r fun k => { k with iron := f r k.iron }) cs s

/-- What a solve writes before its end: its work area, and the factors that it forms (R324, R327). -/
def areaRanges (d : SDesc) (fact : Nat) : Ranges :=
  (.write, SDesc.work d, SDesc.slots d * SDesc.slotSize d)
    :: if SDesc.precond d = 0 ∨ SDesc.reuse d then [] else [(.write, SDesc.fact d, fact)]

/-- What the areas hold during a solve that has reached its end: the factors that it formed, and free values in the work
area, and in both after an error (R335). A factor area that the solve reads and does not form stays as it is (DEDUCED, log 64). -/
def State.putAreas (s : State) (i : IfaceId) (d : SDesc) (m : Mat) (o : SolveOut) (f : Option Fact) : State :=
  let bad := isError (mergeCodes o.codes)
  let s := s.touchAll i (areaRanges d (SDesc.factSize d m))
  let s := forEach (fun k (s : State) => s.freeBytes (SDesc.work d + k * SDesc.slotSize d) (SDesc.n d * SDesc.eb d)) (upto (SDesc.slots d)) s
  if SDesc.precond d = 0 ∨ SDesc.reuse d then s
  else if bad then s.freeBytes (SDesc.fact d) (SDesc.factSize d m)
  else match f with
    | some f => s.putFact d m o.hash f
    | none => s

/-- The structural pass and what follows it, for a command that has begun (R341, R368). -/
def State.solveRun (s : State) (i : IfaceId) (a : At) (c : CoreRef) (d : SDesc) (adj : Bool) (rn : Nat → Rnd) :
    Act (SolveOut × State) := do
  let fail (e : Denied) : State := (s.loseFlight i .exe a.idx).haltDenied a false (.iron c) (s.logNo c) e
  let check (rs : Ranges) : Act Unit := match s.deniedAny i rs with
    | some e => .error (fail e)
    | none => .ok ()
  check [(.read, SDesc.rowPtr d, 4 * (SDesc.ptrRows d + 1))]
  let ptr := s.wordsAt (SDesc.rowPtr d) (SDesc.ptrRows d + 1)
  let cnt := nth ptr (SDesc.ptrRows d) 0
  check (matRanges d cnt)
  let cols := s.wordsAt (SDesc.colIdx d) cnt
  let vals := if SDesc.solves d then s.qInts (SDesc.w d) (SDesc.val d) (SDesc.perEnt d * cnt) else []
  let bad := badRow (SDesc.perEnt d) (SDesc.ptrRows d) ptr cols
  let m := if bad.isSome then buildMat d [] [] [] else buildMat d ptr cols vals
  let rest := restRanges d (SDesc.factSize d m) (SDesc.perEnt d * cnt)
  check rest
  let s := s.touchAll i (matRanges d cnt ++ rest.filter fun r => r.1 == .read)
  match bad with
  | some k =>
    let o : SolveOut := { codes := [Code.irnBadMatrix], reason := 3, phase := 2, index := some (k * if SDesc.bcsr d then 4 else 1) }
    pure (o, if SDesc.solves d then s.putAreas i d m o none else s)
  | none =>
    if !SDesc.solves d then pure (s.patternOnly d m.nnz, s)
    else
      let h := hashPat m.pat
      let ps := s.solveParts i d
      let u := if SDesc.bcsr d then 4 else 1
      let s := s.updIron (ps.map (·.1)) fun r x => match ps.find? fun p => p.1 == r with
        | some p => { x with fprint := hashPat (m.pat.filter fun e => decide (p.2.1 ≤ u * e.1) && decide (u * e.1 < p.2.1 + p.2.2)) }
        | none => x
      match m.emptyRow with
      | some k =>
        let o : SolveOut := { codes := [Code.singular], reason := 3, phase := 2, index := some k, hash := h, nnz := m.nnz }
        pure (o, s.putAreas i d m o none)
      | none =>
        let (o, f) := s.solveGo d m h adj rn (ps.map (·.2))
        pure (o, s.putAreas i d m o f)

/-- R339, R343: the cores that a solve runs on. A member whose part is empty takes no part. -/
def State.solveCores (s : State) (i : IfaceId) (d : SDesc) : List CoreRef := (s.solveParts i d).map (·.1)

/-- R343, R344: cores show that their Iron has halted, in the phase in which it did (log 64). -/
def State.haltIron (s : State) (cs : List CoreRef) (phase : BitVec 3) : State :=
  s.updIron cs fun _ x => { x with state := 2, phase := phase }

/-- A solver command that its own descriptor stops has failed in phase 1: the Iron that read it shows which command it was. -/
def State.refuseSolve (s : State) (i : IfaceId) (c : BitVec 256) (r : CoreRef) : State :=
  ((s.haltIron [r] 1).updIron [r] fun _ x => { x with adj := cmdOp c == 0x41, desc := BitVec.ofNat 64 (cmdAddr c) }).beginLost i .exe c

/-- R341: a solver command begins: its descriptor is read and checked, and it runs to its last phase. IRN_STATUS shows the
phases one after the other as time passes (`State.tickIron`, log 64). -/
def State.solveBegin (s : State) (i : IfaceId) (c : BitVec 256) (r : CoreRef) : Act State := do
  let a := s.headAt i .exe c
  let adj := cmdOp c == 0x41
  match s.denied i false .read (cmdAddr c) 256 with
  | some e => throw ((s.haltDenied a false (.iron r) (s.logNo r) e).refuseSolve i c r)
  | none => pure ()
  let d : SDesc := BitVec.ofNat 2048 (s.natAt (cmdAddr c) 256)
  if solveBad adj d then throw ((s.halt a false Code.badCommand (.iron r) []).refuseSolve i c r)
  let cs := s.solveCores i d
  let iter := ((s.jobOf i).map (·.iter)).getD 0
  let seed := ((s.jobOf i).map Job.seed).getD 0
  let s := (s.touchAll i [(.fetch, cmdAddr c, 256)]).beginFlight i .exe c
  let s := s.updIron cs fun _ x => { x with state := 1, phase := 1, adj := adj, iter := 0, desc := BitVec.ofNat 64 (cmdAddr c) }
  let (o, s) ← if SDesc.n d = 0 then pure ({ codes := [Code.irnEmpty], reason := 4, phase := 1 }, s) else
    (s.solveRun i a r d adj (SDesc.xRnd d seed iter.toNat)).mapError fun s => s.haltIron cs 2
  let s := s.updIron cs fun _ x => { x with
    iter := BitVec.ofNat 32 o.iters, res := o.resNorm.getD x.res, last := BitVec.ofNat 3 o.phase }
  pure (s.updIfc i fun x => { x with solve := some { idx := a.idx, addr := BitVec.ofNat 64 (cmdAddr c), adj := adj, desc := d, iter := iter, out := o } })

/-- A solver command at the head of the execute stream begins once the Iron of every core it runs on is free, and no earlier
sub-command of its gang stands in a member's Bobbin (R253). -/
def State.solveCmd (s : State) (i : IfaceId) (c : BitVec 256) : State :=
  match s.engineCore i with
  | none => (s.beginFlight i .exe c).finish i .exe (s.headAt i .exe c).idx
  | some r =>
    if (s.ifc i).solve.isSome || (s.coresOf i).any fun k => (s.core k).iron.state == 1 || (s.core k).subsWait i then s else (s.solveBegin i c r).state

/-- R338: an ADJOINT whose descriptor names a mode; a reserved mode belongs to mode 0. -/
def State.isAdjoint (s : State) (mode : Nat) (c : BitVec 256) : Bool :=
  let m := fld (s.natAt (cmdAddr c) 4) 20 2
  cmdOp c == 0x41 && (if mode = 0 then m == 0 || m == 3 else m == mode)

/-- R341: SOLVE. -/
def execSolve (i : IfaceId) (s : State) : Out :=
  run (.solve i) s fun s => s.begin i .exe (isOp 0x40) fun c s => s.solveCmd i c

/-- R337, R338: ADJOINT in mode 0. -/
def execAdjoint (i : IfaceId) (s : State) : Out :=
  run (.adjoint i) s fun s => s.begin i .exe (s.isAdjoint 0) fun c s => s.solveCmd i c

/-- R338: ADJOINT in mode 1. -/
def execAdjointPattern (i : IfaceId) (s : State) : Out :=
  run (.adjointPattern i) s fun s => s.begin i .exe (s.isAdjoint 1) fun c s => s.solveCmd i c

/-- R213, R338: ADJOINT in mode 2. -/
def execPatternGradient (i : IfaceId) (s : State) : Out :=
  run (.patternGradient i) s fun s => s.begin i .exe (s.isAdjoint 2) fun c s => s.solveCmd i c

/-- R344: what PHASE reads while a solve runs: the phases of R341 one after the other, one at each idle tick, up to the one in which
its outcome is found (log 64). -/
def Core.tickIron (k : Core) : Core :=
  if k.iron.state = 1 ∧ k.iron.phase < k.iron.last then { k with iron := { k.iron with phase := k.iron.phase + 1 } } else k
def State.tickIron (s : State) : State :=
  { s with cores := s.cores.keys.foldl (fun t r => t.upd {} r Core.tickIron) s.cores }

/-- R578, R344: a solve that is stopped before its end leaves its Irons halted (log 64). -/
def State.dropSolve (s : State) (i : IfaceId) : State :=
  match (s.ifc i).solve with
  | none => s
  | some v =>
    let s := forEach (fun r (s : State) => s.haltIron [r] (s.core r).iron.phase) (s.solveCores i v.desc) s
    s.updIfc i fun x => { x with solve := none }

/-! ### The end of a solve (R213, R332, R335, R336) -/

/-- R335: x in X_FMT. -/
def solveX (d : SDesc) (seed iter : Nat) (x : List Int) : List Byte :=
  let f := fmtOf (SDesc.xFmt d)
  x.zipIdx.flatMap fun (n, k) =>
    let v := qVal (SDesc.w d) (SDesc.tagX d) n
    leBytes (f.width / 8) (f.cvt (SDesc.tagX d) (SDesc.xRnd d seed iter k) v).1

/-- R213: the pattern gradient from lambda and the forward solution. -/
def patternBytes (d : SDesc) (seed iter : Nat) (es : List Ent) (lam xf : Array FVal) : List Byte :=
  let f := fmtOf (SDesc.pgFmt d)
  es.zipIdx.flatMap fun (e, p) =>
    leBytes (f.width / 8) (f.cvt 0 (.spr (sprinkle seed iter (SDesc.tid d) (p % 2 ^ 48))) (mulN (numAt lam e.i) (numAt xf e.j)).neg).1

/-- R332: write the warm-start record. -/
def State.putWarm (s : State) (d : SDesc) (o : SolveOut) : State :=
  if SDesc.warm d = 0 then s
  else
    let h (v : Bool) : List Byte := bytesOf (headerWords d v (SDesc.tagX d) o.nnz o.hash 0 0)
    let s := s.put (SDesc.warmAddr d) ((h false).take 4)
    let s := s.put (SDesc.warmAddr d + 64) (qBytes (SDesc.w d) o.x)
    s.put (SDesc.warmAddr d) (h true)

/-- The values of the status record that the solve has come to; where it has not, they are free (log 6). -/
structure StatVals where
  res   : Nat
  bn    : Nat
  vec   : Nat
  at_   : Nat
  index : Nat
  first : Nat

/-- A value, or a fresh free one of `w` bits. -/
def State.orFree (s : State) (w : Nat) (x : Option Nat) : Nat × State :=
  match x with
  | some v => (v, s)
  | none => let (f, s) := s.fresh; (fld f.toNat 0 w, s)

/-- Take the status values of an outcome. -/
def State.statVals (s : State) (o : SolveOut) : StatVals × State :=
  let (r, s) := s.orFree 64 (o.resNorm.map BitVec.toNat)
  let (b, s) := s.orFree 64 (o.bNorm.map BitVec.toNat)
  let (v, s) := s.orFree 4 (o.breach.map (·.1))
  let (t, s) := s.orFree 32 (o.breach.map (·.2))
  let (i, s) := s.orFree 32 o.index
  let (f, s) := s.orFree 32 o.pivFirst
  ({ res := r, bn := b, vec := v, at_ := t, index := i, first := f }, s)

/-- R336: write the status record. -/
def State.putStat (s : State) (d : SDesc) (o : SolveOut) (code : BitVec 16) (pg : Bool) (v : StatVals) : State :=
  let w0 := code.toNat + o.reason * 2 ^ 16 + b2n o.warmUsed * 2 ^ 19 + b2n (decide (o.warmReason ≠ 0)) * 2 ^ 20
    + b2n (decide (o.pivCount ≠ 0)) * 2 ^ 21 + b2n pg * 2 ^ 22 + b2n o.factReused * 2 ^ 23 + o.warmReason * 2 ^ 24
  s.put (SDesc.stat d) (bytesOf [w0, o.iters, fld v.res 0 32, fld v.res 32 32, fld v.bn 0 32, fld v.bn 32 32, v.vec, v.at_,
    v.index, o.pivCount, v.first, 0, 0, 0, 0, 0])

/-- The stored entries of a solve's matrix, read again for the pattern gradient: at most the `nnz` entries that the structural
pass counted, so that a ROWPTR changed since then moves no write beyond the gradient's buffer (R318). -/
def State.patternEnts (s : State) (d : SDesc) (nnz : Nat) : List Ent :=
  let ptr := s.wordsAt (SDesc.rowPtr d) (SDesc.ptrRows d + 1)
  (buildMat d ptr (s.wordsAt (SDesc.colIdx d) (Nat.min (nnz / SDesc.perEnt d) (nth ptr (SDesc.ptrRows d) 0))) []).ents.take nnz

/-- Steps 1 and 2 of R335 for a valid result: x or the pattern gradient, and the warm-start record. -/
def State.putResult (s : State) (i : IfaceId) (v : Solve) : State :=
  let d : SDesc := v.desc
  let seed := ((s.jobOf i).map Job.seed).getD 0
  let n := SDesc.n d
  let lam : List FVal := if SDesc.solves d then v.out.x.map (qVal (SDesc.w d) (SDesc.tagX d))
    else s.vecAt (SDesc.xFmt d) (SDesc.tagX d) (SDesc.x d) n
  let s := if SDesc.solves d then
      let bs := solveX d seed v.iter.toNat v.out.x
      (s.put (SDesc.x d) bs).touchAll i [(.write, SDesc.x d, bs.length)]
    else s
  let s := if SDesc.pattern d then
      let xf := s.vecAt (SDesc.xfFmt d) (SDesc.tagX d) (SDesc.xf d) n
      let bs := patternBytes d seed v.iter.toNat (s.patternEnts d v.out.nnz) lam.toArray xf.toArray
      (s.put (SDesc.pg d) bs).touchAll i [(.write, SDesc.pg d, bs.length)]
    else s
  if SDesc.solves d ∧ SDesc.warm d ≠ 0 then
    (s.putWarm d v.out).touchAll i [(.write, SDesc.warmAddr d, 64 + n * SDesc.eb d)]
  else s

/-- R345, R556: the arguments of an Iron code. -/
def ironArgs (v : Solve) (x : StatVals) : List Nat := [fld v.addr.toNat 0 32, fld v.addr.toNat 32 32, x.index, x.vec, x.at_]

/-- R335: a solve ends: its writes, its flags and its codes; an error under HALT_ON_ERR halts the interface. Mode 2 does not
read HALT_ON_ERR (R338). The code that halts carries Iron's arguments (R345, log 65). -/
def State.solveEnd (s : State) (i : IfaceId) (v : Solve) : State :=
  let d : SDesc := v.desc
  let o := v.out
  let code := mergeCodes o.codes
  let err := isError code
  let c := (s.engineCore i).getD 0
  let cs := s.solveCores i d
  let tag := ((s.flightOf i .exe v.idx).map fun f => cmdTag f.cmd).getD 0
  let empty := decide (SDesc.n d = 0)
  let halts := err && SDesc.solves d && SDesc.haltOnErr d
  let s := s.updIfc i fun x => { x with solve := none }
  let s := if halts then s.haltIron cs 6 else s.updIron cs fun _ x => { x with state := 0, phase := 0 }
  let s := if err || empty then s else s.putResult i v
  let (vals, s) := s.statVals o
  let s := if empty then s else
    (s.putStat d o code (!err && SDesc.pattern d) vals).touchAll i [(.write, SDesc.stat d, 64)]
  let told := if halts then o.codes.filter fun x => !isError x else o.codes
  let s := forEach (fun x (s : State) => s.raiseFor (.iron c) x i (ironArgs v vals)) told s
  if halts then (s.loseFlight i .exe v.idx).haltWith ⟨i, .exe, v.idx, tag⟩ false code (.iron c) (ironArgs v vals)
  else
    let conv := !err && (decide (o.reason = 0) || decide (o.reason = 4))
    let ps := (SDesc.predOk d, !err) :: if SDesc.solves d then [(SDesc.predConv d, conv)] else []
    s.updFlight i .exe v.idx fun f => { f with fin := true, preds := ps }

/-- R335: SOLVE_END. -/
def execSolveEnd (i : IfaceId) (s : State) : Out :=
  run (.solveEnd i) s fun s => match (s.ifc i).solve with
    | some v => if (s.coresOf i).any fun r => s.darns (.iron r) then s else s.solveEnd i v
    | none => s

end Sys2Proof.Machine
end

