-- ==== Sys2Proof/Machine/CollDesc.lean ====
section
/-! DEFINITION. The collective descriptor, the participants and parts of an operation, and its units: how a unit is
read, summed, rounded, escalated, packed into packets and written (R421, R425 to R439). -/

namespace Sys2Proof.Machine

/-! ### The descriptor (R425) -/

/-- A collective descriptor. -/
abbrev CDesc := BitVec 1024

def CDesc.word (d : CDesc) (k : Nat) : Nat := wordAt d.toNat k
def CDesc.op (d : CDesc) : Nat := fld (CDesc.word d 0) 0 3
def CDesc.scope (d : CDesc) : Nat := fld (CDesc.word d 0) 4 2
def CDesc.trig (d : CDesc) : Bool := bitOf (CDesc.word d 0) 6
def CDesc.role (d : CDesc) : Nat := fld (CDesc.word d 0) 8 2
def CDesc.handoff (d : CDesc) : Bool := bitOf (CDesc.word d 0) 10
def CDesc.fmtCode (d : CDesc) : Nat := fld (CDesc.word d 0) 16 5
def CDesc.fmt (d : CDesc) : Fmt := fmtOf (CDesc.fmtCode d)
def CDesc.count (d : CDesc) : Nat := CDesc.word d 1
def CDesc.rowBytes (d : CDesc) : Nat := fld (CDesc.word d 2) 0 12
def CDesc.cap (d : CDesc) : Nat := fld (CDesc.word d 2) 16 16
def CDesc.deadline (d : CDesc) : Nat := fld (CDesc.word d 3) 0 24
def CDesc.tid (d : CDesc) : Nat := CDesc.word d 4
def CDesc.buddy (d : CDesc) : Nat := fld (CDesc.word d 5) 0 14
def CDesc.partner (d : CDesc) : Nat := fld (CDesc.word d 5) 16 14
def CDesc.idxBase (d : CDesc) : Nat := fld (dwordAt d.toNat 6) 0 48
/-- Doubleword `k` of the twelve address fields. -/
def CDesc.addr (d : CDesc) (k : Nat) : Nat := dwordAt d.toNat (8 + 2 * k)
def CDesc.src (d : CDesc) : Nat := CDesc.addr d 0
def CDesc.srcScale (d : CDesc) : Nat := CDesc.addr d 1
def CDesc.dst (d : CDesc) : Nat := CDesc.addr d 2
def CDesc.dstScale (d : CDesc) : Nat := CDesc.addr d 3
def CDesc.agreed (d : CDesc) : Nat := CDesc.addr d 4
def CDesc.stage (d : CDesc) : Nat := CDesc.addr d 5
def CDesc.stageSize (d : CDesc) : Nat := CDesc.addr d 6
def CDesc.handoffAddr (d : CDesc) : Nat := CDesc.addr d 7
def CDesc.bk (d : CDesc) : Nat := CDesc.addr d 8
def CDesc.route (d : CDesc) : Nat := CDesc.addr d 9
def CDesc.counts (d : CDesc) : Nat := CDesc.addr d 10
def CDesc.stat (d : CDesc) : Nat := CDesc.addr d 11

/-- A block-scaled FMT. -/
def CDesc.mx (d : CDesc) : Bool := (CDesc.fmt d).isMx && decide (CDesc.op d ≠ 3)

/-- R244, R448: the length of an operation. -/
def CDesc.length (d : CDesc) : Nat := if CDesc.op d = 3 then CDesc.cap d else CDesc.count d

/-- Bytes of a unit's elements in an array (R78, R428). -/
def CDesc.unitBytes (d : CDesc) : Nat := if CDesc.mx d then 4 * (CDesc.fmt d).width else (CDesc.fmt d).width / 8

/-- Elements of a unit. -/
def CDesc.lanes (d : CDesc) : Nat := if CDesc.mx d then 32 else 1

/-! ### CRC-32 and DIGEST (R393, R421) -/

/-- One bit of the reflected CRC-32. -/
def crcBit (c : Nat) : Nat := if c % 2 = 1 then (c / 2) ^^^ 0xEDB88320 else c / 2

/-- CRC-32 of IEEE 802.3 over bytes. -/
def crc32 (bs : List Byte) : Nat :=
  (bs.foldl (fun c b => (upto 8).foldl (fun c _ => crcBit c) (c ^^^ b.toNat)) 0xFFFFFFFF) ^^^ 0xFFFFFFFF

/-- R421: DIGEST. -/
def CDesc.digest (d : CDesc) : Nat :=
  let tail := if CDesc.op d = 3 then CDesc.cap d + CDesc.rowBytes d * 2 ^ 16 else CDesc.count d
  crc32 (leBytes 4 (CDesc.op d + CDesc.scope d * 2 ^ 8 + CDesc.fmtCode d * 2 ^ 16) ++ leBytes 4 tail)

/-! ### Participants and parts (R387, R427, R428) -/

/-- R410: the sizes of the torus in effect; 1 where none is. -/
def sizesOf (r : Option RouteTable) : Nat × Nat × Nat :=
  let w := ((r.map fun r => r.dims.toNat)).getD 0
  (Nat.max 1 (fld w 0 7), Nat.max 1 (fld w 8 7), Nat.max 1 (fld w 16 7))
def State.dims (s : State) : Nat × Nat × Nat := sizesOf s.fab.rt

/-- Coordinates of a node (R387). -/
structure Coord where
  slot : Nat
  x    : Nat
  y    : Nat
  z    : Nat
  deriving DecidableEq, Repr

/-- R387: coordinates of a node ID for torus sizes. -/
def coordOf (dim : Nat × Nat × Nat) (n : Nat) : Coord :=
  let t := n / 8
  { slot := n % 8, x := t % dim.1, y := t / dim.1 % dim.2.1, z := t / (dim.1 * dim.2.1) }

/-- R387: the node ID at coordinates. -/
def nodeAt (dim : Nat × Nat × Nat) (c : Coord) : Nat := 8 * (c.x + dim.1 * (c.y + dim.2.1 * c.z)) + c.slot

/-- What an operation needs of the topology: torus sizes and this device's place. -/
structure Topo where
  dim  : Nat × Nat × Nat
  node : Nat
  deriving DecidableEq, Repr

def Topo.me (t : Topo) : Coord := coordOf t.dim t.node

/-- XS of the X stages; 1 where the scope has none (R430). -/
def Topo.ring (t : Topo) (d : CDesc) : Nat := if CDesc.scope d = 1 then 1 else t.dim.1

/-- The X coordinate within the X stages. -/
def Topo.pos (t : Topo) (d : CDesc) : Nat := if CDesc.scope d = 1 then 0 else t.me.x

/-- The logical node of another slot of the hem group, at another x, and at another z. -/
def Topo.atSlot (t : Topo) (k : Nat) : Nat := nodeAt t.dim { t.me with slot := k }
def Topo.atX (t : Topo) (x : Nat) : Nat := nodeAt t.dim { t.me with x := x }
def Topo.atZ (t : Topo) (z : Nat) : Nat := nodeAt t.dim { t.me with z := z }

/-- The hem stages belong to scopes 0 and 1 (R427). -/
def hasHem (d : CDesc) : Bool := decide (CDesc.scope d ≠ 2)

/-- R428: hem shard `k`, as (begin, size). -/
def CDesc.shard (d : CDesc) (k : Nat) : Nat × Nat := nth (parts (CDesc.count d) 8) k (0, 0)

/-- R428: the units that this device's X stages divide: its own shard, or all. -/
def Topo.shard (t : Topo) (d : CDesc) : Nat × Nat := if hasHem d then CDesc.shard d t.me.slot else (0, CDesc.count d)

/-- R428: part `p` of those units. -/
def Topo.part (t : Topo) (d : CDesc) (p : Nat) : Nat × Nat :=
  let b := t.shard d
  let q := nth (parts b.2 (t.ring d)) p (0, 0)
  (b.1 + q.1, q.2)

/-- R428: the own part. -/
def Topo.own (t : Topo) (d : CDesc) : Nat × Nat := t.part d (t.pos d)

/-- (x - h) mod n. -/
def backBy (x h n : Nat) : Nat := (x + (n - h % n)) % n

/-- The units of a part. -/
def unitsOf (p : Nat × Nat) : List Nat := rangeFrom p.1 p.2

/-- A unit lies in a part. -/
def inPart (p : Nat × Nat) (u : Nat) : Bool := decide (p.1 ≤ u) && decide (u < p.1 + p.2)

/-- R427, R448: the other participants of an operation. -/
def Topo.others (t : Topo) (d : CDesc) : List Nat :=
  let all := if CDesc.op d = 3 then (upto t.dim.2.2).map t.atZ
    else match CDesc.scope d with
      | 0 => (upto t.dim.1).flatMap fun x => (upto 8).map fun k => nodeAt t.dim { t.me with x := x, slot := k }
      | 1 => (upto 8).map t.atSlot
      | _ => (upto t.dim.1).map t.atX
  all.filter fun n => n != t.node

/-- R429, R445: the units that SRC holds: all, or for an all-gather the own part. -/
def Topo.srcUnits (t : Topo) (d : CDesc) : Nat × Nat := if CDesc.op d = 2 then t.own d else (0, CDesc.count d)

/-- R429: the units that DST receives: all, or for a reduce-scatter the own part. -/
def Topo.dstUnits (t : Topo) (d : CDesc) : Nat × Nat := if CDesc.op d = 1 then t.own d else (0, CDesc.count d)

/-- R430: units that other participants send to this device. -/
def Topo.owed (t : Topo) (d : CDesc) : Nat :=
  let n := t.ring d
  let x := t.pos d
  let all := (t.shard d).2
  let hemRs := if hasHem d then 7 * all else 0
  let xRs := all - (t.part d (backBy x 1 n)).2
  let xAg := all - (t.own d).2
  let hemAg := if hasHem d then CDesc.count d - all else 0
  let rs := if n = 1 then hemRs else hemRs + xRs
  let ag := hemAg + xAg
  match CDesc.op d with
  | 0 => rs + ag
  | 1 => rs
  | _ => ag

/-! ### Reserved encodings (R422, R425, R426) -/

/-- Two ranges of bytes meet. -/
def meets (a n b m : Nat) : Bool := decide (0 < n) && decide (0 < m) && decide (a < b + m) && decide (b < a + n)

/-- R426: the smallest STAGE_SIZE. -/
def CDesc.minStage (d : CDesc) (zs : Nat) : Nat :=
  let k := 2 ^ 10
  match CDesc.role d with
  | 2 => 0
  | r => (if r = 1 then 256 * k else 0) + match CDesc.op d, CDesc.scope d with
    | 3, _ => (zs - 1) * 256 * k
    | _, 0 => 4096 * k
    | _, 1 => 3584 * k
    | _, _ => 512 * k

/-- R426: the staging area lies in one Cupboard explicit region. -/
def State.stageGood (s : State) (d : CDesc) : Bool :=
  let a := CDesc.stage d
  let n := CDesc.stageSize d
  decide (a % 4096 = 0) && decide (n % 4096 = 0) && (decide (n = 0) ||
    (decide (cupbBase ≤ a) && let o := a - cupbBase
      decide (o / 2 ^ 32 < 4) && decide (o % 2 ^ 32 + n ≤ s.ways (o / 2 ^ 32) * 2 ^ 28)))

/-- R429: SRC and DST overlap in a way that is reserved. -/
def Topo.overlapBad (t : Topo) (d : CDesc) : Bool :=
  let (sn, dn) := if CDesc.op d = 3 then (CDesc.count d * CDesc.rowBytes d, t.dim.2.2 * CDesc.cap d * CDesc.rowBytes d)
    else ((t.srcUnits d).2 * CDesc.unitBytes d, (t.dstUnits d).2 * CDesc.unitBytes d)
  meets (CDesc.src d) sn (CDesc.dst d) dn && !(match CDesc.op d with
    | 0 => decide (CDesc.dst d = CDesc.src d)
    | 2 => decide (CDesc.src d = CDesc.dst d + (t.own d).1 * CDesc.unitBytes d)
    | _ => false)

/-- R425: the FMT codes of each OP. -/
def CDesc.fmtGood (d : CDesc) : Bool :=
  let f := CDesc.fmtCode d
  match CDesc.op d with
  | 0 | 1 => decide (f ≤ 3) || f == 6 || f == 7 || f == 0xB
  | 2 => decide (f ≤ 0xD)
  | _ => f == 0

/-- R422, R425, R426, R456: a collective descriptor carries a reserved encoding. -/
def State.collBad (s : State) (t : Topo) (bcNeed : Nat) (d : CDesc) : Bool :=
  let w := CDesc.word d
  decide (3 < CDesc.op d) || !zeroBits (w 0) 3 1 || !zeroBits (w 0) 7 1 || !zeroBits (w 0) 11 5 || !zeroBits (w 0) 21 11
  || CDesc.scope d == 3 || CDesc.role d == 3 || !CDesc.fmtGood d
  || !zeroBits (w 2) 12 4 || !zeroBits (w 3) 24 8 || !zeroBits (w 5) 14 2 || !zeroBits (w 5) 30 2 || !zeroBits (w 7) 16 16
  || (CDesc.op d == 3 && (decide (CDesc.scope d ≠ 0) || decide (CDesc.role d ≠ 0)
      || decide (CDesc.rowBytes d % 32 ≠ 0) || decide (CDesc.rowBytes d < 32) || decide (4032 < CDesc.rowBytes d)))
  || (CDesc.role d == 2 && !CDesc.trig d) || (CDesc.trig d && decide (bcNeed = 0))
  || [0, 1, 2, 3, 4, 5, 8, 9, 10, 11].any (fun k => !plainDev (CDesc.addr d k))
  || !s.stageGood d || decide (CDesc.stageSize d < CDesc.minStage d t.dim.2.2)
  || decide (CDesc.stat d % 64 ≠ 0) || t.overlapBad d

/-! ### Units (R432 to R435) -/

/-- The narrow elements of a unit. -/
def CUnit.elems (d : CDesc) (c : CUnit) : List Nat :=
  (upto (CDesc.lanes d)).map fun j => fld c.bits.toNat ((CDesc.fmt d).width * j) (CDesc.fmt d).width

/-- The exact values of a unit. -/
def CUnit.vals (d : CDesc) (c : CUnit) : List FVal :=
  if c.esc then (upto 32).map fun j => flt32.dec (wordAt c.bits.toNat j)
  else if CDesc.mx d then (c.elems d).map (mxVal (CDesc.fmt d) c.scale.toNat)
  else (c.elems d).map ((CDesc.fmt d).dec 0)

/-- A unit with narrow elements. -/
def CUnit.narrow (d : CDesc) (scale : Nat) (es : List Nat) : CUnit :=
  { esc := false, scale := BitVec.ofNat 8 scale, bits := BitVec.ofNat 1024 (packElems (CDesc.fmt d).width 0 es) }

/-- A rounded unit: the unit, its counts of conditions, and whether it escalates here. -/
structure Rounded where
  unit : CUnit
  inv  : Nat := 0
  ovf  : Nat := 0
  up   : Bool := false

/-- R433: exact sums as FP32 values. -/
def roundWide (vs : List FVal) : CUnit × Nat :=
  let r := vs.map (flt32.cvt .rne)
  ({ esc := true, scale := 0, bits := BitVec.ofNat 1024 (packElems 32 0 (r.map (·.1))) }, (r.filter (·.2.ovf)).length)

/-- R432, R433: one exact sum on the element grid of the agreed scale: its bits, and whether it overflows. An infinity
of MXFP8 E5M2 stays one (R435). -/
def gridElem (f : Fmt) (k : Int) (v : FVal) : Nat × Bool :=
  match f, v, f.flt with
  | .mx8e5, .inf n, some l => (l.infBits n, false)
  | _, _, _ => mxElem f .rne (v.scale (-k))

/-- R431 to R435: round exact sums into a unit. `esc` says that a contribution is escalated. -/
def roundUnit (d : CDesc) (agreed : Nat) (esc : Bool) (sums : List (FVal × Bool)) : Rounded :=
  let inv := (sums.filter (·.2)).length
  let vs := sums.map (·.1)
  if CDesc.mx d then
    if vs.any FVal.isNan then { unit := .narrow d 0xFF [], inv := inv }
    else match e8m0 agreed with
      | none => { unit := .narrow d 0xFF [], inv := inv }
      | some k =>
        let r := vs.map (gridElem (CDesc.fmt d) k)
        if esc || r.any (·.2) then
          let (u, o) := roundWide vs
          { unit := u, inv := inv, ovf := o, up := !esc }
        else { unit := .narrow d agreed (r.map (·.1)), inv := inv }
  else
    let r := vs.map ((CDesc.fmt d).cvt 0 .rne)
    { unit := .narrow d 0 (r.map (·.1)), inv := inv, ovf := (r.filter (·.2.ovf)).length }

/-- The exact sums of contributions, element by element. -/
def sumUnits (d : CDesc) (cs : List (List FVal)) : List (FVal × Bool) :=
  (upto (CDesc.lanes d)).map fun j => sumNums (cs.map fun c => nth c j FVal.zero)

/-- A unit as the bytes of a payload (R438). -/
def CUnit.bytes (d : CDesc) (c : CUnit) : List Byte :=
  if c.esc then leBytes 128 c.bits.toNat
  else if CDesc.mx d then c.scale :: leBytes (CDesc.unitBytes d) c.bits.toNat
  else leBytes (CDesc.unitBytes d) c.bits.toNat

/-- The units of a payload: `n` of them, the first at bit 0 of ESC; none where the payload is of another length. -/
def readUnits (d : CDesc) : Nat → Nat → List Byte → Option (List CUnit)
  | 0, _, bs => if bs.isEmpty then some [] else none
  | n + 1, esc, bs =>
    let e := CDesc.mx d && bitOf esc 0
    let len := if e then 128 else CDesc.unitBytes d + b2n (CDesc.mx d)
    if bs.length < len then none
    else
      let h := bs.take len
      let c : CUnit :=
        if e then { esc := true, scale := 0, bits := BitVec.ofNat 1024 (leNat h) }
        else if CDesc.mx d then { esc := false, scale := h.headD 0, bits := BitVec.ofNat 1024 (leNat h.tail) }
        else { esc := false, scale := 0, bits := BitVec.ofNat 1024 (leNat h) }
      (readUnits d n (esc / 2) (bs.drop len)).map (c :: ·)

/-- R434: a received unit as it is written: its scale byte, its element bytes, whether it was escalated, and OVERFLOW
of its conversion. -/
def CUnit.final (d : CDesc) (seed iter u : Nat) (c : CUnit) : Nat × List Byte × Bool :=
  if c.esc then
    let rns := (upto 32).map fun j => Rnd.spr (sprinkle seed iter (CDesc.tid d) (CDesc.idxBase d + 32 * u + j))
    let b := mxConvert (CDesc.fmt d) none rns (c.vals d)
    (b.scale, leBytes (CDesc.unitBytes d) (packElems (CDesc.fmt d).width 0 b.elems), b.ovf)
  else (c.scale.toNat, leBytes (CDesc.unitBytes d) c.bits.toNat, false)

/-! ### Packing (R438) -/

/-- A unit on its way: peer (logical node), stage, hop, index, and its bytes with the ESC bit. -/
structure Emit where
  peer  : Nat
  stage : Nat
  hop   : Nat
  unit  : Nat
  esc   : Bool
  bytes : List Byte
  deriving DecidableEq, Repr

/-- A packet being packed: where it goes, its first unit, and its units. -/
structure Packing where
  peer  : Nat
  stage : Nat
  hop   : Nat
  first : Nat
  units : Nat
  esc   : Nat
  data  : List Byte
  deriving DecidableEq, Repr

/-- R438: whether a unit joins a packet. -/
def Packing.takes (mx : Bool) (p : Packing) (e : Emit) : Bool :=
  p.peer == e.peer && p.stage == e.stage && p.hop == e.hop && p.first + p.units == e.unit
  && decide (p.data.length + e.bytes.length ≤ 4032) && (!mx || decide (p.units < 128))

/-- R438: pack units in the order given. -/
def packUnits (mx : Bool) (l : List Emit) : List Packing :=
  (l.foldl (fun (acc : List Packing) e =>
    let fresh : Packing := { peer := e.peer, stage := e.stage, hop := e.hop, first := e.unit, units := 1, esc := b2n e.esc, data := e.bytes }
    match acc with
    | p :: r => if p.takes mx e then
        { p with units := p.units + 1, esc := p.esc + b2n e.esc * 2 ^ p.units, data := p.data ++ e.bytes } :: r
      else fresh :: acc
    | [] => [fresh]) []).reverse

/-- Units grouped by where they go, first destinations first. -/
def groupEmits (l : List Emit) : List Emit :=
  (dedup (l.map fun e => (e.peer, e.stage, e.hop))).flatMap fun k => l.filter fun e => (e.peer, e.stage, e.hop) == k

end Sys2Proof.Machine
end

