-- ==== Sys2Proof/Machine/Coll.lean ====
section
/-! DEFINITION. The collective units: beginning a COLL, the stages of a reduction, expert exchange, backup workers,
handoff and spill, failure and completion (R417 to R424, R429 to R456). The rows that a packet drives are in
CollPackets. -/

namespace Sys2Proof.Machine

/-! ### Channels and operations (R417 to R420) -/

/-- A channel. -/
def State.chan (s : State) (ch : Nat) : Chan := s.chans.get {} ch

/-- Change a channel. -/
def State.updChan (s : State) (ch : Nat) (f : Chan → Chan) : State := { s with chans := s.chans.upd {} ch f }

/-- Replace the operation of a sequence number. -/
def State.setOp (s : State) (ch : Nat) (o : COp) : State :=
  s.updChan ch fun c => { c with ops := c.ops.map fun x => if x.seq = o.seq then o else x }

/-- The topology an operation was begun in. -/
def State.topoOf (s : State) (o : COp) : Topo := { dim := s.dims, node := o.node.toNat }

/-- For a backup worker the operation's parts are its primary's (R445). -/
def State.partsTopo (s : State) (o : COp) : Topo :=
  if CDesc.role o.desc = 2 then { dim := s.dims, node := CDesc.partner o.desc } else s.topoOf o

/-- The place of a COLL for codes that name it. -/
def COp.place (o : COp) : At := ⟨o.owner, .acc, o.idx, o.tag.toNat⟩

/-- An operation notes a code of its own: its status record and its channel keep it, and Lint takes it (R460). -/
def State.collRaise (s : State) (ch : Nat) (o : COp) (code : BitVec 16) (args : List Nat) : State × COp :=
  (s.raiseFor (.coll ch) code o.owner ([ch, o.seq.toNat] ++ args), { o with code := mergeCode o.code code })

/-- A control packet of an operation to a logical node, with the physical node (R439). -/
def State.ctrlPacket (s : State) (ch : Nat) (o : COp) (ctype peer w7 : Nat) : Option (Nat × Packet) :=
  (s.physOfNode peer).map fun p =>
    (p, mkPacket 0x31 p s.physNode (s.keyOf o.owner).toNat 0 ctype 0 false [ch, o.seq.toNat, CDesc.digest o.desc, w7] [])

/-- A control packet of an operation goes to a logical node (R439). -/
def State.collCtrl (s : State) (ch : Nat) (o : COp) (ctype peer w7 : Nat) : State :=
  match s.ctrlPacket ch o ctype peer w7 with
  | none => s
  | some p => s.inject p.2

/-- CTYPE (R439). -/
def ctCredit : Nat := 0
def ctCount : Nat := 1
def ctBackupDone : Nat := 2
def ctAlive : Nat := 3
def ctAbort : Nat := 4

/-- R454, R455: those whom ALIVE and ABORT reach: the other participants; for a backup worker, its primary. -/
def State.collPeers (s : State) (o : COp) : List Nat :=
  if CDesc.role o.desc = 2 then [CDesc.partner o.desc] else (s.topoOf o).others o.desc

/-! ### Sending (R438, R440) -/

/-- R440: credits for each receiver and stage. -/
def collSlots : Nat := 64

/-- A packed packet of an operation. -/
def State.dataPacket (s : State) (ch : Nat) (o : COp) (phys : Nat) (p : Packing) : Packet :=
  mkPacket 0x30 phys s.physNode (s.keyOf o.owner).toNat 0 0 0 false
    [ch + p.stage * 2 ^ 4 + p.hop * 2 ^ 8, o.seq.toNat, CDesc.digest o.desc, p.first, p.units,
     wordAt p.esc 0, wordAt p.esc 1, wordAt p.esc 2, wordAt p.esc 3] p.data

/-- Whether a packet for a peer and stage may go: a credit is held (R440). -/
def COp.mayGo (o : COp) (w : Nat × Nat × Packet) : Bool := decide (o.out.get 0 (8 * w.1 + w.2.1) < collSlots)

/-- A packet goes, and takes its credit. -/
def State.sendPacket (s : State) (o : COp) (w : Nat × Nat × Packet) : State × COp :=
  (s.inject w.2.2, { o with out := o.out.upd 0 (8 * w.1 + w.2.1) (· + 1), prog := s.hif.time.toNat })

/-- R440: send packets that hold a credit and that no packet for the same peer and stage waits before; the others wait. -/
def sendAll : List (Nat × Nat × Packet) → State × COp → State × COp
  | [], x => x
  | w :: r, (s, o) =>
    if o.mayGo w && !(o.stalled.any fun v => v.1 == w.1 && v.2.1 == w.2.1) then sendAll r (s.sendPacket o w)
    else sendAll r (s, { o with stalled := o.stalled ++ [w] })

/-- R451: bytes of SRC that were read at the start of an operation and wait in the spill region for their packets to go: no more
than the waiting packets carry (log 35). -/
def COp.waits (o : COp) : Nat := Nat.min o.early ((o.stalled.map fun w => w.2.2.payload.length).sum)

/-- R417: the oldest waiting packet that holds a credit goes. -/
def State.sendNext (s : State) (o : COp) : State × COp := match o.stalled.find? o.mayGo with
  | some w =>
    let o := { o with stalled := o.stalled.eraseP o.mayGo }
    s.sendPacket { o with early := o.waits } w
  | none => (s, o)

/-- The packets that carry units. -/
def State.unitPackets (s : State) (ch : Nat) (o : COp) (l : List Emit) : List (Nat × Nat × Packet) :=
  (packUnits (CDesc.mx o.desc) (groupEmits l)).filterMap fun p =>
    (s.physOfNode p.peer).map fun n => (n, p.stage, s.dataPacket ch o n p)

/-! ### The turns of a unit's channels (R417) -/

/-- R417: the channels of a channel's unit. -/
def unitChans (ch : Nat) : List Nat := (upto 16).filter fun k => k % 4 == ch % 4

/-- R417: the channel whose turn it is among some of a unit: the one served longest ago, the lowest first. -/
def State.turnOf (s : State) (l : List Nat) : Option Nat :=
  l.find? fun k => l.all fun j => decide ((s.chan k).turn ≤ (s.chan j).turn)

/-- R417: a unit has served a channel. -/
def State.served (s : State) (ch : Nat) : State :=
  s.updChan ch fun c => { c with turn := 1 + (unitChans ch).foldl (fun m k => Nat.max m (s.chan k).turn) 0 }

/-- The oldest operation of a channel moves data and has a packet that may go. -/
def State.sends (s : State) (ch : Nat) : Bool := match (s.chan ch).ops with
  | o :: _ => decide (o.state = .moving) && o.stalled.any o.mayGo
  | [] => false

/-! ### Failure (R455, R456) -/

/-- Free bytes: what a buffer holds whose contents the spec leaves unspecified (log 14). -/
def State.putFree (s : State) (a : Nat) : Nat → State
  | 0 => s
  | n + 1 =>
    let (v, s) := s.fresh
    (s.putByte a (BitVec.ofNat 8 v.toNat)).putFree (a + 1) n

/-- Bytes that an operation may write at DST (R429, R449). -/
def Topo.dstBytes (t : Topo) (d : CDesc) : Nat :=
  if CDesc.role d = 2 then 0
  else if CDesc.op d = 3 then t.dim.2.2 * CDesc.cap d * CDesc.rowBytes d else (t.dstUnits d).2 * CDesc.unitBytes d

/-- R456: the status record. -/
def State.putCollStat (s : State) (o : COp) : State :=
  let busy := if o.movedAt = 0 ∧ o.state ≠ .moving then 0 else s.hif.time.toNat - o.movedAt
  s.put (CDesc.stat o.desc) (bytesOf
    [o.code.toNat + b2n (o.taken == some true) * 2 ^ 16 + b2n o.handed * 2 ^ 17 + b2n o.spilled * 2 ^ 18,
     o.seq.toNat, o.iter.toNat, o.escBlk, o.escDet, o.firstEsc.toNat, o.dropped, 0,
     fld o.hoFirst.toNat 0 32, fld o.hoFirst.toNat 32 32, fld busy 0 32, fld busy 32 32, 0, 0, 0, 0])

/-- R455: an operation fails: DST holds unspecified bytes, the status record is written, and the interface halts.
`tell` sends ABORT to the other participants; `halt` raises the code and halts. -/
def State.collFail (s : State) (ch : Nat) (o : COp) (code : BitVec 16) (tell : Bool) (halt : State → State) : State :=
  let s := if tell then forEach (fun n s => s.collCtrl ch o ctAbort n code.toNat) (s.collPeers o) s else s
  let n := if CDesc.length o.desc ≠ 0 then (s.topoOf o).dstBytes o.desc else 0
  let s := (s.putFree (CDesc.dst o.desc) n).putCollStat { o with code := mergeCode o.code code }
  let s := s.touchColl o.owner [(.write, CDesc.dst o.desc, n), (.write, CDesc.stat o.desc, 64)]
  let s := s.setOp ch { o with state := .failed, code := mergeCode o.code code, stalled := [], early := 0, spill := [], ahead := [] }
  halt (s.loseFlight o.owner .acc o.idx)

/-- R455: an operation fails with a code of this chapter. -/
def State.collFailCode (s : State) (ch : Nat) (o : COp) (code : BitVec 16) (tell : Bool) (block hop : Nat) : State :=
  s.collFail ch o code tell fun s => s.haltWith o.place false code (.coll ch) [ch, o.seq.toNat, block, hop]

/-- R455, R580, R581: an operation fails on a denied access. -/
def State.collFailDenied (s : State) (ch : Nat) (o : COp) (e : Denied) : State :=
  s.collFail ch o e.code true fun s => s.haltDenied o.place false (.coll ch) (s.engineNo o.owner) e

/-! ### A run over units -/

/-- What a step of an operation builds up: the state, the operation, units to send (newest first), control packets
that go after them under a credit, bytes for DST (newest first), and an access that failed. -/
structure CRun where
  s     : State
  o     : COp
  ch    : Nat
  emits : List Emit := []
  ctl   : List (Nat × Nat × Packet) := []
  puts  : List (Nat × List Byte) := []
  scs   : List (Nat × List Byte) := []
  stop  : Option Denied := none
  /-- the operation starts: what it reads waits in its first packets -/
  start : Bool := false

/-- R441, R451: the staging area beyond the slots is the spill region: its bytes, and those still free. -/
def spillRoom (t : Topo) (d : CDesc) : Nat := CDesc.stageSize d - CDesc.minStage d t.dim.2.2
def CRun.room (x : CRun) : Nat :=
  spillRoom (x.s.topoOf x.o) x.o.desc - ((x.o.spill ++ x.o.ahead).map fun w => w.2.length).sum
    - if x.start then x.o.early else x.o.waits

/-- R441: the unit writes `n` bytes somewhere in a part of the staging area; software can rely on neither place nor
contents, and both are free (log 35). -/
def State.stageWrite (s : State) (base size n : Nat) : State :=
  if size < n ∨ n = 0 then s
  else
    let (v, s) := s.fresh
    s.freeBytes (base + v.toNat % (size - n + 1)) n

/-- R441: a packet has lain in a slot of 4 KiB. -/
def State.slotWrite (s : State) (t : Topo) (d : CDesc) : State :=
  if CDesc.minStage d t.dim.2.2 = 0 then s
  else
    let (v, s) := s.fresh
    s.freeBytes (CDesc.stage d + v.toNat % (CDesc.minStage d t.dim.2.2 / 4096) * 4096) 4096

/-- R441, R451: `n` bytes have passed into the spill region. -/
def CRun.passSpill (x : CRun) (n : Nat) : CRun :=
  let d := x.o.desc
  let t := x.s.topoOf x.o
  { x with s := x.s.stageWrite (CDesc.stage d + CDesc.minStage d t.dim.2.2) (spillRoom t d) n, o := { x.o with spilled := true } }

/-- R452, R453: the stack to whose DST bytes a handoff applies: one that is critical, or whose bytes the operation has begun
to hand off. -/
def State.handsOff (s : State) (o : COp) (a : Nat) : Option Nat :=
  match stackOf a with
  | some st => if ((s.critical st && CDesc.handoff o.desc && (s.physOfNode (CDesc.buddy o.desc)).isSome) || o.hotOff.contains st)
      then some st else none
  | none => none

/-- R452: DST bytes at an offset go to the buddy. -/
def CRun.toBuddy (x : CRun) (st off : Nat) (bs : List Byte) : CRun :=
  let d := x.o.desc
  let first := !x.o.handed
  let o := if first then { x.o with handed := true, hoFirst := BitVec.ofNat 64 off } else x.o
  let o := if o.hotOff.contains st then o else { o with hotOff := o.hotOff ++ [st] }
  let (s, o) := if first then
      x.s.collRaise x.ch o Code.thermalHandoff [st, CDesc.buddy d, fld off 0 32, fld off 32 32]
    else (x.s, o)
  let b := CDesc.buddy d
  let s := s.askWrite o.owner o.idx (some (BitVec.ofNat 4 x.ch).toFin) b ((s.physOfNode b).getD 0) (CDesc.handoffAddr d + off) 0 bs
  { x with s := s.pump, o := { o with unacked := o.unacked + ceilDiv bs.length 4032 } }

/-- Bytes of DST reach memory. -/
def CRun.putMem (x : CRun) (a : Nat) (bs : List Byte) : CRun :=
  if x.stop.isSome || bs.isEmpty then x
  else match x.s.denied x.o.owner false .write a bs.length with
    | some e => { x with stop := some e }
    | none => { x with s := (x.s.put a bs).touchColl x.o.owner [(.write, a, bs.length)] }

/-- Bytes of DST at an offset, of one stack, reach memory, the buddy (R452), or, as far as it has room, the spill
region (R451). -/
def CRun.putPiece (x : CRun) (spillTo : Bool) (off : Nat) (bs : List Byte) : CRun :=
  if x.stop.isSome || bs.isEmpty then x
  else
    let a := CDesc.dst x.o.desc + off
    match x.s.handsOff x.o a with
    | some st => x.toBuddy st off bs
    | none =>
      if spillTo && x.s.onHot a then
        let (now, rest) := bs.splitAt x.room
        let x := if now.isEmpty then x
          else CRun.passSpill { x with o := { x.o with spill := x.o.spill ++ [(off, now)] } } now.length
        x.putMem (a + now.length) rest
      else x.putMem a bs

/-- Bytes from an address up, cut where a stack of HBM ends (R346): at most `n + 1` pieces, as offsets and bytes. -/
def stackPieces (a : Nat) : Nat → Nat → List Byte → List (Nat × List Byte)
  | 0, off, bs => [(off, bs)]
  | n + 1, off, bs =>
    let k := 2 ^ 36 - (a + off) % 2 ^ 36
    if bs.length ≤ k then [(off, bs)] else (off, bs.take k) :: stackPieces a n (off + k) (bs.drop k)

/-- Bytes of DST at an offset. -/
def CRun.putDst (x : CRun) (spillTo : Bool) (off : Nat) (bs : List Byte) : CRun :=
  (stackPieces (CDesc.dst x.o.desc) 8 off bs).foldl (fun x p => CRun.putPiece x spillTo p.1 p.2) x

/-- Neighbouring pieces joined, in order. -/
def joinPieces (l : List (Nat × List Byte)) : List (Nat × List Byte) :=
  (l.foldl (fun (acc : List (Nat × List Byte)) p => match acc with
    | q :: r => if q.1 + q.2.length = p.1 then (q.1, q.2 ++ p.2) :: r else p :: acc
    | [] => [p]) []).reverse

/-- Bytes of DST_SCALE reach memory. -/
def CRun.putScale (x : CRun) (off : Nat) (bs : List Byte) : CRun :=
  if x.stop.isSome then x
  else
    let a := CDesc.dstScale x.o.desc + off
    match x.s.denied x.o.owner false .write a bs.length with
    | some e => { x with stop := some e }
    | none => { x with s := (x.s.put a bs).touchColl x.o.owner [(.write, a, bs.length)] }

/-- What has been gathered is written and sent. At the start of an operation its packets wait, and the unit sends the first
(R417); packets that a consumed packet brings about go at once. -/
def CRun.flush (x : CRun) : CRun :=
  let x := (joinPieces x.puts.reverse).foldl (fun x p => CRun.putDst x true p.1 p.2) x
  let x := (joinPieces x.scs.reverse).foldl (fun x p => CRun.putScale x p.1 p.2) x
  let ks := x.s.unitPackets x.ch x.o x.emits.reverse ++ x.ctl
  let (s, o) := if x.start then x.s.sendNext { x.o with stalled := x.o.stalled ++ ks } else sendAll ks (x.s, x.o)
  { x with s := s, o := { o with prog := s.hif.time.toNat }, emits := [], ctl := [], puts := [], scs := [] }

/-- The end of a step of an operation: it is kept, or it fails. -/
def CRun.close (x : CRun) : State :=
  match x.stop with
  | none => let x := x.flush
    match x.stop with
    | none => x.s.setOp x.ch x.o
    | some e => x.s.collFailDenied x.ch x.o e
  | some e => x.s.collFailDenied x.ch x.o e

/-- A unit is on its way to a peer. -/
def CRun.emit (x : CRun) (peer stage hop u : Nat) (c : CUnit) : CRun :=
  { x with emits := { peer := peer, stage := stage, hop := hop, unit := u, esc := c.esc, bytes := c.bytes x.o.desc } :: x.emits }

/-- R434: a unit of the final result is written, as its narrow form or converted. -/
def CRun.write (x : CRun) (u : Nat) (c : CUnit) : CRun :=
  let d := x.o.desc
  let off := u - ((x.s.topoOf x.o).dstUnits d).1
  let seed := ((x.s.jobOf x.o.owner).map Job.seed).getD 0
  let (sc, bs, ovf) := c.final d seed x.o.iter.toNat u
  let o := if c.esc then
      { x.o with
        escBlk := x.o.escBlk + 1
        firstEsc := BitVec.ofNat 32 (Nat.min x.o.firstEsc.toNat u)
        conds := { x.o.conds with ovf := x.o.conds.ovf + b2n ovf } }
    else x.o
  { x with
    o := o
    puts := (off * CDesc.unitBytes d, bs) :: x.puts
    scs := if CDesc.mx d then (off, [BitVec.ofNat 8 sc]) :: x.scs else x.scs }

/-! ### Contributions and sums (R430 to R436) -/

/-- Where a unit of SRC is read: the elements' address and the scale byte's (R446). -/
def Topo.srcPlace (t : Topo) (o : COp) (u : Nat) : Nat × Nat :=
  let d := o.desc
  let k := u - (t.srcUnits d).1
  let n := (t.srcUnits d).2 * CDesc.unitBytes d
  if o.taken = some true ∧ CDesc.role d = 1 then (CDesc.bk d + k * CDesc.unitBytes d, CDesc.bk d + n + k)
  else (CDesc.src d + k * CDesc.unitBytes d, CDesc.srcScale d + k)

/-- A unit reads memory. -/
def CRun.readMem (x : CRun) (a n : Nat) : List Byte × CRun :=
  (x.s.bytesAt a n, { x with
    s := x.s.touchColl x.o.owner [(.read, a, n)]
    stop := if x.stop.isSome then x.stop else x.s.denied x.o.owner false .read a n })

/-- R451: a range of SRC reaches a stack at half rate. -/
def State.hotRange (s : State) (a n : Nat) : Bool := s.onHot a || s.onHot (a + n - 1)

/-- R451: elements of SRC are read: those read ahead stand in the spill region; those of a stack at half rate that are read at
the start pass it where it has room. -/
def CRun.readSrc (x : CRun) (a n : Nat) : List Byte × CRun :=
  match x.o.ahead.find? fun p => p.1 == a with
  | some p => (p.2, { x with o := { x.o with ahead := x.o.ahead.eraseP fun p => p.1 == a } })
  | none =>
    let x := if x.start && x.s.hotRange a n && decide (n ≤ x.room) then
        CRun.passSpill { x with o := { x.o with early := x.o.early + n } } n
      else x
    x.readMem a n

/-- The own SRC of a unit, as it stands: its elements and its scale byte. -/
def CRun.source (x : CRun) (t : Topo) (u : Nat) : CUnit × CRun :=
  let d := x.o.desc
  let (a, sa) := t.srcPlace x.o u
  let (bs, x) := x.readSrc a (CDesc.unitBytes d)
  let (sc, x) := if CDesc.mx d then x.readMem sa 1 else ([], x)
  ({ esc := false, scale := BitVec.ofNat 8 (leNat sc), bits := BitVec.ofNat 1024 (leNat bs) }, x)

/-- The own SRC of a unit that a later stage of the operation reads: it is marked as read (R451). -/
def CRun.later (x : CRun) (t : Topo) (u : Nat) : CUnit × CRun :=
  let (c, x) := x.source t u
  (c, { x with o := { x.o with got := x.o.got.set false u true } })

/-- R430: the units of SRC that the stages after the first packets read. -/
def Topo.laterUnits (t : Topo) (d : CDesc) : List Nat :=
  if CDesc.op d = 2 ∨ CDesc.op d = 3 ∨ CDesc.role d = 2 then []
  else if hasHem d then unitsOf (t.shard d)
  else if t.ring d = 1 then []
  else (unitsOf (t.shard d)).filter fun u => !inPart (t.part d (backBy (t.pos d) 1 (t.ring d))) u

/-- R451: a remaining unit of SRC on a stack at half rate is read into the spill region, where it has room. -/
def CRun.readAhead (t : Topo) (u : Nat) (x : CRun) : CRun :=
  let d := x.o.desc
  let (a, _) := t.srcPlace x.o u
  let n := CDesc.unitBytes d
  if x.stop.isSome || x.o.got.get false u || !x.s.hotRange a n || (x.o.ahead.any fun p => p.1 == a)
      || decide (x.room < n) then x
  else
    let (bs, x) := x.readSrc a n
    CRun.passSpill { x with o := { x.o with ahead := x.o.ahead ++ [(a, bs)] } } n

/-- R451 to R453: at a packet boundary, bytes that wait in the spill region for a stack whose bytes are handed off go to the
buddy, and remaining bytes of SRC on stacks at half rate are read as early as space allows. -/
def CRun.boundary (x : CRun) (t : Topo) : CRun :=
  if x.o.state ≠ .moving then x
  else
  let (go, stay) := x.o.spill.partition fun p => (x.s.handsOff x.o (CDesc.dst x.o.desc + p.1)).isSome
  let x := go.foldl (fun (x : CRun) p => x.putPiece false p.1 p.2) { x with o := { x.o with spill := stay } }
  if x.s.ms.hbm = 0 then x else forEach (CRun.readAhead t) (t.laterUnits x.o.desc) x

/-- The agreed scale byte of a unit (R432). -/
def CRun.agreed (x : CRun) (u : Nat) : Nat :=
  if CDesc.mx x.o.desc then (x.s.byteAt (CDesc.agreed x.o.desc + u)).toNat else 0

/-- R354: the agreed scale bytes of units are read. -/
def CRun.readAgreed (x : CRun) (us : List Nat) : CRun :=
  if CDesc.mx x.o.desc then
    { x with s := x.s.touchColl x.o.owner (us.map fun u => (.read, CDesc.agreed x.o.desc + u, 1)) }
  else x

/-- R431 to R436: contributions are summed and rounded at a hop. -/
def CRun.round (x : CRun) (hop u : Nat) (esc : Bool) (cs : List (List FVal)) : CUnit × CRun :=
  let x := x.readAgreed [u]
  let r := roundUnit x.o.desc (x.agreed u) esc (sumUnits x.o.desc cs)
  let o := { x.o with
    conds := { x.o.conds with inv := x.o.conds.inv + r.inv, ovf := x.o.conds.ovf + r.ovf }
    escDet := x.o.escDet + b2n r.up }
  if r.up then
    let (s, o) := x.s.collRaise x.ch o Code.collEscalated [u, hop]
    (r.unit, { x with s := s, o := o })
  else (r.unit, { x with o := o })

/-- The own contribution as a first partial: SRC itself, or on the grid of the agreed scale (R432). -/
def CRun.first (x : CRun) (t : Topo) (hop u : Nat) : CUnit × CRun :=
  let (c, x) := x.source t u
  if CDesc.mx x.o.desc then x.round hop u false [c.vals x.o.desc] else (c, x)

/-- The own contribution to the X stages: SRC, or the sum of the hem stage (R430). -/
def CRun.ownX (x : CRun) (t : Topo) (u : Nat) : Bool × List FVal × CRun :=
  if hasHem x.o.desc then match x.o.part.get none u with
    | some c => (c.esc, c.vals x.o.desc, x)
    | none => (false, [], x)
  else
    let (c, x) := x.later t u
    (false, c.vals x.o.desc, x)

/-- The hem all-gather of a unit of the own shard (R430). -/
def CRun.toHem (x : CRun) (t : Topo) (u : Nat) (c : CUnit) : CRun :=
  let d := x.o.desc
  let hop := 2 * t.ring d - 1
  if hasHem d then
    forEach (fun k (x : CRun) => if k = t.me.slot then x else x.emit (t.atSlot k) 3 hop u c) (upto 8) x
  else x

/-- A finished unit of the own part: it is written, and gathered where the operation gathers (R429, R430). -/
def CRun.finished (x : CRun) (t : Topo) (u : Nat) (c : CUnit) : CRun :=
  let d := x.o.desc
  let n := t.ring d
  let x := x.write u c
  if CDesc.op d = 1 then x
  else
    let x := if n = 1 then x else x.emit (t.atX ((t.pos d + 1) % n)) 2 n u c
    x.toHem t u c

/-- The sum of the hem stage for a unit of the own shard (R430). -/
def CRun.hemDone (x : CRun) (t : Topo) (u : Nat) (c : CUnit) : CRun :=
  let d := x.o.desc
  let n := t.ring d
  if n = 1 then x.finished t u c
  else
    let x := { x with o := { x.o with part := x.o.part.set none u (some c) } }
    if inPart (t.part d (backBy (t.pos d) 1 n)) u then x.emit (t.atX ((t.pos d + 1) % n)) 1 1 u c else x

/-- R430: a contribution of a slot to the hem stage; the eighth makes the sum. -/
def CRun.hemIn (x : CRun) (t : Topo) (slot u : Nat) (c : CUnit) : CRun :=
  let d := x.o.desc
  let x := { x with o := { x.o with hem := x.o.hem.set none (8 * u + slot) (some c) } }
  let got := (upto 8).filterMap fun k => if k = t.me.slot then none else x.o.hem.get none (8 * u + k)
  if got.length < 7 then x
  else
    let (mine, x) := x.later t u
    let all := (upto 8).map fun k => if k = t.me.slot then mine else (x.o.hem.get none (8 * u + k)).getD mine
    let x := { x with o := { x.o with hem := x.o.hem.clear (8 * u) (8 * u + 8) } }
    let (r, x) := x.round 0 u (all.any (·.esc)) (all.map (CUnit.vals d))
    x.hemDone t u r

/-- R430: an incoming partial of the X reduce-scatter at a hop. -/
def CRun.xIn (x : CRun) (t : Topo) (hop u : Nat) (c : CUnit) : CRun :=
  let d := x.o.desc
  let n := t.ring d
  let (e, own, x) := x.ownX t u
  let (r, x) := x.round hop u (c.esc || e) [c.vals d, own]
  if hop + 1 = n then x.finished t u r else x.emit (t.atX ((t.pos d + 1) % n)) 1 (hop + 1) u r

/-- R430: a unit of the X all-gather at a hop. -/
def CRun.gatherIn (x : CRun) (t : Topo) (hop u : Nat) (c : CUnit) : CRun :=
  let n := t.ring x.o.desc
  let x := x.write u c
  let x := if hop + 2 < 2 * n then x.emit (t.atX ((t.pos x.o.desc + 1) % n)) 2 (hop + 1) u c else x
  x.toHem t u c

/-! ### Starting (R419, R423, R430, R445, R449) -/

/-- R430: a reduction starts. -/
def CRun.startReduce (x : CRun) (t : Topo) : CRun :=
  let d := x.o.desc
  let n := t.ring d
  let each (p : Nat × Nat) (f : Nat → CRun → CRun) (x : CRun) : CRun := forEach f (unitsOf p) x
  if CDesc.op d = 2 then each (t.own d) (fun u x => let (c, x) := x.first t n u; x.finished t u c) x
  else if hasHem d then
    forEach (fun k x => if k = t.me.slot then x
      else each (CDesc.shard d k) (fun u x => let (c, x) := x.first t 0 u; x.emit (t.atSlot k) 0 0 u c) x) (upto 8) x
  else if n = 1 then each (t.own d) (fun u x => let (c, x) := x.first t 0 u; x.finished t u c) x
  else each (t.part d (backBy (t.pos d) 1 n)) (fun u x =>
    let (c, x) := x.first t 1 u; x.emit (t.atX ((t.pos d + 1) % n)) 1 1 u c) x

/-- R445: a backup worker sends its SRC to its primary, as it stands. -/
def CRun.startBackup (x : CRun) (t : Topo) : CRun :=
  forEach (fun u x => let (c, x) := x.source t u; x.emit (CDesc.partner x.o.desc) 5 0 u c) (unitsOf (t.srcUnits x.o.desc)) x

/-- R448: entry `i` of the route list: its destination, none where it is not valid. -/
def State.routeEntry (s : State) (d : CDesc) (i : Nat) : Option Nat :=
  let w := s.natAt (CDesc.route d + 4 * i) 4
  if bitOf w 31 then some (fld w 0 6) else none

/-- R448: an entry carries a reserved encoding, or a destination beyond the ring. -/
def State.routeBad (s : State) (t : Topo) (d : CDesc) (i : Nat) : Bool :=
  let w := s.natAt (CDesc.route d + 4 * i) 4
  !zeroBits w 6 25 || (bitOf w 31 && decide (t.dim.2.2 ≤ fld w 0 6))

/-- R449: the bytes of a row of SRC. -/
def CRun.row (x : CRun) (i : Nat) : List Byte × CRun :=
  x.readSrc (CDesc.src x.o.desc + i * CDesc.rowBytes x.o.desc) (CDesc.rowBytes x.o.desc)

/-- R449: row `i` goes to its destination, at the place its count gives it. `seen` counts the rows of each z. -/
def CRun.sendRow (t : Topo) (i : Nat) (y : Tab Nat × CRun) : Tab Nat × CRun :=
  let (seen, x) := y
  let d := x.o.desc
  match x.s.routeEntry d i with
  | none => y
  | some z =>
    let k := seen.get 0 z
    let seen := seen.upd 0 z (· + 1)
    if CDesc.cap d ≤ k then (seen, { x with o := { x.o with dropped := x.o.dropped + 1 } })
    else
      let (bs, x) := x.row i
      if z = t.me.z then (seen, { x with puts := ((z * CDesc.cap d + k) * CDesc.rowBytes d, bs) :: x.puts })
      else (seen, { x with emits := { peer := t.atZ z, stage := 4, hop := 0, unit := k, esc := false, bytes := bs } :: x.emits })

/-- R449: an all-to-all starts: every row is sent, dropped or copied, and every destination is told its count. A COUNT goes
after the rows and takes a credit of their stage, by which the operation knows that it was consumed (R420, log 68). -/
def CRun.startExchange (x : CRun) (t : Topo) : CRun :=
  let d := x.o.desc
  let (seen, x) := forEach (CRun.sendRow t) (upto (CDesc.count d)) ((⟨[]⟩ : Tab Nat), x)
  let sent (z : Nat) : Nat := Nat.min (seen.get 0 z) (CDesc.cap d)
  let ctl := (upto t.dim.2.2).filterMap fun z => if z = t.me.z then none
    else (x.s.ctrlPacket x.ch x.o ctCount (t.atZ z) (sent z)).map fun (p, k) => (p, 4, k)
  let o := { x.o with counts := x.o.counts.set none t.me.z (some (sent t.me.z)) }
  if o.dropped = 0 then { x with o := o, ctl := ctl }
  else
    let (s, o) := x.s.collRaise x.ch o Code.collDropped [0, 0]
    { x with s := s, o := o, ctl := ctl }

/-- The operation begins to move data: ITER and the time are noted (R423, R434, R456). -/
def COp.start (o : COp) (s : State) (t : Topo) : COp :=
  { o with
    state := .moving
    iter := ((s.jobOf o.owner).map (·.iter)).getD 0
    movedAt := s.hif.time.toNat
    prog := s.hif.time.toNat
    owed := if CDesc.length o.desc = 0 ∨ CDesc.role o.desc = 2 ∨ CDesc.op o.desc = 3 then 0 else t.owed o.desc }

/-- The accesses of a COLL, in the order of its address fields (R366 to R368). -/
def Topo.ranges (t : Topo) (d : CDesc) : Ranges :=
  let ub := CDesc.unitBytes d
  let src := (t.srcUnits d).2
  let dst := (t.dstUnits d).2
  let ex := CDesc.op d == 3
  let back := CDesc.role d == 2
  let mx := CDesc.mx d
  let when (b : Bool) (k : Acc) (a n : Nat) : Ranges := if b then [(k, a, n)] else []
  if CDesc.length d = 0 then when true .write (CDesc.stat d) 64
  else
    when true .read (CDesc.src d) (if ex then CDesc.count d * CDesc.rowBytes d else src * ub)
    ++ when mx .read (CDesc.srcScale d) src
    ++ when (!back) .write (CDesc.dst d) (if ex then t.dim.2.2 * CDesc.cap d * CDesc.rowBytes d else dst * ub)
    ++ when (mx && !back) .write (CDesc.dstScale d) dst
    ++ when (mx && !back) .read (CDesc.agreed d) (CDesc.count d)
    ++ when true .write (CDesc.stage d) (CDesc.stageSize d)
    ++ when (CDesc.role d == 1) .write (CDesc.bk d) (src * (ub + b2n mx))
    ++ when ex .read (CDesc.route d) (4 * CDesc.count d)
    ++ when ex .write (CDesc.counts d) (4 * t.dim.2.2)
    ++ when true .write (CDesc.stat d) 64

/-- R417 to R419, R426, R427: a COLL begins: its descriptor is read and checked, its participants and ranges too, and it
takes its sequence number. -/
def State.collBegin (s : State) (i : IfaceId) (c : BitVec 256) : Act State := do
  let a := s.headAt i .acc c
  let ch := fld (cmdWord c 5) 0 4
  let deny (e : Denied) : State := s.haltDenied a false (.coll ch) (s.engineNo i) e
  match s.denied i false .read (cmdAddr c) 128 with
  | some e => throw (deny e)
  | none => pure ()
  let d : CDesc := BitVec.ofNat 1024 (s.natAt (cmdAddr c) 128)
  let me := s.ownNode
  let t : Topo := { dim := s.dims, node := me.getD 0 }
  let need := ((s.jobOf i).map Job.bcNeed).getD 0
  let pt : Topo := if CDesc.role d = 2 then { t with node := CDesc.partner d } else t
  if s.collBad pt need d then throw (s.halt a false Code.badCommand (.coll ch) [])
  let far := (if CDesc.role d = 2 then [] else t.others d) ++ if CDesc.role d = 0 then [] else [CDesc.partner d]
  if me.isNone || far.any (fun n => (s.physOfNode n).isNone) then throw (s.notInjected a)
  match firstSome (fun (k, x, n) => (s.denied i false k x n).filter fun e => e.code == Code.windowFault) (pt.ranges d) with
  | some e => throw (deny e)
  | none => pure ()
  let s := (s.touchAll i [(.fetch, cmdAddr c, 128)]).beginFlight i .acc c
  let x := s.chan ch
  let armed := CDesc.trig d && decide (CDesc.length d ≠ 0)
  let o : COp :=
    { seq := x.seq, owner := i, idx := a.idx, tag := BitVec.ofNat 16 (cmdTag c), desc := d, node := BitVec.ofNat 14 (me.getD 0),
      state := if armed then .armed else .waiting, armIter := ((s.jobOf i).map (·.iter)).getD 0, armedAt := s.hif.time.toNat,
      prog := s.hif.time.toNat, late := CDesc.role d == 1 && CDesc.deadline d == 0 }
  pure (s.updChan ch fun y => { y with seq := y.seq + 1, job := s.jobNo i, ops := y.ops ++ [o] })

/-- R419: a channel holds up to 16 operations. -/
def chanMax : Nat := 16

/-- A COLL at the head of the access stream begins, where its channel has room. -/
def State.coll (s : State) (i : IfaceId) (c : BitVec 256) : State :=
  if (s.chan (fld (cmdWord c 5) 0 4)).ops.length < chanMax then (s.collBegin i c).begun i .acc c else s

/-- A COLL whose descriptor names an OP; a reserved OP belongs to the row of its two low bits. -/
def State.isColl (s : State) (op : Nat) (c : BitVec 256) : Bool := cmdOp c == 0x60 && fld (s.natAt (cmdAddr c) 4) 0 2 == op

/-- R429: an all-reduce. -/
def execAllReduce (i : IfaceId) (s : State) : Out :=
  run (.allReduce i) s fun s => s.begin i .acc (s.isColl 0) fun c s => s.coll i c

/-- R429: a reduce-scatter. -/
def execReduceScatter (i : IfaceId) (s : State) : Out :=
  run (.reduceScatter i) s fun s => s.begin i .acc (s.isColl 1) fun c s => s.coll i c

/-- R429: an all-gather. -/
def execAllGather (i : IfaceId) (s : State) : Out :=
  run (.allGather i) s fun s => s.begin i .acc (s.isColl 2) fun c s => s.coll i c

/-- R449: an all-to-all. -/
def execAllToAll (i : IfaceId) (s : State) : Out :=
  run (.allToAll i) s fun s => s.begin i .acc (s.isColl 3) fun c s => s.coll i c

/-! ### Triggers, backups and data (R423, R446) -/

/-- R423: the own trigger of an operation has fired. -/
def State.fired (s : State) (o : COp) : Bool :=
  !CDesc.trig o.desc || ((s.jobOf o.owner).map (·.iter)).getD 0 != o.armIter

/-- R445, R446: units of the backup's copy, complete. -/
def State.copyDone (s : State) (o : COp) : Bool := decide (((s.topoOf o).srcUnits o.desc).2 ≤ o.bkUnits)

/-- R446: the primary decides; it tells its backup worker. -/
def State.backupDecide (s : State) (ch : Nat) (o : COp) (backup : Bool) : State × COp :=
  let (s, o) := if backup then s.collRaise ch o Code.collBackupTaken [0, 0] else (s, o)
  (s.collCtrl ch o ctBackupDone (CDesc.partner o.desc) (b2n backup), { o with taken := some backup })

/-- R446: the decision, where it can be made now: the own trigger when it has fired, the complete copy once the deadline
has passed. -/
def State.tryDecide (s : State) (ch : Nat) (o : COp) : State × COp :=
  if CDesc.role o.desc ≠ 1 ∨ o.taken.isSome ∨ CDesc.length o.desc = 0 then (s, o)
  else if s.fired o then s.backupDecide ch o false
  else if o.late && s.copyDone o then s.backupDecide ch o true
  else (s, o)

/-- R423, R446: an operation at the head of its channel may move data. -/
def State.mayMove (s : State) (o : COp) : Bool :=
  decide (CDesc.length o.desc = 0) || s.fired o || o.taken == some true

/-- The oldest operation of a channel starts. -/
def State.startOp (s : State) (ch : Nat) (o : COp) : State :=
  let t := s.partsTopo o
  let o := o.start s t
  let d := o.desc
  let x : CRun := { s := s, o := o, ch := ch, start := true }
  if CDesc.length d = 0 then s.setOp ch o
  else if CDesc.role d = 2 then (x.startBackup t).close
  else if CDesc.op d = 3 then
    let s := s.touchColl o.owner [(.read, CDesc.route d, 4 * CDesc.count d)]
    let x := { x with s := s }
    if (upto (CDesc.count d)).any (s.routeBad t d) then
      s.collFail ch o Code.badCommand true fun s => s.halt o.place false Code.badCommand (.coll ch) []
    else (x.startExchange t).close
  else (x.startReduce t).close

/-- R417, R451, R452: a service of a channel whose operation moves data: what is due at a packet boundary, and one packet where
it is the channel's turn to send. -/
def State.moveOn (s : State) (ch : Nat) (o : COp) : State :=
  let x := CRun.boundary { s := s, o := o, ch := ch } (s.partsTopo o)
  match x.stop with
  | some e => x.s.collFailDenied ch x.o e
  | none =>
    let s := x.s.setOp ch x.o
    if s.turnOf ((unitChans ch).filter s.sends) = some ch then
      let (s, o) := s.sendNext x.o
      (s.setOp ch o).served ch
    else s

/-- R417, R419, R423: COLL_MOVE_DATA: the oldest operation of the channel starts, and sends its first packet; once it moves
data, each service sends one more that waits. A backup worker whose primary has decided sends nothing (R445). -/
def execCollMoveData (ch : Fin 16) (s : State) : Out :=
  run (.collMoveData ch) s fun s => match (s.chan ch).ops with
    | o :: _ => match o.state with
      | .moving => s.moveOn ch o
      | .failed => s
      | _ =>
        if s.mayMove o && !(CDesc.role o.desc == 2 && o.taken.isSome) then
          let (s, o) := s.tryDecide ch o
          (s.startOp ch o).served ch
        else s
    | [] => s

/-- R446: the first armed primary of a channel whose deadline has not passed. -/
def State.deadlineOp (s : State) (ch : Nat) : Option COp :=
  (s.chan ch).ops.find? fun o => decide (CDesc.role o.desc = 1) && decide (o.state = .armed) && o.taken.isNone && !o.late

/-- R446, R521: DEADLINE_US passes, as the timers count. -/
def execBackupDeadline (ch : Fin 16) (s : State) : Out :=
  run (.backupDeadline ch) s fun s => match (if s.pins.peClk then s.deadlineOp ch else none) with
    | some o =>
      let (s, o) := s.tryDecide ch { o with late := !s.fired o }
      s.setOp ch o
    | none => s

/-! ### Completion (R420, R449, R451, R452, R456, R587) -/

/-- R451: bytes that wait in the spill region are copied, or handed off (R452). -/
def CRun.unspill (x : CRun) : CRun :=
  let l := x.o.spill
  l.foldl (fun x p => CRun.putDst x false p.1 p.2) { x with o := { x.o with spill := [] } }

/-- R420, R445: everything but handoff writes and the spill region is done. A backup worker is done when its primary has decided,
also where it has not started. -/
def State.collIdle (s : State) (o : COp) : Bool :=
  let zs := s.dims.2.2
  let me := (s.topoOf o).me.z
  (decide (o.state = .moving) || (CDesc.role o.desc == 2 && o.taken.isSome && decide (o.state ≠ .failed))) &&
  o.stalled.isEmpty && o.out.cells.isEmpty &&
  (decide (CDesc.length o.desc = 0) ||
    if CDesc.role o.desc = 2 then o.taken.isSome
    else if CDesc.op o.desc = 3 then (upto zs).all fun z => match o.counts.get none z with
      | some n => z == me || decide (n ≤ o.rows.get 0 z)
      | none => false
    else decide (o.owed = 0))

/-- The counts of an all-to-all, as words (R449). -/
def COp.countBytes (o : COp) (zs : Nat) : List Byte := bytesOf ((upto zs).map fun z => (o.counts.get none z).getD 0)

/-- R420: the oldest operation completes; a handed-off one then ends the job (R587). -/
def State.collComplete (s : State) (ch : Nat) (o : COp) : State :=
  let d := o.desc
  let zs := s.dims.2.2
  let s := if CDesc.op d = 3 ∧ CDesc.length d ≠ 0 then
      (s.put (CDesc.counts d) (o.countBytes zs)).touchColl o.owner [(.write, CDesc.counts d, 4 * zs)]
    else s
  let s := (s.putCollStat o).touchColl o.owner [(.write, CDesc.stat d, 64)]
  let s := s.updChan ch fun c => { c with ops := c.ops.tail }
  let s := s.updFlight o.owner .acc o.idx fun f => { f with fin := true, conds := o.conds }
  if o.handed then s.halt o.place false Code.ftHandoffHalt (.sched (s.schedOf o.owner)) [] else s

/-- R420: COLL_COMPLETE. -/
def execCollComplete (ch : Fin 16) (s : State) : Out :=
  run (.collComplete ch) s fun s => match (s.chan ch).ops with
    | [] => s
    | o :: _ =>
      if !s.collIdle o || s.darns (.coll ch) then s
      else
        let x := CRun.unspill { s := s, o := o, ch := ch }
        match x.stop with
        | some e => x.s.collFailDenied ch x.o e
        | none => match x.s.deniedAny x.o.owner [(.write, CDesc.stat x.o.desc, 64)] with
          | some e => x.s.collFailDenied ch x.o e
          | none => if x.o.unacked = 0 then x.s.collComplete ch x.o else x.s.setOp ch x.o

/-! ### Watchdog and ALIVE (R454, R455) -/

/-- R455, R521: COLL_WATCHDOG: COL_WDOG has passed without progress while the channel's operation moves data. -/
def execCollWatchdog (ch : Fin 16) (s : State) : Out :=
  run (.collWatchdog ch) s fun s => match (s.chan ch).ops with
    | o :: _ => if o.state = .moving ∧ s.pins.peClk = true then s.collFailCode ch o Code.collStall true 0 0 else s
    | [] => s

/-- R454: an operation that is armed, waiting for a backup decision, or waiting for a peer. -/
def State.waitsForPeer (s : State) (o : COp) : Bool :=
  decide (o.state = .armed) || (decide (o.state = .moving) && !(s.collIdle o && decide (o.unacked = 0)))

/-- R454, R521: COLL_ALIVE_TIMER: every armed or waiting operation of the channel sends ALIVE to every other participant. -/
def execCollAliveTimer (ch : Fin 16) (s : State) : Out :=
  run (.collAliveTimer ch) s fun s =>
    if !s.pins.peClk then s
    else forEach (fun o s => forEach (fun n s => s.collCtrl ch o ctAlive n 0) (s.collPeers o) s)
      ((s.chan ch).ops.filter s.waitsForPeer) s

end Sys2Proof.Machine
end

