-- ==== Sys2Proof/Machine/CollPackets.lean ====
section
/-! DEFINITION. Collective packets as a device takes them from the fabric: COLL_DATA and the control packets CREDIT,
COUNT, BACKUP_DONE, ALIVE and ABORT (R421, R430 to R440, R445, R446, R449, R454, R455). -/

namespace Sys2Proof.Machine

/-- Packets of a class that stand in this device, oldest first. -/
def State.ejected (s : State) (cls : Nat) : List Packet := s.fab.eject.get [] cls

/-- Take the first packet of a class for which `p` holds. -/
def State.takePacket (s : State) (cls : Nat) (p : Packet → Bool) : Option (Packet × State) :=
  let l := s.ejected cls
  (l.find? p).map fun k => (k, { s with fab := { s.fab with eject := s.fab.eject.set [] cls (l.eraseP p) } })

/-- Fields of a collective packet (R438, R439). -/
def Packet.chan (p : Packet) : Nat := fld (p.word 4) 0 4
def Packet.stage (p : Packet) : Nat := fld (p.word 4) 4 3
def Packet.hop (p : Packet) : Nat := fld (p.word 4) 8 7
def Packet.ctype (p : Packet) : Nat := hKspec p.hdr % 16
def Packet.esc (p : Packet) : Nat := p.word 9 + p.word 10 * 2 ^ 32 + p.word 11 * 2 ^ 64 + p.word 12 * 2 ^ 96

/-- What a packet's operation is here: live; no longer live; or not begun, so that the packet waits (R440). -/
inductive Fate where
  | live (o : COp)
  | stale
  | later

/-- R440: the operation of a packet on this device. A job that held the channel and has ended left no operation live on it. -/
def State.fate (s : State) (p : Packet) : Fate :=
  let c := s.chan p.chan
  let key := ((c.job.bind s.job).map Job.key).map BitVec.toNat
  if key ≠ some (hKey p.hdr) then (if c.past.any fun k => k.toNat == hKey p.hdr then .stale else .later)
  else match c.ops.find? fun o => decide (o.seq.toNat = p.word 5) with
    | some o => if o.state = .failed then .stale else .live o
    | none => if (BitVec.ofNat 32 (p.word 5) - c.seq).toNat < 2 ^ 31 then .later else .stale

/-- R440: the credit of a consumed or discarded packet of a stage goes back to its sender. -/
def State.creditBack (s : State) (p : Packet) (stage : Nat) : State :=
  s.inject (mkPacket 0x31 (hSrc p.hdr) s.physNode (hKey p.hdr) 0 ctCredit 0 false [p.chan, p.word 5, p.word 6, stage + 2 ^ 8] [])

/-- The logical node among an operation's peers that a physical source serves. -/
def State.peerOf (s : State) (o : COp) (phys : Nat) : Option Nat :=
  ((s.topoOf o).others o.desc).find? fun n => s.physOfNode n == some phys

/-- R438: the units of a packet, by index; none where its payload does not match its fields. -/
def Packet.units (p : Packet) (d : CDesc) : Option (List (Nat × CUnit)) :=
  (readUnits d (fld (p.word 8) 0 12) p.esc p.payload).map fun l => l.zipIdx.map fun (c, k) => (p.word 7 + k, c)

/-- R430: the units that a stage and hop bring to this device. -/
def Topo.expects (t : Topo) (d : CDesc) (stage hop peer : Nat) : Option (Nat × Nat) :=
  let n := t.ring d
  match stage with
  | 0 => if hasHem d && CDesc.op d != 2 && hop == 0 then some (t.shard d) else none
  | 1 => if CDesc.op d ≠ 2 ∧ 1 ≤ hop ∧ hop < n then some (t.part d (backBy (t.pos d) (hop + 1) n)) else none
  | 2 => if CDesc.op d ≠ 1 ∧ n ≤ hop ∧ hop + 2 ≤ 2 * n then some (t.part d (backBy (t.pos d) (hop + 1) n)) else none
  | 3 => if hasHem d && CDesc.op d != 1 && hop + 1 == 2 * n then some (CDesc.shard d (peer % 8)) else none
  | _ => none

/-- R421, R435: the scale byte of a block that is not escalated agrees; a block carried with scale 0xFF is one whose sum
holds a NaN. -/
def CRun.scaleAgrees (x : CRun) (u : Nat) (c : CUnit) : Bool :=
  !CDesc.mx x.o.desc || c.esc || c.scale == 0xFF || c.scale.toNat == x.agreed u

/-- A unit of a reduction's packet is combined, written and forwarded (R430). -/
def CRun.unitIn (x : CRun) (t : Topo) (stage hop peer u : Nat) (c : CUnit) : CRun :=
  match stage with
  | 0 => x.hemIn t (peer % 8) u c
  | 1 => x.xIn t hop u c
  | 2 => x.gatherIn t hop u c
  | _ => x.write u c

/-- R421: a packet that differs from its operation fails it. -/
def CRun.mismatch (x : CRun) (p : Packet) : State := x.s.collFailCode x.ch x.o Code.collMismatch true (p.word 7) p.hop

/-- R430, R432: a packet of a reduction is consumed. -/
def CRun.reduceIn (x : CRun) (t : Topo) (p : Packet) : State :=
  let d := x.o.desc
  match x.s.peerOf x.o (hSrc p.hdr), p.units d with
  | some peer, some us => match t.expects d p.stage p.hop peer with
    | some part =>
      if us.all fun (u, c) => inPart part u && x.scaleAgrees u c then
        let x := x.readAgreed (us.map (·.1))
        let x := { x with o := { x.o with owed := x.o.owed - us.length } }
        (forEach (fun (u, c) x => x.unitIn t p.stage p.hop peer u c) us x).close
      else x.mismatch p
    | none => x.mismatch p
  | _, _ => x.mismatch p

/-- R449: a packet of rows is consumed: row k of source z has its place in DST. -/
def CRun.rowsIn (x : CRun) (p : Packet) : State :=
  let d := x.o.desc
  let n := fld (p.word 8) 0 12
  match x.s.peerOf x.o (hSrc p.hdr) with
  | some peer =>
    let z := (coordOf (x.s.dims) peer).z
    if p.payload.length = n * CDesc.rowBytes d ∧ p.word 7 + n ≤ CDesc.cap d then
      let x := { x with
        o := { x.o with rows := x.o.rows.upd 0 z (· + n) }
        puts := [((z * CDesc.cap d + p.word 7) * CDesc.rowBytes d, p.payload)] }
      x.close
    else x.mismatch p
  | none => x.mismatch p

/-- R445, R446: a packet of the backup's copy is written at BK_ADDR; a complete copy may decide. -/
def CRun.backupIn (x : CRun) (t : Topo) (p : Packet) : State :=
  let d := x.o.desc
  let us := t.srcUnits d
  let ub := CDesc.unitBytes d
  match p.units d with
  | some l =>
    if CDesc.role d = 1 && l.all fun (u, c) => inPart us u && !c.esc then
      let rs : Ranges := l.flatMap fun (u, _) =>
        (Acc.write, CDesc.bk d + (u - us.1) * ub, ub) :: if CDesc.mx d then [(Acc.write, CDesc.bk d + us.2 * ub + (u - us.1), 1)] else []
      match x.s.deniedAny x.o.owner rs with
      | some e => x.s.collFailDenied x.ch x.o e
      | none =>
        let s := forEach (fun (u, (c : CUnit)) (s : State) =>
          let s := s.put (CDesc.bk d + (u - us.1) * ub) (leBytes ub c.bits.toNat)
          if CDesc.mx d then s.put (CDesc.bk d + us.2 * ub + (u - us.1)) [c.scale] else s) l x.s
        let o := { x.o with bkUnits := x.o.bkUnits + l.length, prog := s.hif.time.toNat }
        let (s, o) := (s.touchColl x.o.owner rs).tryDecide x.ch o
        s.setOp x.ch o
    else x.mismatch p
  | none => x.mismatch p

/-- R440: a data packet may be consumed now: its operation is the oldest and moves data, and the sums that a partial
meets are there; a packet of the backup's copy while the primary has not decided. -/
def State.ready (s : State) (p : Packet) (o : COp) : Bool :=
  let head := ((s.chan p.chan).ops.head?.map (·.seq)) == some o.seq
  if p.stage = 5 then head
  else head && decide (o.state = .moving) && (p.stage != 1 || !hasHem o.desc ||
    ((p.units o.desc).getD []).all fun (u, _) => (o.part.get none u).isSome || !inPart ((s.topoOf o).shard o.desc) u)

/-- A data packet of class 3 that the unit takes now. -/
def State.takesData (s : State) (p : Packet) : Bool :=
  hKind p.hdr == 0x30 && match s.fate p with
    | .live o => s.ready p o && !s.ft.darning.any fun x => match x with
      | .coll ch => ch.val == p.chan
      | _ => false
    | .stale => true
    | .later => false

/-- R421, R432, R440: a data packet is consumed, or discarded; its credit goes back either way. -/
def State.dataIn (s : State) (p : Packet) : State :=
  let s := s.creditBack p p.stage
  match s.fate p with
  | .live o =>
    let s := (s.served p.chan).slotWrite (s.topoOf o) o.desc
    let x := CRun.boundary { s := s, o := o, ch := p.chan } (s.topoOf o)
    if p.stage = 5 ∧ o.taken.isSome then x.close
    else if p.word 6 ≠ CDesc.digest o.desc then x.mismatch p
    else if p.stage = 5 then x.backupIn (s.topoOf o) p
    else if CDesc.op o.desc = 3 then (if p.stage = 4 then x.rowsIn p else x.mismatch p)
    else x.reduceIn (s.topoOf o) p
  | _ => s

/-- R417: the channel whose packet is consumed next: of the unit for which the oldest packet has come, the one whose turn it
is. -/
def State.dataChan (s : State) : Option Nat :=
  match (s.ejected 3).filter s.takesData with
  | [] => none
  | p :: r => s.turnOf ((unitChans p.chan).filter fun k => (p :: r).any fun q => q.chan == k)

/-- R417, R432: COLL_DATA. -/
def execCollData (s : State) : Out :=
  run .collData s fun s => match s.takePacket 3 fun p => s.takesData p && s.dataChan == some p.chan with
    | some (p, s) => s.dataIn p
    | none => s

/-! ### Control packets (R439) -/

/-- A control packet of a type that is taken now: its operation has begun here, or is no longer live. -/
def State.takesCtrl (s : State) (t : Nat) (p : Packet) : Bool :=
  hKind p.hdr == 0x31 && p.ctype == t && match s.fate p with
    | .later => t == ctAlive
    | _ => true

/-- R421, R439: the oldest control packet of a type is taken; `f` acts on its live operation. -/
def State.ctrlIn (s : State) (t : Nat) (f : Packet → Nat → COp → State → State) : State :=
  match s.takePacket 3 (s.takesCtrl t) with
  | none => s
  | some (p, s) => match s.fate p with
    | .live o =>
      if p.word 6 = CDesc.digest o.desc then f p p.chan o s
      else s.collFailCode p.chan o Code.collMismatch true 0 0
    | _ => s

/-- R440: CREDIT. Packets that waited for a credit of the peer and stage may go, one in each turn of the channel (R417). -/
def execCredit (s : State) : Out :=
  run .credit s fun s => s.ctrlIn ctCredit fun p ch o s =>
    let st := fld (p.word 7) 0 3
    let n := fld (p.word 7) 8 7
    s.setOp ch { o with out := o.out.upd 0 (8 * hSrc p.hdr + st) (· - n) }

/-- R449: COUNT. Its credit goes back to its sender (log 68). -/
def execCount (s : State) : Out :=
  run .count s fun s => s.ctrlIn ctCount fun p ch o s => match s.peerOf o (hSrc p.hdr) with
    | some peer =>
      let z := (coordOf s.dims peer).z
      (s.creditBack p 4).setOp ch { o with counts := o.counts.set none z (some (p.word 7)), prog := s.hif.time.toNat }
    | none => s

/-- R445: BACKUP_DONE. What the backup worker has not sent yet is not sent. -/
def execBackupDone (s : State) : Out :=
  run .backupDone s fun s => s.ctrlIn ctBackupDone fun p ch o s =>
    if CDesc.role o.desc = 2 then
      s.setOp ch { o with taken := some (bitOf (p.word 7) 0), stalled := [], early := 0, prog := s.hif.time.toNat }
    else s

/-- R454: ALIVE counts as progress. -/
def execAlive (s : State) : Out :=
  run .alive s fun s => s.ctrlIn ctAlive fun _ ch o s => s.setOp ch { o with prog := s.hif.time.toNat }

/-- R455: ABORT fails this device's operation, which sends none of its own. -/
def execAbort (s : State) : Out :=
  run .abort s fun s => s.ctrlIn ctAbort fun _ ch o s => s.collFailCode ch o Code.collAborted false 0 0

end Sys2Proof.Machine
end

