-- ==== Sys2Proof/Machine/Link.lean ====
section
/-! DEFINITION. Fabric ports and their link layers: frames, retry, credits, port states, what a FAILED port ends, and the
origin of fault notes (R388, R391 to R395, R400, R401, R411, R582, R583). -/

namespace Sys2Proof.Machine

/-! ### Ports -/

def State.port (s : State) (n : Nat) : Port := s.fab.ports.get {} n
def State.setPort (s : State) (n : Nat) (p : Port) : State := { s with fab := { s.fab with ports := s.fab.ports.set {} n p } }

/-- The thirteen ports. -/
def allPorts : List (Fin 13) := [0, 1, 2, 3, 4, 5, 6, 7, 8, 9, 10, 11, 12]

/-- A hem port (R388). -/
def isHemPort (n : Nat) : Bool := decide (n ≤ 6)

/-- R410: a route table names the port in PORT_EN. -/
def tableEnables (r : Option RouteTable) (n : Nat) : Bool := match r with
  | some r => bitOf r.portEn.toNat n
  | none => false

/-- R410: the port is named in PORT_EN of the table in effect. -/
def State.portEnabled (s : State) (n : Nat) : Bool := tableEnables s.fab.rt n

/-- R410: the break of an axis in a table's word. -/
def breakOf (w axis : Nat) : Option Nat := if bitOf w (8 * axis + 6) then some (fld w (8 * axis) 6) else none

/-- The size of an axis, and a coordinate along it. -/
def axisSize (dim : Nat × Nat × Nat) (axis : Nat) : Nat := nth [dim.1, dim.2.1, dim.2.2] axis 1
def Coord.along (c : Coord) (axis : Nat) : Nat := nth [c.x, c.y, c.z] axis 0

/-- R388, R407: a port of this device leads over the break of its ring, by a route table. -/
def tableBreaks (r : Option RouteTable) (n : Nat) : Bool :=
  match r with
  | none => false
  | some t =>
    let a := (n - 7) / 2
    let z := axisSize (sizesOf r) a
    let v := (coordOf (sizesOf r) t.myPhys.toNat).along a
    !isHemPort n && match breakOf t.brk.toNat a with
      | none => false
      | some b => if n % 2 = 1 then decide (v = b) else decide (v = (b + 1) % z)

/-- R407: a device at an end of a break sends nothing over it. -/
def State.overBreak (s : State) (n : Nat) : Bool := tableBreaks s.fab.rt n

/-- R387, R388: the physical node at the other end of a port, for torus sizes; none for an unused port. -/
def neighbour (dim : Nat × Nat × Nat) (node n : Nat) : Option Nat :=
  let c := coordOf dim node
  let step (v sz : Nat) (plus : Bool) : Nat := if plus then (v + 1) % sz else (v + sz - 1) % sz
  if isHemPort n then some (node / 8 * 8 + (c.slot ^^^ (n + 1)))
  else
    let plus := n % 2 == 1
    match (n - 7) / 2 with
    | 0 => if dim.1 < 2 then none else some (nodeAt dim { c with x := step c.x dim.1 plus })
    | 1 => if dim.2.1 < 2 then none else some (nodeAt dim { c with y := step c.y dim.2.1 plus })
    | _ => if dim.2.2 < 2 then none else some (nodeAt dim { c with z := step c.z dim.2.2 plus })

/-- R395: the partner that the route table and R388 lead a port to expect. -/
def State.expectedPeer (s : State) (n : Nat) : Option Nat := s.fab.rt.bind fun r => neighbour s.dims r.myPhys.toNat n

/-- R401: VCs of a port. -/
def portVcs (n : Nat) : Nat := if isHemPort n then 4 else 8

/-- R401: the VC of a packet on a port. -/
def vcOn (n : Nat) (h : BitVec 128) : Nat := if isHemPort n then hVcc h else 2 * hVcc h + hDl h

/-- R400: 64-byte blocks of an input port's pool, and of each VC's reserve. -/
def portPool (n : Nat) : Nat := if isHemPort n then 4096 else 2048
def vcReserve : Nat := 16

/-- A counter register that stops at its largest value. -/
def countUp (w : Word) (n : Nat) : Word := satAdd 32 w n

/-! ### Frames (R393) -/

/-- Frames that a sender keeps (R394). -/
def replayMax : Nat := 1024

/-- R393: a frame. `body` is its four blocks as one number; VC_1 to VC_3 are 0. -/
def mkFrame (ftype : Nat) (seq ack : BitVec 12) (nak : Bool) (vc blk body cvc cblk : Nat) : BitVec 2176 :=
  let w := ftype + seq.toNat * 2 ^ 2 + ack.toNat * 2 ^ 14 + b2n nak * 2 ^ 26 + vc * 2 ^ 32 + blk * 2 ^ 48
    + body * 2 ^ 64 + (cvc + cblk * 16) * 2 ^ 2112
  BitVec.ofNat 2176 (w + crc32 (leBytes 268 w) * 2 ^ 2144)

/-- Fields of a frame. -/
def fType (f : BitVec 2176) : Nat := fld f.toNat 0 2
def fSeq (f : BitVec 2176) : BitVec 12 := BitVec.ofNat 12 (fld f.toNat 2 12)
def fAck (f : BitVec 2176) : BitVec 12 := BitVec.ofNat 12 (fld f.toNat 14 12)
def fNak (f : BitVec 2176) : Bool := bitOf f.toNat 26
def fVc (f : BitVec 2176) (b : Nat) : Nat := fld f.toNat (32 + 4 * b) 4
def fBlk (f : BitVec 2176) (b : Nat) : Bool := bitOf f.toNat (48 + b)
def fBlock (f : BitVec 2176) (b : Nat) : Nat := fld f.toNat (64 + 512 * b) 512
def fBody (f : BitVec 2176) : Nat := fld f.toNat 64 2048
def fCvc (f : BitVec 2176) : Nat := fld f.toNat 2112 4
def fCblk (f : BitVec 2176) : Nat := fld f.toNat 2116 12
/-- R393, R394: the frame passes its CRC. -/
def fGood (f : BitVec 2176) : Bool := crc32 (leBytes 268 f.toNat) == fld f.toNat 2144 32

/-- Send one frame: it carries the last good SEQ as ACK and one VC's freed blocks (R393, R394). -/
def Port.frame (p : Port) (ftype : Nat) (nak : Bool) (vc blk body : Nat) : Port :=
  let (cvc, n) := (p.owe.cells.head?).getD (0, 0)
  let n := Nat.min n 4095
  { p with
    replay := p.replay ++ [mkFrame ftype p.txSeq (p.rxSeq - 1) nak vc blk body cvc n]
    txSeq := p.txSeq + 1
    owe := p.owe.upd 0 cvc (· - n) }

/-- R397: 256-byte flits of a data packet. -/
def Packet.flits (p : Packet) : Nat := ceilDiv (64 + hLen p.hdr) 256

/-- The bytes of a packet. -/
def Packet.bytes (p : Packet) : List Byte := leBytes 16 p.hdr.toNat ++ p.body

/-- R399, R400: the partner has room for blocks on a VC: in the VC's reserve, or in the shared part of its pool. -/
def Port.hasRoom (p : Port) (n vc k : Nat) : Bool :=
  let used (v : Nat) : Nat := p.used.get 0 v + if v = vc then k else 0
  let shared := ((upto (portVcs n)).map fun v => used v - vcReserve).sum
  decide (shared ≤ portPool n - portVcs n * vcReserve)

/-- The replay store takes a frame other than a NAK: its last place is kept for one (DESIGN CHOICE, log 36). -/
def Port.storeRoom (p : Port) : Bool := decide (p.replay.length + 1 < replayMax)

/-- R399, R400: `k` blocks may be sent now on a VC. -/
def Port.mayPut (p : Port) (n vc k : Nat) : Bool := decide (p.state = 2) && p.storeRoom && p.hasRoom n vc k

/-- R399: a control packet may be sent now: its whole buffer is free, and no data packet holds its VC. -/
def Port.maySend (p : Port) (n vc : Nat) : Bool := !p.held.get false vc && p.mayPut n vc 1

/-- Send blocks on a VC as a frame (R393). -/
def Port.put (p : Port) (ftype vc blk k body : Nat) : Port := { p with used := p.used.upd 0 vc (· + k) }.frame ftype false vc blk body

/-- Send a control packet (R393, R397). -/
def Port.send (p : Port) (vc : Nat) (k : Packet) : Port := p.put 1 vc 1 1 (leNat (k.bytes.take 64))

/-- Send a flit of a data packet (R393, R397). -/
def Port.sendFlit (p : Port) (vc : Nat) (b : BitVec 2048) : Port := p.put 2 vc 15 4 b.toNat

/-- R394, R407: the receiver asks again from its last good SEQ, once the replay store has room for the frame; a port at a break
(`silent`) sends nothing. -/
def Port.nak (silent : Bool) (p : Port) : Port :=
  let p := { p with nakSent := true }
  if !silent && decide (p.replay.length < replayMax) then { p.frame 0 true 0 0 0 with nakDue := false } else { p with nakDue := true }

/-- Freed blocks that no frame has told go out in idle frames (R393, R400). -/
def Port.tellCredit : Nat → Port → Port
  | 0, p => p
  | n + 1, p => if p.state = 2 ∧ p.storeRoom ∧ !p.owe.cells.isEmpty then Port.tellCredit n (p.frame 0 false 0 0 0) else p

/-- Send the island's own waiting packets, oldest first (R584). -/
def Port.pumpOut (n : Nat) : List (Nat × Packet) → Port → Port
  | [], p => p
  | (vc, k) :: r, p => if p.maySend n vc then Port.pumpOut n r (p.send vc k) else { p with outq := (vc, k) :: r }

/-- A port sends what it can: nothing at a break (R407). -/
def Port.pump (n : Nat) (silent : Bool) (p : Port) : Port :=
  if silent then p
  else
    let p := if p.nakDue && decide (p.state = 2) then p.nak silent else p
    let w := p.outq
    Port.tellCredit 16 (Port.pumpOut n w { p with outq := [] })

/-- R393: the stream of frames goes on: where no other frame is sent, an idle one is. It carries the last good SEQ as ACK. -/
def Port.idle (p : Port) : Port := if p.state = 2 ∧ p.storeRoom then p.frame 0 false 0 0 0 else p

/-- Blocks of an input buffer are freed (R400). -/
def Port.free (n : Nat) (silent : Bool) (p : Port) (vc k : Nat) : Port := Port.pump n silent { p with owe := p.owe.upd 0 vc (· + k) }

/-- The link starts afresh at training: sequence numbers, frames and credits. -/
def Port.fresh (p : Port) : Port :=
  { p with rxSeq := 0, nakSent := false, nakDue := false, txSeq := 0, replay := [], noProg := 0, inq := ⟨[]⟩, held := ⟨[]⟩, outq := []
           used := ⟨[]⟩, owe := ⟨[]⟩ }

/-! ### Discards and halts (R411, R582, R583) -/

/-- R411: a packet is discarded and counted, with FAB_DISCARD. -/
def State.discard (s : State) (port reason : Nat) (h : BitVec 128) : State :=
  let s := { s with fab := { s.fab with discard := countUp s.fab.discard 1 } }
  s.raise (.fab port) Code.fabDiscard (BitVec.ofNat 32 (hKey h))
    [port, reason, wordAt h.toNat 0, wordAt h.toNat 1, wordAt h.toNat 2, wordAt h.toNat 3]

/-- R256: every interface of a job halts in the same way. -/
def State.haltAll (s : State) (n : Nat) (j : Job) : State :=
  forEach (fun i s => s.updIfc i fun x => { x with halted := true }) (s.allIfaces n j) s

/-- R583 to R585, R581, R598: the schedulers halt every interface of a job for a cause of the device. -/
def State.stopJob (s : State) (n : Nat) (code : BitVec 16) (index : Nat) (note : Option (Nat × Nat × Nat)) : State :=
  match s.job n with
  | some j =>
    if j.ended then s
    else
      let s := s.haltAll n j
      s.updJob n fun j =>
        { j with
          code := mergeCode j.code code
          halt := if j.halt.isNone then some (code, BitVec.ofNat 32 index, none, .acc) else j.halt
          note := if j.halt.isNone then note else j.note }
  | none => s

/-- The jobs that run (R64). -/
def State.running (s : State) : List Nat := s.jobNos.filter fun n => match s.job n with
  | some j => !j.ended
  | none => false

/-- R407, R584: a note goes out through a port that is UP and enabled, and not over a break. -/
def State.sendNote (s : State) (n : Nat) (words : List Nat) (key : Nat) : State :=
  let p := s.port n
  if p.state = 2 ∧ s.portEnabled n ∧ !s.overBreak n then
    let k := mkPacket 0x21 p.peer.toNat s.physNode key 0 0 0 false words []
    let dim := s.dims
    let c := coordOf dim s.physNode
    let (v, sz) := match (n - 7) / 2 with
      | 0 => (c.x, dim.1)
      | 1 => (c.y, dim.2.1)
      | _ => (c.z, dim.2.2)
    let plus := n % 2 == 1
    let wraps := if plus then decide (v + 1 = sz) else decide (v = 0)
    let hdr := if isHemPort n then k.hdr
      else k.hdr ||| BitVec.ofNat 128 (b2n wraps * 2 ^ 4 + b2n (!plus) * 2 ^ (5 + (n - 7) / 2))
    s.setPort n (Port.pump n false { p with outq := p.outq ++ [(vcOn n hdr, { k with hdr := hdr })] })
  else s

/-- R584: a note goes out through every port but one. -/
def State.floodNote (s : State) (except : Option (Fin 13)) (words : List Nat) (key : Nat) : State :=
  forEach (fun p s => if some p = except then s else s.sendNote p words key) allPorts s

/-- R584: pairs that are remembered, and for how long. -/
def notesKept : Nat := 64
def noteSpan : Nat := 10 ^ 9

/-- R584: a pair is remembered. -/
def State.sawNote (s : State) (origin : BitVec 14) (seq : Word) : State :=
  { s with fab := { s.fab with seen := ((origin, seq, s.hif.time.toNat) :: s.fab.seen).take notesKept } }

/-- R582, R583: this device originates a note for a job. PORT is 0xF and SUBJECT the origin but for kind 2. -/
def State.originate (s : State) (key : Word) (code : BitVec 16) (note : Nat × Nat × Nat) : State :=
  let me := s.physNode
  let seq := s.fab.noted % 2 ^ 32
  let subject := if note.1 = 2 then note.2.2 else me
  let port := if note.1 = 2 then note.2.1 else 0xF
  let s := { s with fab := { s.fab with noted := s.fab.noted + 1 }, ft := { s.ft with noteSeq := BitVec.ofNat 32 seq } }
  (s.sawNote (BitVec.ofNat 14 me) (BitVec.ofNat 32 seq)).floodNote none
    [note.1 + me * 2 ^ 16, seq, code.toNat + port * 2 ^ 16, subject] key.toNat

/-- A data packet on its way through the switch goes no further through a port: the VC that it holds there is free. -/
def Fabric.letGo (f : Fabric) (w : Worm) : Fabric := match w.out with
  | some n => { f with ports := f.ports.upd {} n fun p => { p with held := p.held.set false (vcOn n w.hdr) false } }
  | none => f

/-- A port starts afresh: what stood in its buffers is gone, and so is the way of a data packet that came by it (DESIGN CHOICE,
log 36). -/
def State.freshPort (s : State) (n : Nat) : State :=
  let gone := s.fab.worms.cells.filter fun c => decide (c.1 / 8 = n)
  let f := gone.foldl (fun (f : Fabric) c => match c.2 with
    | some w => { f.letGo w with worms := f.worms.set none c.1 none }
    | none => f) s.fab
  { s with fab := { f with ports := f.ports.set {} n (f.ports.get {} n).fresh } }

/-- R395, R399, R411: what is on its way out through a port whose link ends is discarded. -/
def State.discardWorms (s : State) (n : Nat) : State :=
  forEach (fun (c : Nat × Option Worm) (s : State) => match c.2 with
    | some w =>
      if (w.out.map (·.val)) = some n then
        { s with fab := { s.fab with worms := s.fab.worms.set none c.1 (some { w with out := none }) } }.discard n 3 w.hdr
      else s
    | none => s) s.fab.worms.cells s

/-- R395, R411, R583: a port enters FAILED: FAB_LINK_DOWN, its frames and its own packets are gone, and for an enabled
port every running job ends with a note of kind 2. -/
def State.failPort (s : State) (n : Nat) : State :=
  let p := s.port n
  if p.state = 3 then s
  else
    let peer := p.peer.toNat
    let s := s.freshPort n
    let s := s.setPort n { s.port n with state := 3, fecLock := false }
    let s := s.raise (.fab n) Code.fabLinkDown 0 [n]
    let s := (forEach (fun (_, (k : Packet)) s => s.discard n 3 k.hdr) p.outq s).discardWorms n
    if s.portEnabled n then
      forEach (fun k s => s.stopJob k Code.fabLinkDown 0 (some (2, n, peer))) s.running s
    else s

/-! ### Receiving frames (R394) -/

/-- R394: frames up to ACK are acknowledged: answers how many left the replay store. -/
def Port.acked (p : Port) (ack : BitVec 12) : Port × Nat :=
  let keep := p.replay.filter fun f => decide ((fSeq f - ack - 1).toNat < 2048)
  ({ p with replay := keep }, p.replay.length - keep.length)

/-- A control block of a frame as a packet. -/
def blockPacket (w : Nat) : Packet := { hdr := BitVec.ofNat 128 w, body := leBytes 48 (w / 2 ^ 128) }

/-- Something arrives in the buffer of a VC. -/
def Port.take (p : Port) (vc : Nat) (l : Load) : Port := { p with inq := p.inq.upd [] vc (· ++ [{ load := l }]) }

/-- The blocks of an accepted frame: control packets, or a flit (R393, R399). -/
def Port.bodyIn (p : Port) (f : BitVec 2176) : Port :=
  match fType f with
  | 1 => forEach (fun b (p : Port) => if fBlk f b then p.take (fVc f b) (.ctl (blockPacket (fBlock f b))) else p) (upto 4) p
  | 2 => p.take (fVc f 0) (.flit (BitVec.ofNat 2048 (fBody f)))
  | _ => p

/-- R394, R395: 32 successive retries. -/
def retryMax : Nat := 32

/-- R393, R394: an accepted frame: its ACK and NAK, its credit, and its blocks. The port sends what it then can, and where that is
nothing an idle frame with the ACK, but for a port at a break (R407). Answers the port, and whether it fails. -/
def Port.accept (n : Nat) (silent : Bool) (p : Port) (f : BitVec 2176) : Port × Bool :=
  let p := { p with rxSeq := p.rxSeq + 1, nakSent := false, nakDue := false }
  let (p, gone) := p.acked (fAck f)
  let p := if 0 < gone then { p with noProg := 0 } else p
  let p := if fNak f then { p with retry := countUp p.retry p.replay.length, noProg := if gone = 0 then p.noProg + 1 else 0 } else p
  let p := { p with used := p.used.upd 0 (fCvc f) (· - fCblk f) }
  let q := Port.pump n silent (p.bodyIn f)
  (if silent || decide (q.txSeq ≠ p.txSeq) then q else q.idle, decide (retryMax ≤ p.noProg))

/-- R394: of a frame that is out of order only the ACK counts: it tells again what has arrived (DEDUCED, log 36). -/
def Port.heard (p : Port) (f : BitVec 2176) : Port :=
  let (p, gone) := p.acked (fAck f)
  if 0 < gone then { p with noProg := 0 } else p

/-- R394: a port takes a frame. -/
def State.linkReceive (s : State) (n : Nat) (f : BitVec 2176) (fec : FecResult) : State :=
  let p := s.port n
  if p.state ≠ 2 then s
  else
    let p := match fec with
      | .corrected => { p with fec := countUp p.fec 1 }
      | _ => p
    let lost := match fec with
      | .uncorrected => true
      | _ => !fGood f
    let silent := s.overBreak n
    if lost then s.setPort n (Port.nak silent { p with err := countUp p.err 1 })
    else if fSeq f ≠ p.rxSeq then
      let p := p.heard f
      s.setPort n (if p.nakSent && !p.nakDue then p else p.nak silent)
    else
      let (p, dead) := Port.accept n silent p f
      let s := s.setPort n p
      if dead then s.failPort n else s

/-- R394: LINK_FRAME_RECEIVE. -/
def execLinkFrameReceive (port : Fin 13) (frame : BitVec 2176) (fec : FecResult) (s : State) : Out :=
  run (.linkFrameReceive port frame fec) s fun s => s.linkReceive port frame fec

/-- R395: FEC lock is lost for 10 µs: a port that is UP or TRAINING becomes FAILED. -/
def execPortFecLockLoss (port : Fin 13) (s : State) : Out :=
  run (.portFecLockLoss port) s fun s =>
    let p := s.port port
    if p.state = 1 ∨ p.state = 2 then s.failPort port else s

/-- R521: the ports that a SerDes pair serves (R520). -/
def portsOfPair (p : Fin 4) : List (Fin 13) := match p with
  | 0 => [0, 1, 2, 3]
  | 1 => [4, 5, 6]
  | 2 => [7, 8, 9, 10]
  | 3 => [11, 12]

/-- R520: the pair of a port has its clock. -/
def State.portClock (s : State) (n : Fin 13) : Bool :=
  ([0, 1, 2, 3] : List (Fin 4)).any fun p => bitOf s.pins.sdClk.toNat p && (portsOfPair p).contains n

/-- R391, R395, R521: training ends on a port that is DOWN or TRAINING and has its clock: it is UP, or FAILED where the partner is
another than the one expected. -/
def execPortTrainingDone (port : Fin 13) (peer : BitVec 14) (reversed : Bool) (s : State) : Out :=
  run (.portTrainingDone port peer reversed) s fun s =>
    let p := s.port port
    if (p.state = 0 ∨ p.state = 1) ∧ s.portClock port = true then
      let s := s.freshPort port
      let p := { s.port port with peer := peer, reversed := reversed, fecLock := true }
      let bad := match s.expectedPeer port with
        | some e => decide (e ≠ peer.toNat)
        | none => false
      if bad then
        let s := (s.setPort port p).raise (.fab port) Code.fabCabling 0 [port]
        s.failPort port
      else s.setPort port { p with state := 2 }
    else s

/-- R395, R399: FAB_CTRL.RETRAIN orders a port to train again. A data packet on its way out there is discarded (DESIGN CHOICE,
log 36). -/
def State.retrain (s : State) (n : Nat) : State :=
  let s := s.freshPort n
  (s.setPort n { s.port n with state := 1, fecLock := false }).discardWorms n

/-- R393: the ports' streams of frames run on as time passes: an UP port whose frames have all been acknowledged, and that is not at
a break, sends an idle frame at an idle tick (log 36). -/
def State.tickLinks (s : State) : State :=
  forEach (fun (n : Fin 13) (s : State) =>
    if (s.port n).state = 2 ∧ (s.port n).replay.isEmpty ∧ !s.overBreak n then s.setPort n (s.port n).idle else s) allPorts s

end Sys2Proof.Machine
end

