-- ==== Sys2Proof/Machine/Switch.lean ====
section
/-! DEFINITION. The switch of the fabric island: dimension order, datelines, multicast, ejection and discards, the route
table and its commit (R386, R399 to R407, R410 to R412). -/

namespace Sys2Proof.Machine

/-! ### Routing (R405 to R407) -/

/-- R405: whether an axis is left in the + direction, from the sizes and the break of the ring. -/
def axisPlus (size cur dst : Nat) (brk : Option Nat) : Bool :=
  let d := backBy dst cur size
  let plus := decide (d ≤ size / 2)
  match brk with
  | none => plus
  | some b =>
    let plus := if plus && decide (backBy b cur size < d) then false else plus
    if !plus && decide (backBy cur (b + 1) size < size - d) then true else plus

/-- R388: the axis of a torus port. -/
def portAxis (n : Nat) : Option Nat := if 7 ≤ n then some ((n - 7) / 2) else none

/-- Set DIR's bit of an axis, and DL (R396, R406). -/
def setRoute (h : BitVec 128) (axis : Nat) (plus dl : Bool) : BitVec 128 :=
  BitVec.ofNat 128 (setFld (setFld h.toNat (5 + axis) 1 (b2n !plus)) 4 1 (b2n dl))

/-- R405, R406: one link along an axis: the port, and the header as it goes out. A packet that enters the axis here
chooses its direction; DL is 1 from the dateline link on. -/
def axisHop (dim : Nat × Nat × Nat) (cur axis : Nat) (plus : Bool) (enters : Bool) (h : BitVec 128) : Nat × BitVec 128 :=
  let wraps := if plus then decide (cur + 1 = axisSize dim axis) else decide (cur = 0)
  let dl := wraps || (!enters && hDl h == 1)
  (7 + 2 * axis + (if plus then 0 else 1), setRoute h axis plus dl)

/-- R405: the next port of a unicast packet and its header, by a route table; none at its destination. -/
def unicast (t : RouteTable) (src : Option Nat) (h : BitVec 128) : Option (Nat × BitVec 128) :=
  let dim := sizesOf (some t)
  let me := t.myPhys.toNat
  if hDst h = me then none
  else
    let c := coordOf dim me
    let d := coordOf dim (hDst h)
    match [0, 1, 2].find? fun a => c.along a != d.along a with
    | some a =>
      let enters := (src.bind portAxis) != some a
      let plus := if enters then axisPlus (axisSize dim a) (c.along a) (d.along a) (breakOf t.brk.toNat a) else !bitOf (hDir h) a
      some (axisHop dim (c.along a) a plus enters h)
    | none => some ((c.slot ^^^ d.slot) - 1, BitVec.ofNat 128 (setFld h.toNat 4 1 0))

/-- R404: MC_AXIS and MC_COUNT. -/
def mcAxis (h : BitVec 128) : Nat := fld (hKspec h) 0 2
def mcCount (h : BitVec 128) : Nat := fld (hKspec h) 2 6

/-- R404: a multicast that is refused at its source: its class or axis, its count, its last device, or the ring's break. -/
def State.mcastBad (s : State) (h : BitVec 128) : Bool :=
  let dim := s.dims
  let me := s.physNode
  let c := coordOf dim me
  let a := mcAxis h
  let sz := axisSize dim a
  let n := mcCount h
  let plus := !bitOf (hDir h) a
  let last := if plus then (c.along a + n) % sz else backBy (c.along a) n sz
  let dst := nodeAt dim (if a = 0 then { c with x := last } else { c with y := last })
  decide (hVcc h < 2) || decide (2 ≤ a) || decide (n = 0) || decide (sz ≤ n) || decide (dst ≠ hDst h)
  || match breakOf ((s.fab.rt.map fun r => r.brk.toNat).getD 0) a with
    | some b => if plus then decide (backBy b (c.along a) sz < n) else decide (backBy (c.along a) (b + 1) sz < n)
    | none => false

/-- R404: the onward port of a multicast packet and its header, by a route table; none at the last device. -/
def mcastNext (t : RouteTable) (src : Option Nat) (h : BitVec 128) : Option (Nat × BitVec 128) :=
  if hDst h = t.myPhys.toNat then none
  else
    let a := mcAxis h % 2
    let dim := sizesOf (some t)
    some (axisHop dim ((coordOf dim t.myPhys.toNat).along a) a (!bitOf (hDir h) a) src.isNone h)

/-! ### Moving a packet (R399, R402, R411) -/

/-- R411: a node outside the sizes of a table. -/
def outside (t : RouteTable) (n : Nat) : Bool :=
  let d := sizesOf (some t)
  decide (8 * d.1 * d.2.1 * d.2.2 ≤ n)

/-- Where a packet goes from this device. -/
inductive Way where
  /-- it is discarded: the port and the case of R411 -/
  | lost (port reason : Nat)
  /-- it goes on through a port with a header, and, or, a copy is for this device -/
  | on (next : Option (Fin 13 × BitVec 128)) (here : Bool)
  deriving DecidableEq, Repr

/-- A port as the switch names it. -/
def asPort (x : Nat × BitVec 128) : Fin 13 × BitVec 128 := (Fin.ofNat 13 x.1, x.2)

/-- R404, R405, R411: the way of a packet from an input, by a route table. -/
def State.way (s : State) (r : Option RouteTable) (src : Option (Fin 13)) (h : BitVec 128) : Way :=
  let at_ := src.map (·.val)
  if (kindInfo (hKind h)).isNone then .lost 0xFF 1
  else match r with
    | none => .lost 0xFF 2
    | some t =>
      if outside t (hDst h) then .lost 0xFF 2
      else if hMcast h then
        if src.isNone && s.mcastBad h then .lost 0xFF 4 else .on ((mcastNext t at_ h).map asPort) src.isSome
      else match unicast t at_ h with
        | none => .on none true
        | some x => .on (some (asPort x)) false

/-- R407, R411: no packet goes out through a port that is FAILED, not enabled, or at a break. -/
def State.shut (s : State) (r : Option RouteTable) (n : Nat) : Bool :=
  decide ((s.port n).state = 3) || !tableEnables r n || tableBreaks r n

/-- Where an input's data packet is kept on its way: at 8 port + VC, and at 104 + class for the injection queue. -/
def inputNo (src : Option (Fin 13)) (vc : Nat) : Nat := match src with
  | some p => 8 * p.val + vc
  | none => 104 + vc

/-- The head cell of an input port's VC is freed (R400). -/
def State.freeCell (s : State) (p : Fin 13) (vc k : Nat) : State :=
  let q := s.port p.val
  s.setPort p.val (Port.free p.val (s.overBreak p.val) { q with inq := q.inq.upd [] vc List.tail } vc k)

/-- R599: a packet at the injection queue may go out on a class's VC: in Fold only a reply of the Fold bridge, or one whose
flits are on their way. -/
def Fabric.injects (f : Fabric) (folded : Bool) (vc : Nat) (x : Packet) : Bool :=
  hVcc x.hdr == vc && (!folded || hVcc x.hdr == 1 || (f.worms.get none (inputNo none vc)).isSome)

/-- The oldest packet of a class leaves the injection queue. -/
def State.uninject (s : State) (vc : Nat) : State :=
  { s with fab := { s.fab with inject := s.fab.inject.eraseP (s.fab.injects s.ft.folded vc) } }

/-- A control packet leaves its input. -/
def State.unqueue (s : State) (src : Option (Fin 13)) (vc : Nat) : State :=
  match src with
  | some p => s.freeCell p vc 1
  | none => s.uninject vc

/-- R599: the kinds that a folded device takes for itself: requests for the Fold bridge, and notes. -/
def foldTakes (h : BitVec 128) : Bool := decide (hKind h ≤ 3) || hKind h == 0x21

/-- A packet for this device goes to its class's queue, a note to the island's (R408). In Fold, packets for the core
domain are discarded (R599). -/
def State.ejectPacket (s : State) (src : Option (Fin 13)) (k : Packet) : State :=
  if hKind k.hdr = 0x21 then { s with fab := { s.fab with noteIn := s.fab.noteIn ++ [(src, k)] } }
  else if s.ft.folded && !foldTakes k.hdr then s.discard 0xFF 3 k.hdr
  else { s with fab := { s.fab with eject := s.fab.eject.upd [] (hVcc k.hdr) (· ++ [k]) } }

/-- R399, R404, R411: a control packet moves on as a whole; the state is unchanged where it must wait. -/
def State.forwardCtl (s : State) (r : Option RouteTable) (src : Option (Fin 13)) (vc : Nat) (k : Packet) : State :=
  let copy (here : Bool) (s : State) : State := if here then s.ejectPacket src k else s
  match s.way r src k.hdr with
  | .lost p reason => (s.unqueue src vc).discard p reason k.hdr
  | .on none here => copy here (s.unqueue src vc)
  | .on (some (n, h)) here =>
    let p := s.port n.val
    if s.shut r n.val then copy here ((s.discard n.val 3 h).unqueue src vc)
    else if p.maySend n.val (vcOn n.val h) then copy here ((s.setPort n.val (p.send (vcOn n.val h) { k with hdr := h })).unqueue src vc)
    else s

/-- R399: the way of a data packet is settled as its head flit comes to the head of an input: it takes the VC of its next link, or
is discarded; none where it must wait for that VC. -/
def State.settleWay (s : State) (r : Option RouteTable) (src : Option (Fin 13)) (h : BitVec 128) : Option (Worm × State) :=
  match s.way r src h with
  | .lost p reason => some ({ hdr := h }, s.discard p reason h)
  | .on none here => some ({ hdr := h, here := here }, s)
  | .on (some (n, h')) here =>
    let p := s.port n.val
    let v := vcOn n.val h'
    if s.shut r n.val then some ({ hdr := h', here := here }, s.discard n.val 3 h')
    else if p.held.get false v || !p.mayPut n.val v 4 then none
    else some ({ hdr := h', out := some n, here := here }, s.setPort n.val { p with held := p.held.set false v true })

/-- R399: a flit moves on along the way of its data packet: it goes out once 256 bytes are free there, and is copied for this device;
with the tail flit the way ends, and a copy is whole. -/
def State.flitOn (s : State) (src : Option (Fin 13)) (vc : Nat) (w : Worm) (b : BitVec 2048) : State :=
  let b' : BitVec 2048 := if w.moved = 0 then BitVec.ofNat 2048 (setFld b.toNat 0 128 w.hdr.toNat) else b
  let go : Option State := match w.out with
    | none => some s
    | some n =>
      let v := vcOn n.val w.hdr
      if (s.port n.val).mayPut n.val v 4 then some (s.setPort n.val ((s.port n.val).sendFlit v b')) else none
  match go with
  | none => s
  | some s =>
    let last := decide (Packet.flits ⟨w.hdr, []⟩ ≤ w.moved + 1)
    let w := { w with moved := w.moved + 1, bytes := if w.here then w.bytes ++ leBytes 256 b.toNat else [] }
    let s := match src with
      | some p => s.freeCell p vc 4
      | none => if last then s.uninject vc else s
    let k := inputNo src vc
    if last then
      let f := s.fab.letGo w
      let s := { s with fab := { f with worms := f.worms.set none k none } }
      let s := match w.out with
        | some n => s.setPort n.val (Port.pump n.val (s.overBreak n.val) (s.port n.val))
        | none => s
      let h := BitVec.ofNat 128 (leNat (w.bytes.take 16))
      if w.here then s.ejectPacket src ⟨h, (w.bytes.drop 16).take (48 + hLen h)⟩ else s
    else { s with fab := { s.fab with worms := s.fab.worms.set none k (some w) } }

/-- R399: a flit at the head of an input moves, the head flit once its way is settled. -/
def State.forwardFlit (s : State) (r : Option RouteTable) (src : Option (Fin 13)) (vc : Nat) (b : BitVec 2048) : State :=
  match s.fab.worms.get none (inputNo src vc) with
  | some w => s.flitOn src vc w b
  | none => match s.settleWay r src (BitVec.ofNat 128 b.toNat) with
    | some (w, s) => s.flitOn src vc w b
    | none => s

/-- The flit of a packet at the injection queue that goes next. -/
def Packet.flit (k : Packet) (n : Nat) : BitVec 2048 := BitVec.ofNat 2048 (leNat ((k.bytes.drop (256 * n)).take 256))

/-- R399, R404, R405, R411, R412: what stands at the head of an input moves on: a control packet, or a flit of a data packet. What
came to a port before a route table was applied goes by the table before it. -/
def State.forward (s : State) (src : Option (Fin 13)) (vc : Nat) : State :=
  match src with
  | some p => match (s.port p.val).inq.get [] vc with
    | [] => s
    | c :: _ =>
      let r := if c.old.isSome then c.old else s.fab.rt
      match c.load with
      | .ctl k => s.forwardCtl r src vc k
      | .flit b => s.forwardFlit r src vc b
  | none => match s.fab.inject.find? (s.fab.injects s.ft.folded vc) with
    | none => s
    | some k =>
      if hData k.hdr then
        s.forwardFlit s.fab.rt none vc (k.flit (((s.fab.worms.get none (inputNo none vc)).map (·.moved)).getD 0))
      else s.forwardCtl s.fab.rt none vc k

/-- R405: PACKET_FORWARD. -/
def execPacketForward (src : Option (Fin 13)) (vc : BitVec 3) (s : State) : Out :=
  run (.packetForward src vc) s fun s => s.forward src vc.toNat

/-! ### Route tables (R410, R412) -/

/-- Bytes of a route table image. -/
def rtBytes : Nat := 32832

/-- R410: sizes and breaks keep their rules. -/
def rtSizesGood (dims brk : Nat) : Bool :=
  let sz (k : Nat) : Nat := fld dims (8 * k) 7
  let ok (k : Nat) : Bool := decide (1 ≤ sz k) && decide (sz k ≤ 64)
    && (!bitOf brk (8 * k + 6) || (decide (2 ≤ sz k) && decide (fld brk (8 * k) 6 < sz k)))
  ok 0 && ok 1 && ok 2 && decide (sz 0 * sz 1 * sz 2 ≤ 2048)
  && zeroBits dims 7 1 && zeroBits dims 15 1 && zeroBits dims 23 9 && zeroBits brk 7 1 && zeroBits brk 15 1 && zeroBits brk 23 9

/-- R410: PORT_EN names every port of an axis of size 2 or more, but for the port at a break. -/
def rtPortsGood (dim : Nat × Nat × Nat) (node brk en : Nat) : Bool :=
  zeroBits en 13 19 && [0, 1, 2].all fun a =>
    let sz := axisSize dim a
    let c := (coordOf dim node).along a
    decide (sz < 2) ||
      ((bitOf en (7 + 2 * a) || breakOf brk a == some c)
        && (bitOf en (8 + 2 * a) || breakOf brk a == some ((c + sz - 1) % sz)))

/-- R410: the entries: each valid one within the sizes, none twice, and no reserved bit. -/
def rtMapGood (limit : Nat) (es : List (Nat × Nat)) : Bool :=
  let ids := (es.filter fun e => bitOf e.2 15).map fun e => fld e.2 0 14
  (es.all fun e => zeroBits e.2 14 1) && ids.all (fun i => decide (i < limit)) &&
    (ids.foldl (fun (acc : Array Bool × Bool) i => if acc.1.getD i false then (acc.1, false) else (acc.1.setIfInBounds i true, acc.2))
      ((List.replicate limit false).toArray, true)).2

/-- R410: check an image for a device; the table it holds, if it passes. -/
def State.readTable (s : State) (a : Nat) : Option RouteTable :=
  if hbmEnd < a + rtBytes ∨ a % 64 ≠ 0 then none
  else
    let w (k : Nat) : Nat := s.natAt (a + 4 * k) 4
    let dim : Nat × Nat × Nat := (fld (w 1) 0 7, fld (w 1) 8 7, fld (w 1) 16 7)
    let es := (chunks 2 16384 (s.bytesAt (a + 64) 32768)).zipIdx.map fun (b, k) => (k, leNat b)
    let es := es.filter fun e => e.2 != 0
    let limit := 8 * dim.1 * dim.2.1 * dim.2.2
    if w 0 = s.physNode ∧ rtSizesGood (w 1) (w 2) ∧ w 0 < limit ∧ rtPortsGood dim (w 0) (w 2) (w 3)
        ∧ s.natAt (a + 16) 48 = 0 ∧ rtMapGood limit es then
      some { myPhys := BitVec.ofNat 14 (w 0), dims := BitVec.ofNat 32 (w 1), brk := BitVec.ofNat 32 (w 2),
             portEn := BitVec.ofNat 13 (w 3), map := ⟨(es.filter fun e => bitOf e.2 15).map fun e => (e.1, BitVec.ofNat 16 e.2)⟩ }
    else none

/-- R395, R546: with a table in effect, a port that is up with a partner the table does not expect fails. -/
def State.checkPeers (s : State) : State :=
  forEach (fun (n : Fin 13) s => match s.expectedPeer n with
    | some e =>
      if (s.port n).state = 2 ∧ (s.port n).peer.toNat ≠ e then (s.raise (.fab n) Code.fabCabling 0 [n]).failPort n else s
    | none => s) allPorts s

/-- R412: what stands in the input buffers finishes on the table before the one that is applied. -/
def Port.keepRoute (r : Option RouteTable) (p : Port) : Port :=
  { p with inq := ⟨p.inq.cells.map fun (v, l) => (v, l.map fun c => if c.old.isNone then { c with old := r } else c)⟩ }
def State.keepRoutes (s : State) : State :=
  { s with fab := { s.fab with ports := ⟨s.fab.ports.cells.map fun (n, p) => (n, p.keepRoute s.fab.rt)⟩ } }

/-- R412: the fabric island copies a committed image, checks it and applies it. -/
def State.applyTable (s : State) : State := match s.fab.rtWait with
  | none => s
  | some a =>
    let s := { s with fab := { s.fab with rtWait := none } }.touchPlain clsBulk false a.toNat rtBytes
    match s.readTable a.toNat with
    | some t =>
      let s := s.keepRoutes
      { s with fab := { s.fab with rt := some t } }.checkPeers
    | none => s.raise (.fab 0xFF) Code.fabRtBad 0 [0xFF]

/-- R412: ROUTE_TABLE_APPLY. -/
def execRouteTableApply (s : State) : Out := run .routeTableApply s fun s => s.applyTable

end Sys2Proof.Machine
end

