-- ==== Sys2Proof/Machine/Jobs.lean ====
section
/-! DEFINITION. Jobs: the job rings' entries, the checks of job start, binding, completion records, the end of a job and
Patch (R52 to R66, R203, R204, R211, R364, R365, R467 to R476, R578, R588, R589). -/

namespace Sys2Proof.Machine

/-! ### Ring entries (R467, R471, R476) -/

def State.ring (s : State) (k : Nat) : Ring := s.hif.rings.get {} k
def State.setRing (s : State) (k : Nat) (r : Ring) : State := { s with hif := { s.hif with rings := s.hif.rings.set {} k r } }

/-- R467: entries of a ring; 0 where it is disabled. -/
def Ring.entries (r : Ring) : Nat := if fld r.size.toNat 0 4 = 0 then 0 else 2 ^ fld r.size.toNat 0 4

/-- R467: the address of entry index i. -/
def Ring.entry (r : Ring) (i : Nat) : Nat := r.base.toNat + i % r.entries * 256

/-- R471: fields of a job descriptor. -/
def jdIrq (d : Nat) : Bool := bitOf d 8
def jdKey (d : Nat) : Nat := wordAt d 1
def jdMask (d : Nat) : Nat := fld (wordAt d 5) 16 16
def jdGangAddr (d : Nat) : Nat := dwordAt d 6
def jdGangCount (d : Nat) : Nat := wordAt d 8
def jdIfaceAddr (d : Nat) : Nat := dwordAt d 10
def jdIfaceCount (d : Nat) : Nat := wordAt d 12
def jdWinAddr (d : Nat) : Nat := dwordAt d 14
def jdWinCount (d : Nat) : Nat := wordAt d 16
def jdGenAddr (d : Nat) : Nat := dwordAt d 18
def jdGenCount (d : Nat) : Nat := wordAt d 20

/-- R472: fields of an interface entry. -/
def ifId (e : BitVec 256) : Nat := fld e.toNat 0 12
def ifGang (e : BitVec 256) : Bool := bitOf e.toNat 12
def ifACount (e : BitVec 256) : Nat := wordAt e.toNat 1
def ifABase (e : BitVec 256) : Nat := dwordAt e.toNat 2
def ifXBase (e : BitVec 256) : Nat := dwordAt e.toNat 4
def ifXCount (e : BitVec 256) : Nat := wordAt e.toNat 6

/-- A table of `n` entries of `k` bytes as the schedulers read it. -/
def State.table (s : State) (a k n w : Nat) : List (BitVec w) := (upto n).map fun i => BitVec.ofNat w (s.natAt (a + k * i) k)

/-- The bytes of a completion record but its word 0 (R476). -/
def recordRest (index iface iter start elapsed : Nat) : List Byte :=
  bytesOf ([index, iface, iter, fld start 0 32, fld start 32 32, fld elapsed 0 32, fld elapsed 32 32] ++ List.replicate 8 0)

/-- R476: write a completion record, word 0 last; then the ring's vector, and DONE. -/
def State.putRecord (s : State) (k : Nat) (entry : Nat) (irq : Bool) (st : Nat) (code : BitVec 16) (index iface iter start : Nat) : State :=
  let now := s.hif.time.toNat
  let a := entry + 192
  let s := (s.touchPlain clsBulk true a 64).put (a + 4) (recordRest index iface iter start (now - start))
  let s := s.put a (leBytes 4 (st + code.toNat * 2 ^ 16))
  let r := s.ring k
  let s := if irq && bitOf r.vec.toNat 8 then s.sendVec (fld r.vec.toNat 0 6) else s
  s.setRing k { s.ring k with done := r.done + 1 }

/-! ### The checks of phase 3 (R55, R204, R365, R474) -/

/-- A rejection: its code, INDEX and the arguments of its record. -/
structure Reject where
  code  : BitVec 16
  index : Nat
  deriving DecidableEq, Repr

/-- A check that must hold. -/
def must (ok : Bool) (code : BitVec 16) (index : Nat) : Except Reject Unit := if ok then .ok () else .error ⟨code, index⟩

/-- Check the elements of a list in ascending order; `f` sees the index, the elements before, and the element. -/
def eachOf {α : Type} (f : Nat → List α → α → Except Reject Unit) : Nat → List α → List α → Except Reject Unit
  | _, _, [] => .ok ()
  | i, seen, a :: r =>
    match f i seen a with
    | .ok _ => eachOf f (i + 1) (seen ++ [a]) r
    | .error e => .error e

/-- Addresses a to a + n - 1 lie in HBM or in one die's explicit region or the next (R346, R353, R471). -/
def State.inStore (s : State) (a n : Nat) : Bool :=
  decide (a + n ≤ hbmEnd) ||
    (decide (cupbBase ≤ a) && decide (a + n ≤ cupbBase + 2 ^ 34) && decide (0 < n) &&
      (rangeFrom ((a - cupbBase) / 2 ^ 28) ((a + n - 1 - cupbBase) / 2 ^ 28 - (a - cupbBase) / 2 ^ 28 + 1)).all fun w =>
        decide (w % 16 < s.ways (w / 16)))

/-- R471: a table of the descriptor, by address, alignment, entry size and count. -/
def State.tableGood (s : State) (a al k n : Nat) : Bool := decide (a % al = 0) && s.inStore a (Nat.max 1 (k * n))

/-- R471, R474: the fields of a job descriptor. -/
def State.descGood (s : State) (d : Nat) : Bool :=
  fld d 0 8 == 1 && zeroBits d 9 23 && decide (jdKey d ≠ 0)
  && decide (1 ≤ jdGangCount d) && decide (jdGangCount d ≤ 256) && wordAt d 9 == 0
  && decide (1 ≤ jdIfaceCount d) && decide (jdIfaceCount d ≤ 256) && wordAt d 13 == 0
  && decide (jdWinCount d ≤ 16) && wordAt d 17 == 0
  && decide (jdGenCount d ≤ 4096) && zeroBits d 672 864
  && s.tableGood (jdGangAddr d) 64 64 (jdGangCount d) && s.tableGood (jdIfaceAddr d) 32 32 (jdIfaceCount d)
  && s.tableGood (jdWinAddr d) 32 32 (jdWinCount d) && s.tableGood (jdGenAddr d) 32 32 (jdGenCount d)

/-- R472, R474: the fields of an interface entry. -/
def State.ifaceGood (s : State) (e : BitVec 256) : Bool :=
  zeroBits e.toNat 13 19 && wordAt e.toNat 7 == 0
  && plainDev (ifABase e) && decide (ifABase e % 32 = 0) && plainDev (ifXBase e) && decide (ifXBase e % 32 = 0)
  && (ifGang e || (s.physOf (ifId e)).isSome)

/-- The physical cores that KIND 0 interface entries name. -/
def State.ifaceCores (s : State) (es : List (BitVec 256)) : List CoreRef :=
  (es.filter fun e => !ifGang e).filterMap fun e => s.physOf (ifId e)

/-- R218: the gangs that are top-level interfaces of a job. -/
def State.topGangs (s : State) (j : Job) : List Nat :=
  dedup (((j.gangs.filter gangValid).map gangId).filter fun g => (s.parentOfGang j g).isNone)

/-- R474: an interface entry names a top-level interface that no entry before it names. -/
def State.namesTop (s : State) (j : Job) (seen : List (BitVec 256)) (e : BitVec 256) : Bool :=
  if ifGang e then (s.topGangs j).contains (ifId e) && !(seen.any fun x => ifGang x && ifId x == ifId e)
  else match s.physOf (ifId e) with
    | some r => (s.parentOfCore j r).isNone && !(s.ifaceCores seen).contains r
    | none => false

/-- R61: a KIND 2 gang that is not empty has eight members, one on each hem slot, which share one GANG_ID. -/
def hemGood (d : BitVec 512) : Bool :=
  let ms := gangMembers d
  gangKind d != 2 || ms.isEmpty
  || (decide (gangCount d = 8) && (upto 8).all (fun k => ms.any fun m => fld m 12 3 == k)
    && decide ((dedup (ms.map (· % 4096))).length = 1))

/-- R53, R54: a valid gang descriptor carries no reserved encoding. -/
def gangGood (d : BitVec 512) : Bool :=
  let n := d.toNat
  decide (gangKind d ≠ 3) && !bitOf n 15 && decide (gangCount d ≤ 16) && zeroBits n 21 11
  && decide (gangSplit d ≤ 3) && zeroBits n 35 29
  && plainDev (gangWinBase d) && decide (gangWinBase d % 4096 = 0) && decide (gangWinSize d % 4096 = 0) && zeroBits n 192 64
  && ((gangMembers d).all fun m => match gangKind d with
    | 0 => decide (m < 512) && decide (m % 16 ≤ 8)
    | 1 => decide (m < 4096)
    | _ => decide (m < 32768))
  && hemGood d

/-- The windows of a member and its parent (R55). -/
def winInside (c p : BitVec 512) : Bool :=
  gangWinSize c == 0 || (decide (gangWinBase p ≤ gangWinBase c)
    && decide (gangWinBase c + gangWinSize c ≤ gangWinBase p + gangWinSize p))

/-- The members that a descriptor names on this device. -/
def State.membersOf (s : State) (d : BitVec 512) : List Member := (gangMembers d).map (s.member d)

/-- The physical cores that jobs hold (R65, R257). -/
def State.heldCores (s : State) : List CoreRef := s.jobNos.flatMap fun n => match s.job n with
  | some j => j.cores
  | none => []

/-- R55: the valid descriptor at place `i` of the gang table keeps the rules. A rule between two descriptors is broken by both (log 31). -/
def State.gangOk (s : State) (j : Job) (i : Nat) (d : BitVec 512) : Bool :=
  let here := (gangMembers d).filter fun m => gangKind d != 2 || fld m 12 3 == s.hemSlot
  let ms := here.map (s.member d)
  let others := (j.gangs.eraseIdx i).filter gangValid
  let theirs := others.flatMap s.membersOf |>.filter (· ≠ .other)
  gangGood d
  && !(others.any fun e => gangId e == gangId d)
  && ms.all (fun m => match m with
    | .core r => (s.logicalOf r).isSome && !s.heldCores.contains r
    | .gang g => (j.gang g).isSome
    | .other => false)
  && decide (ms.length = (dedup ms).length) && !(ms.any theirs.contains)
  && !((s.aboveGo j 257 (gangId d)).drop 1).contains (gangId d)
  && others.all fun p => (!(gangKind p != 0 && (s.membersOf p).contains (.gang (gangId d))) || winInside d p)
    && (!(gangKind d != 0 && ms.contains (.gang (gangId p))) || winInside p d)

/-- R364, R365: a window entry carries no reserved encoding. -/
def winGood (w : BitVec 256) : Bool :=
  decide (winBase w % 4096 = 0) && decide (winBase w < 2 ^ 47) && decide (winSize w % 4096 = 0)
  && zeroBits w.toNat 134 26 && zeroBits w.toNat 160 96

/-- R365: a non-guard window covers backed bytes only, and Baskets and registers of held cores only. -/
def State.winBacked (s : State) (held : List CoreRef) (a n : Nat) : Bool :=
  let mine (c : Nat) : Bool := match s.physOf c with
    | some r => held.contains r
    | none => false
  let units (base sz : Nat) (p : Nat → Bool) : Bool :=
    (rangeFrom ((a - base) / sz) ((a + n - 1 - base) / sz - (a - base) / sz + 1)).all p
  n == 0
  || (decide (a + n ≤ hbmEnd) && units 0 (2 ^ 36) fun st => !s.stackFailed st)
  || (decide (hbmEnd ≤ a) && s.inStore a n)
  || (decide (basketBase ≤ a) && decide (a + n ≤ basketBase + 2 ^ 30) && units basketBase basketSize mine)
  || (decide (regBase ≤ a) && decide (a + n ≤ regBase + 2 ^ 24) && units regBase (2 ^ 16) mine)

/-- R365: two windows overlap. -/
def winsOverlap (v w : BitVec 256) : Bool :=
  decide (winBase v < winBase w + winSize w) && decide (winBase w < winBase v + winSize v)
  && winSize v != 0 && winSize w != 0

/-- R365: an entry of the window table keeps the rules, given those before it. -/
def State.winOk (s : State) (held : List CoreRef) (seen : List (BitVec 256)) (w : BitVec 256) : Bool :=
  winGood w && (winGuard w ||
    (!(seen.any fun v => !winGuard v && winsOverlap v w) && s.winBacked held (winBase w) (winSize w)))

/-- R203, R204: an entry of a generation table. -/
def State.genOk (s : State) (e : GenEnt) : Bool :=
  let b0 := e.base0.toNat
  let b1 := e.base1.toNat
  let n := e.size.toNat
  let g0 := e.gen0.toNat
  let g1 := e.gen1.toNat
  decide (b0 % 4096 = 0) && decide (b1 % 4096 = 0) && decide (n ≠ 0) && decide (n % 4096 = 0)
  && s.inStore b0 n && s.inStore b1 n && (decide (b0 + n ≤ b1) || decide (b1 + n ≤ b0))
  && (if g0 = genEmpty.toNat then decide (g1 ≠ genEmpty.toNat)
      else g1 == genEmpty.toNat || g0 == g1 + 1 || g1 == g0 + 1)

/-- An entry as the schedulers hold it. -/
def genEntry (e : BitVec 256) : GenEnt :=
  { base0 := BitVec.ofNat 64 (dwordAt e.toNat 0)
    base1 := BitVec.ofNat 64 (dwordAt e.toNat 2)
    size := BitVec.ofNat 64 (dwordAt e.toNat 4)
    gen0 := BitVec.ofNat 32 (wordAt e.toNat 6)
    gen1 := BitVec.ofNat 32 (wordAt e.toNat 7) }

/-- The cores that a job's gangs and interfaces reach. -/
def State.jobCores (s : State) (j : Job) : List CoreRef :=
  dedup (((j.gangs.filter gangValid).flatMap fun g => s.leaves j (gangId g)) ++ s.ifaceCores j.ifaces)

/-- The job that a descriptor and its tables describe, before it is bound; counts that R471 rejects are cut off. -/
def State.jobFrom (s : State) (k : Fin 8) (entry d : Nat) : Job :=
  let gangs : List (BitVec 512) := s.table (jdGangAddr d) 64 (Nat.min 256 (jdGangCount d)) 512
  let j : Job :=
    { ring := k
      entry := BitVec.ofNat 64 entry
      desc := BitVec.ofNat 1536 d
      gangs := gangs
      ifaces := s.table (jdIfaceAddr d) 32 (Nat.min 256 (jdIfaceCount d)) 256
      wins := s.table (jdWinAddr d) 32 (Nat.min 16 (jdWinCount d)) 256
      gens := ((s.table (jdGenAddr d) 32 (Nat.min 4096 (jdGenCount d)) 256 : List (BitVec 256)).map genEntry)
      iter := BitVec.ofNat 32 (wordAt d 4)
      numCtrl := s.cfg.numCtrl
      crsOff := s.cfg.crsOff
      startNs := s.hif.time }
  { j with cores := s.jobCores j }

/-- The ranges that phase 3 reads, in order. -/
def jobRanges (entry d : Nat) : List (Nat × Nat) :=
  [(entry, 192), (jdGangAddr d, 64 * jdGangCount d), (jdIfaceAddr d, 32 * jdIfaceCount d),
   (jdWinAddr d, 32 * jdWinCount d), (jdGenAddr d, 32 * jdGenCount d)]

/-- R580, R581: what the schedulers read lies on no poisoned line and no FAILED stack (log 22). -/
def State.readable (s : State) (a n : Nat) : Except Reject Unit := do
  must (n == 0 || hbmEnd ≤ a || !(rangeFrom (a / 2 ^ 36) ((a + n - 1) / 2 ^ 36 - a / 2 ^ 36 + 1)).any s.stackFailed) Code.stackFailed 0
  must (n == 0 || (s.poisonIn a n).isNone) Code.hbmUncorr 0

/-- The checks of phase 3 on a job's tables: R474, then R55 and R61, R365, and R204. -/
def State.jobRules (s : State) (j : Job) : Except Reject Unit := do
  eachOf (fun i _ e => must (s.ifaceGood e) Code.hifJobBad i) 0 [] j.ifaces
  must (s.running.all fun n => (s.job n).all fun o => o.key != j.key && o.chMask &&& j.chMask == 0) Code.hifJobBad 0
  eachOf (fun i seen e => must (s.namesTop j seen e) Code.hifJobBad i) 0 [] j.ifaces
  must ((s.topGangs j).all fun g => j.ifaces.any fun e => ifGang e && ifId e == g) Code.hifJobBad 0
  must (decide (s.running.length < 256)) Code.hifJobBad 0
  eachOf (fun i _ g => must (!gangValid g || s.gangOk j i g) Code.gangBad (gangId g)) 0 [] j.gangs
  eachOf (fun i _ e => must ((s.ifaceCores [e]).all fun r => !s.heldCores.contains r) Code.gangBad i) 0 [] j.ifaces
  eachOf (fun i seen w => must (s.winOk j.cores seen w) Code.memWinBad i) 0 [] j.wins
  eachOf (fun i _ e => must (s.genOk e) Code.genBad i) 0 [] j.gens

/-- The checks of phase 3: the descriptor, and what it names. -/
def State.jobChecks (s : State) (entry d : Nat) (j : Job) : Except Reject Unit := do
  s.readable entry 192
  must (s.descGood d) Code.hifJobBad 0
  eachOf (fun _ _ (r : Nat × Nat) => s.readable r.1 r.2) 0 [] (jobRanges entry d)
  s.jobRules j

/-! ### Binding (R64 phase 4) -/

/-- R64, R241, R245, R260: an interface as a job finds it; its break and match registers and its last halt stay. -/
def Iface.bind (x : Iface) (n : Nat) (top : Bool) : Iface :=
  { job := some n
    top := top
    bob := { x.bob with runahead := 512, tt := ⟨(x.bob.tt.cells.map fun (k, t) => (k, { mtch := t.mtch })).filter fun c => c.2 ≠ {}⟩,
                        stBusy := ⟨[]⟩, stWait := ⟨[]⟩ } }

/-- R64, R113, R132, R247: a core as a job finds it: no tile, weight block, table or queue entry of an earlier job. -/
def Core.bind (c : Core) (n : Nat) (top : Bool) : Core :=
  { c with
    ifc := c.ifc.bind n top
    mng := { c.mng with
      wbuf := ⟨(c.mng.wbuf.cells.map fun (k, w) => (k, { w with valid := false })).filter fun x => x.2 ≠ {}⟩
      tiles := [], held := none, tbl := ⟨[]⟩, stNorm := ⟨[]⟩, stCerr := ⟨[]⟩, sample := none, normWait := [] }
    vec := { c.vec with tbl := ⟨[]⟩, halted := false, run := none }
    iron := { c.iron with state := 0, phase := 0 }
    subs := []
    dq := ⟨[]⟩ }

/-- R218, R472: an entry of the interface table gives its interface's streams. -/
def State.giveStreams (s : State) (n : Nat) (e : BitVec 256) : State :=
  let set (x : Iface) : Iface :=
    { x with acc := { base := BitVec.ofNat 64 (ifABase e), count := ifACount e }
             exe := { base := BitVec.ofNat 64 (ifXBase e), count := ifXCount e } }
  if ifGang e then s.updIfc (.gang n (BitVec.ofNat 12 (ifId e))) set
  else match s.physOf (ifId e) with
    | some r => s.updIfc (.core r) set
    | none => s

/-- R64: a job is bound: its cores and gangs, its channels (R418, R457) and its streams. -/
def State.bindJob (s : State) (j : Job) : State :=
  let n := s.jobCount
  let tab : Tab Iface := (j.gangs.filter gangValid).foldl (fun t d =>
    t.set {} (gangId d) (({} : Iface).bind n (s.parentOfGang j (gangId d)).isNone)) ⟨[]⟩
  let s := { s with jobCount := n + 1 }.setJob n (some { j with gangSt := tab })
  let s := forEach (fun r s => s.updCore r fun c => c.bind n (s.parentOfCore j r).isNone) j.cores s
  let s := forEach (fun ch s => if bitOf j.chMask ch then
    { s with chans := s.chans.upd {} ch fun x => { job := some n, lastCode := x.lastCode, turn := x.turn, past := x.past.filter (· != j.key) } } else s) (upto 16) s
  forEach (fun e s => s.giveStreams n e) j.ifaces s

/-- The hem gangs of a job (R61). -/
def Job.hemGangs (j : Job) : List (BitVec 512) := j.gangs.filter fun d => gangValid d && gangKind d == 2 && gangCount d != 0

/-- R61: a half of a device's own copy of a descriptor: the valid one of the GANG_ID, or zeros where there is none. -/
def Job.ownHalf (j : Job) (g : Nat) (high : Bool) : Nat := fld ((j.gang g).getD 0).toNat (if high then 256 else 0) 256

/-- A half of the own copy of a descriptor goes to a hem slot; `back` says that it answers one that came from there. -/
def State.tellHalf (s : State) (j : Job) (g slot : Nat) (high back : Bool) : State :=
  s.schedMessage j.key.toNat g slot msgCopy ((b2n high + 2 * b2n back) :: (upto 8).map fun w => wordAt (j.ownHalf g high) w)

/-- R61: the other devices of the hem group are told this device's copy of a gang's descriptor. -/
def State.tellGang (s : State) (j : Job) (g : Nat) : State :=
  forEach (fun (k : Nat) (s : State) => if k = s.hemSlot then s else (s.tellHalf j g k false false).tellHalf j g k true false) (upto 8) s

/-- R61: the other devices of the hem group are told, once, this device's copies of a job's hem gangs (log 67). -/
def State.tellCopies (s : State) (j : Job) : State :=
  if s.fab.copied.contains j.key then s
  else
    let s := { s with fab := { s.fab with copied := s.fab.copied ++ [j.key] } }
    (forEach (fun (d : BitVec 512) (s : State) => s.tellGang j (gangId d)) j.hemGangs s).pump

/-- R61: every other device of the hem group has told its copies of a job's hem gangs. -/
def State.copiesHere (s : State) (j : Job) : Bool :=
  j.hemGangs.all fun d => (upto 8).all fun k => k == s.hemSlot || [false, true].all fun h =>
    s.fab.copies.any fun c => c.key == j.key && c.gang.toNat == gangId d && c.slot.toNat == k && c.high == h

/-- R61: a gang of which another device has told a copy that differs from this device's: the first of the own hem gangs, or else
the first that was told. -/
def State.copyBad (s : State) (j : Job) : Option Nat :=
  let bad := (s.fab.copies.filter fun c => c.key == j.key && c.bits.toNat != j.ownHalf c.gang.toNat c.high).map (·.gang.toNat)
  match (j.hemGangs.map gangId).find? bad.contains with
  | some g => some g
  | none => bad.head?

/-- The copies told for a job have been compared. -/
def State.dropCopies (s : State) (key : Word) : State :=
  { s with fab := { s.fab with copies := s.fab.copies.filter fun c => c.key != key, copied := s.fab.copied.filter (· != key) } }

/-- HEAD moves on: the entry there has been taken. -/
def State.headOn (s : State) (k : Fin 8) : State := s.setRing k { s.ring k with head := (s.ring k).head + 1, taken := none }

/-- R469, R476: the entry at HEAD is rejected with a record. -/
def State.rejectEntry (s : State) (k : Fin 8) (j : Job) (code : BitVec 16) (index : Nat) : State :=
  let (it, s) := s.fresh
  (s.headOn k).putRecord k j.entry.toNat (jdIrq j.desc.toNat) 2 code index 0 (fld it.toNat 0 32) j.startNs.toNat

/-- R474: a check has failed: its code is raised and the entry rejected. -/
def State.rejectFor (s : State) (k : Fin 8) (j : Job) (e : Reject) : State :=
  let args := if e.code = Code.hifJobBad then [] else [e.index]
  (s.raise (.ring k) e.code j.key args).rejectEntry k j e.code e.index

/-- R61, R64: a job whose entry has passed the checks is bound. One with hem gangs first tells its copies to the hem group, and
waits at HEAD until the other seven devices have told theirs; the schedulers read its descriptor once, and judge once more, as it
is bound, what other jobs hold (log 67). Copies that differ reject it, and the others are told of this device's. -/
def State.startJob (s : State) (k : Fin 8) (j : Job) : State :=
  match s.copyBad j with
  | some g => (((s.tellCopies j).tellGang j g).pump.dropCopies j.key).rejectFor k j ⟨Code.gangBad, g⟩
  | none =>
    if j.hemGangs.isEmpty then (s.bindJob j).headOn k
    else
      let s := s.tellCopies j
      if !s.copiesHere j then s.setRing k { s.ring k with taken := some j }
      else match s.jobRules j with
        | .error e => (s.dropCopies j.key).rejectFor k j e
        | .ok _ => ((s.dropCopies j.key).bindJob { j with cores := s.jobCores j }).headOn k

/-- R64, R66, R469, R470, R474, R476: the schedulers take the entry at HEAD: they read its descriptor and tables once and check
them, and its job starts, or the entry is rejected with a record. A gang table that a check rejects is still told to the hem group
(log 67). -/
def State.takeEntry (s : State) (k : Fin 8) : State :=
  let r := s.ring k
  let entry := r.entry r.head.toNat
  match r.taken with
  | some j => if s.ft.folded then s.rejectEntry k j Code.folded 0 else s.startJob k j
  | none =>
    let d := s.natAt entry 192
    let j := s.jobFrom k entry d
    if s.ft.folded then s.rejectEntry k j Code.folded 0
    else match s.jobChecks entry d j with
      | .error e => (if e.code = Code.gangBad then s.tellCopies j else s).rejectFor k j e
      | .ok _ => (forEach (fun (x : Nat × Nat) s => s.touchPlain clsCritical false x.1 x.2) (jobRanges entry d) s).startJob k j

/-- R64: JOB_START, phases 3 and 4 of the entry at a ring's HEAD, once the device is job-ready (log 23). -/
def execJobStart (ring : Fin 8) (s : State) : Out :=
  run (.jobStart ring) s fun s =>
    let r := s.ring ring
    if s.hif.ready && decide (r.entries ≠ 0) && decide (r.head ≠ r.tail) then s.takeEntry ring else s

/-! ### The end of a job (R64 phase 8, R211, R256, R476) -/

/-- R64, R241, R251: a core that a job no longer holds; its registers stay as they are, and entries left in its data queues are
discarded. -/
def Core.free (c : Core) : Core :=
  { c with
    ifc := { c.ifc with job := none, top := false, halted := false, stopAt := none, acc := {}, exe := {}, store := [],
                        span := none, solve := none, hem := [], hemDone := [], hemPreds := [], hemSums := [] }
    mng := { c.mng with tiles := [], sample := none, stNorm := ⟨[]⟩, stCerr := ⟨[]⟩, normWait := [] }
    vec := { c.vec with run := none, halted := false }
    iron := { c.iron with state := 0, phase := 0 }
    subs := []
    dq := ⟨[]⟩ }

/-- The cores of a job are released. -/
def State.freeCores (s : State) (j : Job) : State := forEach (fun r s => s.updCore r Core.free) j.cores s

/-- The channels of a job are released; they keep its key, by which late packets of it are known (R440). -/
def State.freeChans (s : State) (n : Nat) : State :=
  let key := ((s.job n).map fun j => [j.key]).getD []
  forEach (fun ch s => if (s.chan ch).job = some n then
    s.updChan ch fun c => { c with job := none, ops := [], past := c.past ++ key } else s) (upto 16) s

/-- The scheduler that reports a code of a whole job: that of its first interface (log 24). -/
def State.jobSched (s : State) (n : Nat) (j : Job) : Nat := ((s.allIfaces n j).head?.map s.schedOf).getD 0

/-- R211: GEN_0 and GEN_1 of every entry go back to the table. -/
def State.writeGens (s : State) (a : Nat) : List GenEnt → State
  | [] => s
  | e :: r => ((s.touchPlain clsBulk true (a + 24) 8).put (a + 24) (bytesOf [e.gen0.toNat, e.gen1.toNat])).writeGens (a + 32) r

/-- R211: an entry whose count is not zero raises GEN_LEAK. -/
def State.leaks (s : State) (n : Nat) (j : Job) : List (Nat × GenEnt) → State
  | [] => s
  | (i, e) :: r =>
    let s := if e.ref0 = 0 ∧ e.ref1 = 0 then s
      else (s.updJob n fun j => { j with code := mergeCode j.code Code.genLeak }).raise (.sched (s.jobSched n j)) Code.genLeak j.key [i]
    s.leaks n j r

/-- The first entry whose count is not zero. -/
def Job.firstLeak (j : Job) : Nat := ((j.gens.zipIdx.find? fun x => x.1.ref0 != 0 || x.1.ref1 != 0).map (·.2)).getD 0

/-- A stream has begun or skipped every command, and every one of them has completed (R64). -/
def Stream.finished (t : Stream) : Bool := decide (t.count ≤ t.head) && t.flight.isEmpty

/-- R64: every Bobbin of a job is empty and every token has been signalled. -/
def State.jobDone (s : State) (n : Nat) (j : Job) : Bool :=
  j.halt.isNone && (s.topIfaces n j).all fun i =>
    let x := s.ifc i
    !x.halted && x.acc.finished && x.exe.finished && x.store.isEmpty && x.solve.isNone

/-- R64: JOB_COMPLETE. The generations go back to the table, and leaks are raised, as a job completes; the spec does not say that
a job which ends by a halt does either, and in the model it does neither (DESIGN CHOICE, log 73). -/
def execJobComplete (job : Nat) (s : State) : Out :=
  run (.jobComplete job) s fun s => match s.job job with
    | none => s
    | some j =>
      if j.ended || !s.jobDone job j then s
      else
        let s := s.writeGens (jdGenAddr j.desc.toNat) j.gens
        let s := s.leaks job j (j.gens.zipIdx.map fun x => (x.2, x.1))
        let code := ((s.job job).map (·.code)).getD 0
        let s := s.putRecord j.ring j.entry.toNat (jdIrq j.desc.toNat) 1 code (if code = Code.genLeak then j.firstLeak else 0)
          0 j.iter.toNat j.startNs.toNat
        let s := if isError code then s.originate j.key code (0, 0xF, 0) else s
        ((s.freeCores j).freeChans job).setJob job none

/-! ### A job that has halted (R256) -/

/-- A row of the device's own changes nothing now. -/
def State.still (s : State) (f : State → Out) : Bool := match f s with
  | .next t => decide (t = commit s s)
  | _ => true

/-- R598: die `d`'s core domain runs. -/
def State.dieRuns (s : State) (d : Nat) : Bool := s.seq.coreRun && bitOf s.pins.pgCore.toNat d && bitOf s.pins.enCore.toNat d

/-- A core's engines have nothing begun that can go on: no tile that may move, no program that does not wait. -/
def State.coreStill (s : State) (r : CoreRef) : Bool :=
  !s.dieRuns (dieOf r) ||
  (s.still (execTileSlotTake r) && s.still (execPressRow r) && s.still (execCarefulRetry r) && s.still (execTileComplete r)
    && match (s.core r).vec.run with
      | none => true
      | some x =>
        let a := ((s.core r).vec.prog.toNat + 4 * x.next.toNat) % 2 ^ 64
        (s.denied (.core r) false .fetch a 4).isNone && match rowOf (s.natAt a 4) r with
          | some (.vqpop _) => s.still (execVqpop r)
          | some (.vqpush _) => s.still (execVqpush r)
          | some (.vend _) => s.still (execVend r)
          | _ => false)

/-- A begun command of an interface waits for nothing that will still come. -/
def State.ifaceStill (s : State) (i : IfaceId) : Bool :=
  let x := s.ifc i
  let strmStill (st : Strm) : Bool := (x.strm st).flight.all fun f =>
    (s.ft.folded || f.reqs == 0) && s.still (execCommandComplete i st f.idx) && s.still (execGangCommandComplete i st f.idx)
  s.still (execTileSeqCheck i) && s.still (execSolveEnd i) && strmStill .acc && strmStill .exe

/-- A channel's operation has ended, or cannot begin to move. -/
def State.chanStill (s : State) (n : Nat) : Bool :=
  s.ft.folded || allChans.all fun ch =>
    (s.chan ch).job != some n
    || (!((s.chan ch).ops.any fun o => decide (o.state = .moving)) && s.still (execCollMoveData ch) && s.still (execCollComplete ch))
where
  allChans : List (Fin 16) := [0, 1, 2, 3, 4, 5, 6, 7, 8, 9, 10, 11, 12, 13, 14, 15]

/-- R256, R586: the last command that had begun has ended. -/
def State.jobStill (s : State) (n : Nat) (j : Job) : Bool :=
  j.cores.all s.coreStill && (s.topIfaces n j).all s.ifaceStill && s.chanStill n

/-- R588: the good slot of a cluster that serves no logical slot. -/
def State.spareOf (s : State) (k : Nat) : Option Nat :=
  (upto 9).find? fun sl => !bitOf (s.ft.failed.get 0 k).toNat sl && (s.logicalOf (refOf k sl)).isNone

/-- R588: Patch: a failed core's logical slot goes to the cluster's spare, or to none. -/
def State.patch (s : State) (key : Word) (r : CoreRef) : State :=
  let k := clusterOf r
  let c := s.logicalOf r
  let s := { s with ft := { s.ft with
    failed := s.ft.failed.upd 0 k fun w => w ||| BitVec.ofNat 9 (2 ^ (r.toNat % 16))
    served := if c.isSome then s.ft.served.set none r.toNat c else s.ft.served } }
  match c with
  | none => s
  | some c =>
    let sp := s.spareOf k
    let slot := sp.getD 0xF
    let s := { s with cfg := { s.cfg with
      coreMap := s.cfg.coreMap.upd 0x76543210#32 k fun w => BitVec.ofNat 32 (setFld w.toNat (4 * (c % 8)) 4 slot) } }
    s.raise (.sched k) Code.patchApplied key [match sp with
      | some sl => (refOf k sl).toNat
      | none => 0xF]

/-! ### Poisoned lines and failed stacks (R580, R581) -/

/-- A window of a job lies on a stack. -/
def Job.onStack (j : Job) (st : Nat) : Bool :=
  j.wins.any fun w => !winGuard w && decide (winBase w < 2 ^ 36 * (st + 1)) && decide (2 ^ 36 * st < winBase w + winSize w)

/-- R581: an HBM controller declares its stack FAILED: STACK_FAILED is raised, and each running job that has a window on it
halts. -/
def State.failStack (s : State) (st : Nat) : State :=
  if s.stackFailed st then s
  else
    let s := { s with ms := { s.ms with hbm := s.ms.hbm ||| BitVec.ofNat 32 (2 ^ (4 * st + 2)) } }
    let s := s.raise (.mem st) Code.stackFailed 0 []
    forEach (fun n s => if (s.job n).any fun j => j.onStack st then s.stopJob n Code.stackFailed 0 (some (3, 0xF, 0)) else s) s.running s

/-- R581: the span and the count of poisoned lines that fail a stack. -/
def poisonSpan : Nat := 10 ^ 9
def poisonMax : Nat := 64

/-- R580, R581: the controller poisons a line, and judges its stack. -/
def State.poisonHbm (s : State) (line : Nat) : State :=
  if s.poisoned line || decide (hbmEnd ≤ 256 * line) then s
  else
    let st := line / 2 ^ 28
    let now := s.hif.time.toNat
    let s := s.poisonLine line
    let s := { s with ms := { s.ms with recent := (st, now) :: s.ms.recent.filter fun x => decide (now < x.2 + poisonSpan) } }
    if poisonMax ≤ (s.ms.recent.filter fun x => x.1 == st).length then s.failStack st else s

/-- R578: what a fatal error at rest leaves: a word is zeroed, a dirty line poisons its HBM line. -/
def State.putFatal (s : State) (a : Nat) : State :=
  if a < hbmEnd then
    let s := s.poisonHbm (a / 256)
    { s with ms := { s.ms with home := s.ms.home.drop (a / 256) } }
  else s.put (a / 4 * 4) (bytesOf [0])

/-- R598, R602: a job that a Fold ends: its key and its windows stay for the Fold bridge. -/
def State.keepKey (s : State) (j : Job) : State :=
  if s.ft.folded then { s with ft := { s.ft with foldKey := s.ft.foldKey ++ [j.key], foldWin := s.ft.foldWin ++ [j.wins] } } else s

/-- R256, R257, R476, R578, R588: a halted job ends with its cores held. -/
def State.endJob (s : State) (n : Nat) (j : Job) : State :=
  let (index, iface) : Nat × Nat := match j.halt with
    | some (_, x, some i, st) => (x.toNat, fld (s.ifaceNo i) 0 12 + fld (s.ifaceNo i) 16 1 * 2 ^ 12 + strmNo st * 2 ^ 13)
    | some (_, x, none, _) => (x.toNat, 0)
    | none => (0, 0)
  let s := s.putRecord j.ring j.entry.toNat (jdIrq j.desc.toNat) 3 j.code index iface j.iter.toNat j.startNs.toNat
  let s := forEach (fun (a : DWord) s => s.putFatal a.toNat) j.fatal s
  let s := forEach (fun r s => s.patch j.key r) j.failed s
  let s := (s.keepKey j).freeChans n
  s.updJob n fun j => { j with ended := true }

/-- R256, R583: the schedulers halt every interface of the job, and its fault note goes out. -/
def State.haltJob (s : State) (n : Nat) (j : Job) (code : BitVec 16) : State :=
  let s := s.haltAll n j
  let s := match j.note with
    | some note => s.originate j.key code note
    | none => s
  s.updJob n fun j => { j with halted := true }

/-- R256: JOB_HALT: the job of a halted interface halts, and ends once the commands that had begun have ended. -/
def execJobHalt (job : Nat) (s : State) : Out :=
  run (.jobHalt job) s fun s => match s.job job with
    | none => s
    | some j => match j.halt with
      | none => s
      | some (code, _) =>
        if j.ended then s
        else
          let t := if j.halted then s else s.haltJob job j code
          match t.job job with
          | some j => if t.jobStill job j then t.endJob job j else t
          | none => t

/-- R257: the cores of a job that has ended are released. -/
def State.releaseJob (s : State) (n : Nat) : State := match s.job n with
  | some j => if j.ended then (s.freeCores j).setJob n none else s
  | none => s

end Sys2Proof.Machine
end

