-- ==== Sys2Proof/Machine/Time.lean ====
section
/-! DEFINITION. Passing time (log 3): one idle tick is 10 ns, one increment of the timers that count HIF_TIME (R260). HIF_TIME, MGT_TIME, the stage timers and
the channel timers count it, and Viloth reads one fault note (R259, R260, R408, R457, R495, R569). -/

namespace Sys2Proof.Machine

/-- Nanoseconds of an idle tick (log 3). -/
def tickNs : Nat := 10

/-- A timer bank takes one tick in each stage of a list. -/
def tickBank (t : Tab DWord) (ss : List Nat) : Tab DWord := ss.foldl (fun t s => t.upd 0 s fun v => satAdd 64 v tickNs) t

/-- R259: TAG[15:12]. -/
def stageOf (c : BitVec 256) : Nat := cmdTag c / 2 ^ 12

/-- R259: the stages of which a command has begun and not completed, a failed one among them, and those of the heads that have not begun. -/
def Iface.busyStages (x : Iface) : List Nat :=
  dedup ((x.acc.flight ++ x.exe.flight).map (fun f => stageOf f.cmd) ++ (x.acc.lost ++ x.exe.lost).map (· / 2 ^ 12))
def Iface.waitStages (x : Iface) : List Nat := dedup ([x.acc, x.exe].filterMap fun t => t.cur.map stageOf)

/-- R259: an interface's stage timers take one tick. -/
def Iface.tick (x : Iface) : Iface :=
  { x with bob := { x.bob with stBusy := tickBank x.bob.stBusy x.busyStages, stWait := tickBank x.bob.stWait x.waitStages } }

/-- R457: a channel's timers take one tick. -/
def Chan.tick (c : Chan) : Chan := match c.ops with
  | o :: _ =>
    if o.state = .moving then { c with busyNs := satAdd 64 c.busyNs tickNs }
    else if o.state = .armed then { c with waitNs := satAdd 64 c.waitNs tickNs }
    else c
  | [] => c

/-- R259, R457: the timers that count HIF_TIME take one tick. -/
def State.tickTimers (s : State) : State :=
  let s := forEach (fun n s => match s.job n with
    | some j => forEach (fun i s => s.updIfc i Iface.tick) (s.topIfaces n j) s
    | none => s) s.running s
  let s := forEach (fun ch s => s.updChan ch Chan.tick) s.chans.keys s
  { s with hif := { s.hif with time := s.hif.time + BitVec.ofNat 64 tickNs } }

/-- R569: MGT_TIME counts periods of the 25 MHz clock, in increments of 40 ns. -/
def Mgt.tick (m : Mgt) : Mgt :=
  if m.sub + tickNs < 40 then { m with sub := m.sub + tickNs }
  else { m with sub := m.sub + tickNs - 40, time := m.time + 40 }

/-- The idle tick: what runs on PE_REFCLK stands still without it, and all time stands still without VAUX (R521). -/
def idleTick (s : State) : State :=
  if !s.pins.vaux then s
  else
    let s := (if s.pins.peClk then s.tickTimers else s).tickIron.tickLinks
    { s with
      mgt := if s.pins.mgtClk then s.mgt.tick else s.mgt
      fab := { s.fab with notes := s.fab.notes.drop 1 } }

end Sys2Proof.Machine
end

