-- ==== Sys2Proof/Machine/Faults.lean ====
section
/-! DEFINITION. Parity errors, Darn and fatal errors, poisoned lines and failed stacks, Rinse, and Fold (R378, R379,
R573 to R581, R598 to R601). -/

namespace Sys2Proof.Machine

/-! ### Who meets a parity error (R575, R578) -/

/-- What a fatal error at a site ends: the command that met it, whether it is a Mangle command, the block that read, and
the core whose logic or state failed. -/
structure Met where
  ifc    : IfaceId
  st     : Strm
  idx    : Nat
  mangle : Bool := false
  src    : Src
  core   : Option CoreRef
  deriving DecidableEq, Repr

/-- The interface of a solve that a core's Iron works on. -/
def State.solverOf (s : State) (c : CoreRef) : Option (IfaceId × Solve) :=
  let i := s.topOf (.core c)
  (s.ifc i).solve.map (i, ·)

/-- A job runs and holds an interface. -/
def State.runs (s : State) (i : IfaceId) : Bool := match s.jobOf i with
  | some j => !j.ended
  | none => false

/-- The engine that carries a command out. -/
def State.engineSrc (s : State) (i : IfaceId) (c : BitVec 256) : Src :=
  let r := (s.engineCore i).getD 0
  if isMangleOp (cmdOp c) then .mng r
  else if cmdOp c = 0x30 then .vec r
  else if cmdOp c = 0x40 ∨ cmdOp c = 0x41 then .iron r
  else if cmdOp c = 0x60 then .coll (fld (s.natAt (cmdAddr c) 4) 8 4)
  else .bob i

/-- The core whose vector engine reads a word for a VRUN: the member that runs it and holds the word in its Basket, else the first
that runs it (DEDUCED, log 69). -/
def State.vecReader (s : State) (i : IfaceId) (idx a : Nat) : Option CoreRef :=
  let runs := (s.coresOf i).filter fun r => (s.core r).vec.run.any fun x => x.owner == i && x.idx == idx
  let mine (r : CoreRef) : Bool := (s.place a).any fun p => decide (basketBase ≤ p) && (p - basketBase) / basketSize == r.toNat
  match runs.find? mine with
  | some r => some r
  | none => runs.head?

/-- The oldest tile of a core that has not been written. -/
def State.oldestTile (s : State) (c : CoreRef) : Option Tile :=
  (s.core c).mng.tiles.find? fun t => t.phase == .array || t.phase == .press

/-- Who reads at a site of engine or control state; none where nothing there is at work. -/
def State.metAt (s : State) : ParitySite → Option Met
  | .mangle c => (s.oldestTile c).map fun t => { ifc := t.owner, st := .exe, idx := t.idx, mangle := true, src := .mng c, core := some c }
  | .vector c => (s.core c).vec.run.map fun x => { ifc := x.owner, st := .exe, idx := x.idx, src := .vec c, core := some c }
  | .iron c => (s.solverOf c).map fun (i, v) => { ifc := i, st := .exe, idx := v.idx, src := .iron c, core := some c }
  | .access i idx => (s.flightOf i Strm.acc idx).bind fun f =>
      if cmdOp f.cmd / 16 = 1 ∨ cmdOp f.cmd = 0x50 then some { ifc := i, st := .acc, idx := idx, src := .bob i, core := s.engineCore i } else none
  | .coreCtl c =>
      let i := s.topOf (.core c)
      if s.runs i then some { ifc := i, st := .exe, idx := (s.ifc i).exe.head, src := .bob i, core := some c } else none
  | .atRest a (some (i, st, idx)) => (s.flightOf i st idx).map fun f =>
      let src := match (if cmdOp f.cmd = 0x30 then s.vecReader i idx a.toNat else none) with
        | some r => .vec r
        | none => s.engineSrc i f.cmd
      { ifc := i, st := st, idx := idx, mangle := isMangleOp (cmdOp f.cmd), src := src, core := none }
  | .via _ x => s.metAt x
  | _ => none

/-- The command that met a fatal error does not complete. A vector program stops at the instruction that met it (R311). -/
def State.killCmd (s : State) (m : Met) : State :=
  let s := forEach (fun r s => s.updCore r fun k =>
    let mine (i : IfaceId) (n : Nat) : Bool := decide (m.st = Strm.exe) && i == m.ifc && n == m.idx
    { k with
      mng := { k.mng with tiles := k.mng.tiles.filter fun t => !mine t.owner t.idx }
      vec := if k.vec.run.any fun x => mine x.owner x.idx then
        { k.vec with
          run := none
          halted := true
          pc := match k.vec.run with
            | some x => if m.src = .vec r then BitVec.ofNat 32 x.next.toNat else k.vec.pc
            | none => k.vec.pc } else k.vec })
    (s.coresOf m.ifc) s
  let s := if m.st = Strm.exe ∧ ((s.ifc m.ifc).solve.map (·.idx)) = some m.idx then s.dropSolve m.ifc else s
  s.loseFlight m.ifc m.st m.idx

/-- R602: CFG_FT_FATAL_LOC. -/
def State.recordFatal (s : State) (src : Src) (kind : Nat) : State :=
  { s with ft := { s.ft with fatalLoc := BitVec.ofNat 32 (src.code.toNat + (s.loc src).toNat * 2 ^ 8 + kind * 2 ^ 24) } }

/-- The channel and operation of a COLL command. -/
def State.opOf (s : State) (i : IfaceId) (idx : Nat) : Option (Nat × COp) :=
  firstSome (fun ch => ((s.chan ch).ops.find? fun o => o.owner == i && o.idx == idx).map (ch, ·)) (upto 16)

/-- R578: a fatal parity error with a command that met it, at a place of which `loc` is the block. -/
def State.fatalAt (s : State) (m : Met) (loc : Src) (kind : Nat) (addr : Option DWord) : State :=
  let tag := ((s.flightOf m.ifc m.st m.idx).map fun f => cmdTag f.cmd).getD 0
  let a : At := ⟨m.ifc, m.st, m.idx, tag⟩
  let s := s.recordFatal loc kind
  let s := match s.opOf m.ifc m.idx with
    | some (ch, o) =>
      if m.st = Strm.acc then s.collFail ch o Code.parityFatal true fun s => s.halt a false Code.parityFatal m.src []
      else (s.killCmd m).halt a m.mangle Code.parityFatal m.src []
    | none => (s.killCmd m).halt a m.mangle Code.parityFatal m.src []
  match s.jobNo m.ifc with
  | some n => s.updJob n fun j =>
      { j with failed := match m.core with
                | some r => if j.failed.contains r then j.failed else j.failed ++ [r]
                | none => j.failed
               fatal := j.fatal ++ addr.toList }
  | none => s

/-- R598: a cause of Fold arises. -/
def State.wantFold (s : State) (c : FoldCause) : State :=
  if s.ft.folded ∨ s.ft.want.isSome then s else { s with ft := { s.ft with want := some c } }

/-- R578: a fatal error of attribution 2 that no command met: the device folds. -/
def State.fatalPath (s : State) (src : Src) : State :=
  ((s.recordFatal src 2).raise src Code.parityFatal 0 []).wantFold .attribution2

/-- R578: a fatal error in what a collective unit reads, at a place of which `loc` is the block. -/
def State.fatalColl (s : State) (ch : Nat) (loc : Src) (kind : Nat) : State := match (s.chan ch).ops with
  | o :: _ => (s.recordFatal loc kind).collFail ch o Code.parityFatal true fun s => s.halt o.place false Code.parityFatal (.coll ch) []
  | [] => s

/-- R555: the block of a way, where it is one of the table; a Seam link is named by its reader (log 69). -/
def pathSrc (p : ParityPath) (reader : Src) : Src := match p with
  | .cupbPort d => .mem (0x10 + d)
  | _ => reader

/-- R574: the block of an SRAM outside the core domain. -/
def sramSrc : ParitySram → Src
  | .hbm s => .mem s
  | .endpoint => .hif 0
  | .port p => .fab p
  | _ => .viloth

/-- An address at which a word can be lost at rest: a Basket, an explicit region, or a dirty line (R573). -/
def State.atRest (s : State) (a : Nat) : Bool :=
  if a < hbmEnd then bitOf (s.ms.home.lines.get 0 (a / 256)).toNat 1 else (s.place a).isSome

/-- R555: the block of a word at rest: the memory system of the die whose Cupboard or Basket holds it. -/
def State.restSrc (s : State) (a : Nat) : Src :=
  .mem (0x10 + if a < hbmEnd then a / 2 ^ 37 else match s.place a with
    | some p => if basketBase ≤ p then dieOf (BitVec.ofNat 9 ((p - basketBase) / basketSize)) else (a - cupbBase) / 2 ^ 32
    | none => 0)

/-- R578: a word lost at rest that no command of a job read: it is zeroed, or its line poisoned, at the end of a job with a
window on it, and at once where there is none (log 25). -/
def State.lostWord (s : State) (a : DWord) : State :=
  let src := s.restSrc a.toNat
  let s := (s.recordFatal src 1).raise src Code.parityFatal 0 []
  match s.running.find? fun n => (s.winsOf (.gang n 0)).any fun w => !winGuard w && inWin w a.toNat with
  | some n => s.updJob n fun j => { j with fatal := j.fatal ++ [a] }
  | none => s.putFatal a.toNat

/-- R578: a fatal error in a word on its way to a reader that no command of a job stands behind, as the host or another device:
PARITY_FATAL is raised, and a Seam link or a Cupboard port is recorded. A crossing has then no core to attribute it to (log 69). -/
def State.fatalFree (s : State) (p : ParityPath) : State :=
  let src := pathSrc p (.hif 0)
  let s := if p = .crossing then s else s.recordFatal src 2
  s.raise src Code.parityFatal 0 []

/-- A collective unit reads at a site. -/
def collReads : ParitySite → Bool
  | .coll _ => true
  | _ => false

/-- R578: a fatal error in a word that came on a way: a Seam link or a Cupboard port folds the device; of a crossing the logic
of the reader's core is at fault, and a collective unit, as a cluster scheduler, belongs to no core and folds the device
(log 69). -/
def State.fatalVia (s : State) (p : ParityPath) (x : ParitySite) : State :=
  let kind := if p = .crossing then 0 else 2
  let s := match x with
    | .coll ch => s.fatalColl ch (pathSrc p (.coll ch)) 2
    | .scheduler k => s.fatalPath (pathSrc p (.sched k))
    | _ => match s.metAt x with
      | some m => s.fatalAt (if kind = 2 then { m with core := none } else m) (pathSrc p m.src) kind none
      | none => s.fatalFree p
  if kind = 2 || collReads x then s.wantFold .attribution2 else s

/-- A fatal error at a site. One in an SRAM outside the core domain is raised by its block; no rule attributes it (log 69). -/
def State.fatalSite (s : State) (x : ParitySite) : State :=
  match x with
  | .coll ch => (s.fatalColl ch (.coll ch) 2).wantFold .attribution2
  | .scheduler k => s.fatalPath (.sched k)
  | .atRest a (some _) => match s.metAt x with
    | some m => s.fatalAt m m.src 1 (some a)
    | none => s
  | .atRest a none => s.lostWord a
  | .cleanLine _ => s
  | .via p y => s.fatalVia p y
  | .sram b => s.raise (sramSrc b) Code.parityFatal 0 []
  | _ => match s.metAt x with
    | some m => s.fatalAt m m.src 0 none
    | none => s

/-- The unit that reads at a site. -/
def unitOf : ParitySite → ParitySite
  | .via _ x => unitOf x
  | x => x

/-- A Darn unit's site (R575); an accumulator chain of more than 16 tiles is none. -/
def State.isDarnUnit (s : State) : ParitySite → Bool
  | .mangle c => match s.oldestTile c with
    | some t => decide (t.chain ≤ 16)
    | none => false
  | .vector _ | .iron _ | .access _ _ | .coll _ => true
  | .via _ x => s.isDarnUnit x
  | _ => false

/-- Something at a site reads, so that an error there can be met (R574, R579). -/
def State.reads (s : State) : ParitySite → Bool
  | .coll ch => match (s.chan ch).ops with
    | o :: _ => decide (o.state = .moving)
    | [] => false
  | .scheduler k => s.dieRuns (k.val / 8)
  | .cleanLine l => s.ms.home.lines.get 0 l.toNat == 1
  | .atRest a none => s.atRest a.toNat
  | .atRest a r => s.atRest a.toNat && (s.metAt (.atRest a r)).isSome
  | .via p x => (p == .crossing || s.seq.coreRun) && s.reads x
  | .sram b => match b with
    | .viloth | .lintRing | .spi | .smbus | .pmbus | .jtag => s.pins.vaux
    | _ => s.pins.pgIo
  | x => (s.metAt x).isSome

/-- R575: PARITY_ERROR: the re-read; a word of a Darn unit that fails again starts its recomputation, any other is fatal. A
clean cache line is invalidated. -/
def execParityError (site : ParitySite) (rereadOk : Bool) (s : State) : Out :=
  run (.parityError site rereadOk) s fun s =>
    if !s.reads site || s.darns (unitOf site) then s
    else match site with
      | .cleanLine l => { s with ms := { s.ms with home := s.ms.home.drop l.toNat } }
      | _ =>
        let s := { s with ft := { s.ft with reread := countUp s.ft.reread 1 } }
        if rereadOk then s
        else if s.isDarnUnit site then { s with ft := { s.ft with darning := s.ft.darning ++ [unitOf site] } }
        else s.fatalSite site

/-- R577: the recomputing engine of a site, and its job's key. -/
def State.darnSrc (s : State) (x : ParitySite) : Src × Word := match unitOf x with
  | .coll ch => (.coll ch, match (s.chan ch).ops with
    | o :: _ => s.keyOf o.owner
    | [] => 0)
  | x => match s.metAt x with
    | some m => (m.src, s.keyOf m.ifc)
    | none => (.mem 0, 0)

/-- R577: DARN_RECOMPUTE: the recomputation of a unit ends. Its result is that of the undisturbed run, which the unit has already
handed on (R45, R576): inputs that a program changes under a command that has begun are not read again (DEDUCED, log 69). -/
def execDarnRecompute (site : ParitySite) (ok : Bool) (s : State) : Out :=
  run (.darnRecompute site ok) s fun s =>
    if !s.darns (unitOf site) then s
    else
      let s := { s with ft := { s.ft with darning := s.ft.darning.filter fun x => decide (x ≠ unitOf site) } }
      if !s.reads site then s
      else if ok then
        let (src, key) := s.darnSrc site
        { s with ft := { s.ft with darn := countUp s.ft.darn 1 } }.raise src Code.parityReplayed key []
      else s.fatalSite site

/-! ### Memory errors (R358, R378 to R380, R580, R581) -/

/-- R580: HBM_UNCORRECTABLE: the line is poisoned; the access that reads it is refused. -/
def execHbmUncorrectable (line : BitVec 31) (s : State) : Out :=
  run (.hbmUncorrectable line) s fun s => s.poisonHbm line.toNat

/-- R581: successive retries that fail before a stack is declared FAILED. -/
def caRetries : Nat := 16

/-- R358, R581: HBM_CA_PARITY_ERROR: the controller retries; 16 successive failures fail the stack. -/
def execHbmCaParityError (stack : Fin 8) (retryOk : Bool) (s : State) : Out :=
  run (.hbmCaParityError stack retryOk) s fun s =>
    if s.stackFailed stack then s
    else
      let n := if retryOk then 0 else s.ms.retries.get 0 stack + 1
      let s := { s with ms := { s.ms with retries := s.ms.retries.set 0 stack n } }
      if caRetries ≤ n then s.failStack stack else s

/-- R358: HBM_REFRESH: the controller of a trained stack issues a refresh, whatever the core domain does. -/
def execHbmRefresh (stack : Fin 8) (s : State) : Out :=
  run (.hbmRefresh stack) s fun s =>
    if bitOf s.ms.hbm.toNat (4 * stack) && !s.stackFailed stack then
      { s with ms := { s.ms with refreshes := s.ms.refreshes.upd 0 stack (· + 1) } }
    else s

/-- MEM_QUOTA_s at reset (R380). -/
def quotaReset : Word := 0x01101008

/-- R357, R361, R450: the 256-byte requests that a stack serves in a window of 1 us: at 2.05 TB/s, or at half rate at
1.025 TB/s. -/
def State.windowLines (s : State) (stack : Nat) : Nat := if s.halfRate stack then 4003 else 8007

/-- R361: the class that the controller serves next, from the window's requests, each class's share in 64ths, what it has received
in the window and how many of its requests wait. -/
def quotaPick (lines : Nat) (shares : List Nat) (cs : List (Nat × Nat)) : Option Nat :=
  let waits (c : Nat) : Bool := decide (0 < (nth cs c (0, 0)).2)
  match (upto 4).find? fun c => waits c && decide (64 * (nth cs c (0, 0)).1 < lines * nth shares c 0) with
  | some c => some c
  | none => (upto 4).find? waits

/-- R361: the controller serves up to `n` requests of the classes that wait: for each class what it has received and how many
requests it has left. -/
def quotaServe (lines : Nat) (shares : List Nat) : Nat → List (Nat × Nat) → List (Nat × Nat)
  | 0, cs => cs
  | n + 1, cs => match quotaPick lines shares cs with
    | none => cs
    | some c => quotaServe lines shares n (cs.zipIdx.map fun (x, k) => if k = c then (x.1 + 1, x.2 - 1) else x)

/-- R381: the shares of MEM_QUOTA_s by class: G_LC, G_BULK, G_COLL, G_BG. -/
def quotaShares (w : Word) : List Nat := [0, 16, 8, 24].map fun b => fld w.toNat b 6

/-- R361: the requests that wait at a stack by class, oldest last. -/
def Home.waiting (h : Home) (stack : Nat) : List (List Nat) := (upto 4).map fun c => h.asks.get [] (4 * stack + c)

/-- R361: the controller of a stack serves the requests of each class in order of arrival, as its shares allow, for a window in
which nothing has been served yet. -/
def MemSys.serve (m : MemSys) (stack lines : Nat) (shares : List Nat) : MemSys :=
  let cs := quotaServe lines shares lines ((m.home.waiting stack).map fun q => (0, q.length))
  { m with
    quotaUsed := (upto 4).foldl (fun t c => t.set 0 (4 * stack + c) (nth cs c (0, 0)).1) m.quotaUsed
    home := { m.home with
      asks := (upto 4).foldl (fun t c => t.upd [] (4 * stack + c) fun q => q.take (nth cs c (0, 0)).2) m.home.asks } }

/-- R361, R381: QUOTA_WINDOW: a window begins with the shares last written. The requests that wait then are the ones that the
controller picks from in it; what arrives later waits for the next window (DESIGN CHOICE, log 66). -/
def execQuotaWindow (stack : Fin 8) (s : State) : Out :=
  run (.quotaWindow stack) s fun s =>
    let w := s.ms.quota.get quotaReset stack
    { s with ms := { s.ms with quotaNow := s.ms.quotaNow.set quotaReset stack w }.serve stack (s.windowLines stack) (quotaShares w) }

/-- Lines of HBM, and words of the Cupboard, of one pass of Rinse (R378, R380). -/
def hbmLines : Nat := 2 ^ 31
def cupbWords : Nat := 2 ^ 32

/-- R380: a pass counter of MEM_RINSE_PASS; both stop at 0xFFFF. -/
def passUp (w : Word) (lo : Nat) : Word := if fld w.toNat lo 16 = 0xFFFF then w else w + BitVec.ofNat 32 (2 ^ lo)

/-- Rinse has read one more line or word; at the end of a pass the counter advances. -/
def MemSys.rinsed (m : MemSys) : RinseTarget → MemSys
  | .hbmLine _ =>
    if hbmLines ≤ m.rinseHbm + 1 then { m with rinseHbm := 0, rinsePass := passUp m.rinsePass 0 } else { m with rinseHbm := m.rinseHbm + 1 }
  | .cupbWord _ =>
    if cupbWords ≤ m.rinseCup + 1 then { m with rinseCup := 0, rinsePass := passUp m.rinsePass 16 } else { m with rinseCup := m.rinseCup + 1 }

/-- Where Rinse logs what it finds (R555). -/
def State.rinseSrc (s : State) : RinseTarget → Src
  | .hbmLine l => .mem (l.toNat / 2 ^ 28)
  | .cupbWord a => s.restSrc a.toNat

/-- R378: an error that Rinse corrected: counted and logged. -/
def State.rinseFixed (s : State) (x : RinseTarget) : State :=
  { s with ms := { s.ms with rinseCor := countUp s.ms.rinseCor 1 } }.raise (s.rinseSrc x) Code.rinseCorrected 0 []

/-- R378, R573, R580: an error that Rinse could not correct. -/
def State.rinseLost (s : State) (x : RinseTarget) : State :=
  let s := { s with ms := { s.ms with rinseUnc := countUp s.ms.rinseUnc 1 } }
  match x with
  | .hbmLine l => (s.poisonHbm l.toNat).raise (s.rinseSrc x) Code.hbmUncorr 0 []
  | .cupbWord a =>
    if a.toNat < hbmEnd then
      let s := (s.recordFatal (s.rinseSrc x) 1).raise (s.rinseSrc x) Code.parityFatal 0 []
      s.putFatal a.toNat
    else s.lostWord a

/-- What Rinse may read: a line of HBM of a stack that works, a word of an explicit region, or one of a line that is held. -/
def State.rinses (s : State) : RinseTarget → Bool
  | .hbmLine l => !s.stackFailed (l.toNat / 2 ^ 28)
  | .cupbWord a =>
    if a.toNat < hbmEnd then decide (s.ms.home.lines.get 0 (a.toNat / 256) ≠ 0)
    else decide (cupbBase ≤ a.toNat) && decide (a.toNat < cupbBase + 2 ^ 34) && (s.place a.toNat).isSome

/-- R354, R360, R378: Rinse asks for a line at its HBM controller, in class 3; the line takes no place in the cache (log 66). -/
def State.rinseAsk (s : State) (l : Nat) : State := { s with ms := { s.ms with home := s.ms.home.ask clsBackground l } }

/-- R378, R379, R573, R575: RINSE_SCRUB: Rinse reads and checks one line or word as one step at the home lookup; a corrected line is
written back. A word of a dirty line or of an explicit region whose parity fails is read again once: `corrected` says that the second reading is good. -/
def execRinseScrub (tgt : RinseTarget) (found : RinseFinding) (s : State) : Out :=
  run (.rinseScrub tgt found) s fun s =>
    if !(bitOf s.ms.rinse.toNat 0 && s.hif.ready && !s.ft.folded && s.rinses tgt) then s
    else
      let s := { s with ms := s.ms.rinsed tgt }
      match tgt, found with
      | .hbmLine l, .clean => let s := s.rinseAsk l.toNat; if s.poisoned l.toNat then s.rinseLost tgt else s
      | .hbmLine l, .corrected =>
        let s := s.rinseAsk l.toNat
        if s.poisoned l.toNat then s.rinseLost tgt else (s.rinseAsk l.toNat).rinseFixed tgt
      | .cupbWord _, .clean => s
      | .cupbWord a, x =>
        if a.toNat < hbmEnd ∧ s.ms.home.lines.get 0 (a.toNat / 256) = 1 then
          { s with ms := { s.ms with home := s.ms.home.drop (a.toNat / 256) } }.rinseFixed tgt
        else
          let s := { s with ft := { s.ft with reread := countUp s.ft.reread 1 } }
          if x = .corrected then s else s.rinseLost tgt
      | .hbmLine l, .uncorrected => (s.rinseAsk l.toNat).rinseLost tgt

/-! ### Fold (R598) -/

/-- R603: CAUSE. -/
def foldCode : FoldCause → Nat
  | .attribution2 => 1
  | .vcoreLost => 2
  | .pmbFault => 3
  | .tj115 => 4
  | .startUp => 5

/-- The dies whose core domain runs, and those whose does not. -/
def State.liveDies (s : State) : List Nat := (upto 4).filter s.dieRuns
def State.deadDies (s : State) : List Nat := (upto 4).filter fun d => !s.dieRuns d

/-- `n` bytes of the OTP. -/
def State.otpBytes (s : State) (o n : Nat) : List Byte := leBytes n (fld s.mgt.otp.toNat (8 * o) (8 * n))
def State.otpNat (s : State) (o n : Nat) : Nat := fld s.mgt.otp.toNat (8 * o) (8 * n)

/-- The planes whose dies are not disabled (R506). -/
def State.diesOn (s : State) : BitVec 4 := BitVec.ofNat 4 (15 - s.otpNat 0xB4 1 % 16)

/-- R598: STALE of the stacks of the dies that have lost their core domain; one that OTP disables never had it. -/
def State.staleOf (s : State) : Nat := ((s.deadDies.filter fun d => bitOf s.diesOn.toNat d).map fun d => 3 * 2 ^ (2 * d)).sum

/-- A job whose end no scheduler can record (R598): its note goes out, and its key and windows stay. -/
def State.loseJob (s : State) (n : Nat) : State := match s.job n with
  | some j => ((s.originate j.key Code.folded (1, 0xF, 0)).keepKey j).setJob n none
  | none => s

/-- R598: FOLD, phases 1 and 2: the cause is recorded, and every job halts; it ends with its record by JOB_HALT. -/
def execFold (cause : FoldCause) (s : State) : Out :=
  run (.fold cause) s fun s =>
    if s.ft.folded ∨ s.ft.want ≠ some cause then s
    else
      let s := { s with
        ft := { s.ft with folded := true, cause := BitVec.ofNat 3 (foldCode cause), stale := BitVec.ofNat 8 s.staleOf, want := none }
        mgt := { s.mgt with folded := true }
        pins := { s.pins with smbAlert := true } }
      let s := s.raise .viloth Code.folded 0 []
      if s.liveDies.isEmpty then forEach (fun n s => s.loseJob n) s.running s
      else forEach (fun n s => s.stopJob n Code.folded 0 (some (1, 0xF, 0))) s.running s

/-- What a core's engines and a die's Cupboard hold is gone with VCORE. -/
def State.dropCores (s : State) (p : CoreRef → Bool) : State :=
  { s with cores := ⟨s.cores.cells.filter fun c => !p (BitVec.ofNat 9 c.1)⟩ }

/-- R598: every cache line of the dies is gone from the cache; those of live dies have been written back, and a dirty line
of a lost die leaves older bytes in HBM, which no rule states. -/
def State.dropLines (s : State) (dead : List Nat) : State :=
  let lost := (s.ms.home.lines.cells.filter fun c => bitOf c.2.toNat 1 && dead.contains (c.1 / 2 ^ 29)).map (·.1)
  let s := forEach (fun l s => s.putFree (256 * l) 256) lost s
  { s with ms := { s.ms with home := {} } }

/-- Every Basket byte and every Cupboard byte becomes zero (R356). -/
def State.zeroBaskets (s : State) : State := (s.zeroRange cupbBase (cupbBase + 2 ^ 34)).zeroRange basketBase (basketBase + 512 * basketSize)

/-- R599: what the core domain had waiting for the fabric is gone with it, but for a packet on its way out; of what has arrived, the
requests stay for the Fold bridge. -/
def Fabric.foldQueues (f : Fabric) : Fabric :=
  { f with
    waiting := [], remote := []
    inject := f.inject.filter fun k => f.injects true (hVcc k.hdr) k
    eject := ⟨f.eject.cells.filter fun c => c.1 == 0⟩ }

/-- R598: CUPBOARD_WRITEBACK_DONE: phases 3 and 4: once every job has ended the dirty lines are in HBM, the planes go off and
the Fold bridge serves. STALE takes in a die that was lost since phase 1. -/
def execCupboardWritebackDone (s : State) : Out :=
  run .cupboardWritebackDone s fun s =>
    if !s.ft.folded || s.ft.bridge || !s.running.isEmpty then s
    else
      let s := ((s.dropLines s.deadDies).dropCores fun _ => true).zeroBaskets
      { s with
        jobs := ⟨[]⟩
        chans := ⟨[]⟩
        pins := { s.pins with operation := 0, enCore := 0 }
        seq := { s.seq with coreRun := false }
        ft := { s.ft with bridge := true, stale := s.ft.stale ||| BitVec.ofNat 8 s.staleOf }
        fab := s.fab.foldQueues }

end Sys2Proof.Machine
end

