-- ==== Sys2Proof/Machine/Policy.lean ====
section
/-! DEFINITION. Viloth's sensors and policy: stack temperatures, the choice of VCORE, its steps, and the PMBus controllers
(R450, R512 to R517, R550 to R552, R569, R571). -/

namespace Sys2Proof.Machine

/-! ### SMB_ALERT_N (R560) -/

/-- R521, R548, R560: SMB_ALERT_N is low. -/
def State.alertLow (s : State) : Bool :=
  s.pins.vaux && (!s.pins.mgtClk || s.seq.stopped || s.mgt.recovery || s.ft.folded || s.mgt.pol.hold)

/-- SMB_ALERT_N follows its causes. -/
def State.driveAlert (s : State) : State := { s with pins := { s.pins with smbAlert := s.alertLow } }

/-- Firmware or ROM of Viloth runs: VAUX and its clock are there. -/
def State.vilothRuns (s : State) : Bool := s.pins.vaux && s.pins.mgtClk

/-! ### Stack temperatures (R450, R459) -/

/-- R450: a condition with hysteresis: it begins at or above `on`, and ends below `on` less HYST. -/
def hyster (was : Bool) (temp on hyst : Nat) : Bool := if was then !decide (temp + hyst < on) else decide (on ≤ temp)

/-- R450: the reading of one stack. -/
def State.stackTemp (s : State) (st : Nat) (t : Byte) : State :=
  let w := s.cfg.therm.toNat
  let hot := hyster (s.halfRate st) t.toNat (fld w 0 8) (fld w 16 4)
  let crit := hyster (s.critical st) t.toNat (fld w 8 8) (fld w 16 4)
  { s with
    ms := { s.ms with
      hbm := BitVec.ofNat 32 (setFld s.ms.hbm.toNat (4 * st + 1) 1 (b2n hot))
      critical := BitVec.ofNat 8 (setFld s.ms.critical.toNat st 1 (b2n crit)) }
    mgt := { s.mgt with hbmTemp := s.mgt.hbmTemp.set 0 st t } }

/-- R450: HBM_TEMP_TICK, while firmware runs. -/
def execHbmTempTick (temps : List Byte) (s : State) : Out :=
  run (.hbmTempTick temps) s fun s =>
    if s.vilothRuns && s.seq.still.isNone && decide (8 ≤ s.mgt.phase.toNat) then
      forEach (fun (x : Byte × Nat) s => s.stackTemp x.2 x.1) temps.zipIdx s
    else s

/-! ### The choice of VCORE (R513, R551) -/

/-- R513: the floor voltage in mV for a junction temperature in 1/16 C. -/
def floorMv (tj : Int) : Nat :=
  if tj ≤ 16 * 45 then 570 else if tj ≤ 16 * 65 then 580 else if tj ≤ 16 * 85 then 590 else if tj ≤ 16 * 105 then 600 else 610

/-- R512, R514, R551: the step and the highest setpoint, in mV. -/
def stepMv : Nat := 10
def topMv : Nat := 850

/-- The highest of a list of temperatures. -/
def hottest : List (BitVec 16) → Int
  | [] => 0
  | [t] => t.toInt
  | t :: r => max t.toInt (hottest r)

/-- Temperature limits of R527 and R551, in 1/16 C. -/
def holdT : Int := 16 * 105
def riseT : Int := 16 * 103
def foldT : Int := 16 * 115

/-- What one decision comes to (R551): the setpoint, and whether a hold is in force and the power test lowered it. -/
structure Decision where
  v      : Nat
  hold   : Bool
  capped : Bool
  deriving DecidableEq, Repr

/-- R551: the rule. While Viloth restarts, ROM applies the floor and the hold alone (R531). -/
def Policy.choose (p : Policy) (rom : Bool) (tj : Int) (power : Nat) (hotN : Bool) : Decision :=
  let vf := floorMv tj
  let hold := decide (holdT ≤ tj) || !hotN
  let isOver := !rom && decide (p.cap < power)
  let cool := hold && decide (p.tjPrev < tj)
  let v := if cool then p.v - stepMv
    else if isOver then p.v - stepMv
    else if !rom && !hold && decide (tj < riseT) && decide (100 * power < 97 * p.cap) && decide (p.v < p.vset) then p.v + stepMv
    else p.v
  let v := Nat.max (Nat.min v topMv) vf
  { v := v, hold := hold, capped := !cool && isOver && decide (v < p.v) }

/-- R551, R571: a decision is taken. CAPPED and its code come when the power test first lowers v, and CAPPED goes when v is no
longer lowered and is back at vset or above. -/
def State.decideV (s : State) (tj : Int) (power : Nat) (hotN : Bool) : State :=
  let p := s.mgt.pol
  let d := p.choose s.seq.still.isSome tj power hotN
  let capped := d.capped || (p.capped && decide (d.v < p.vset))
  let codes : List (BitVec 16) := (if d.hold && !p.hold then [Code.pwrHold] else []) ++ (if d.capped && !p.capped then [Code.pwrCapped] else [])
  let p' := { p with v := d.v, hold := d.hold, capped := capped, tjPrev := tj, atFloor := decide (d.v = floorMv tj)
                     lastCode := if codes.isEmpty then p.lastCode else mergeCodes codes }
  let s := { s with mgt := { s.mgt with pol := p' } }
  forEach (fun c s => s.raise .viloth c 0 []) codes s

/-- R569, R571: PWR_STATE. -/
def Policy.state (p : Policy) (hotN : Bool) : Word :=
  BitVec.ofNat 32 (b2n p.hold + 2 * b2n p.capped + 4 * b2n p.atFloor + 8 * b2n (!hotN) + p.lastCode.toNat * 2 ^ 16)

/-- The readings of die d's 64 sensors. -/
def dieTemps (l : List (BitVec 16)) (d : Nat) : List (BitVec 16) := (l.drop (64 * d)).take 64

/-- A temperature as a TEMP field. -/
def tempField (t : Int) : Nat := ofSigned 16 t

/-- R550, R569: the PWR_ registers take a set of readings. -/
def State.takeReadings (s : State) (r : PolicyReading) : State :=
  let tj := hottest r.temps
  let hot := ((upto 4).find? fun d => decide (hottest (dieTemps r.temps d) = tj)).getD 0
  { s with
    pins := { s.pins with hotN := r.hotN }
    mgt := { s.mgt with
      dieTemps := r.temps
      tjMax := BitVec.ofNat 32 (tempField tj + hot * 2 ^ 16)
      tjDie := (upto 4).foldl (fun t d => t.set 0 d (BitVec.ofNat 32 (tempField (hottest (dieTemps r.temps d))))) s.mgt.tjDie
      power := BitVec.ofNat 32 (r.powerW.toNat + s.mgt.pol.cap * 2 ^ 16)
      vcore := s.mgt.vread } }

/-- R550, R569: the PWR_PACE registers. -/
def State.showPace (s : State) (l : List (BitVec 12)) : State :=
  { s with mgt := { s.mgt with pace := l.zipIdx.foldl (fun t x => t.set 0 x.2 x.1) s.mgt.pace } }

/-- R41: PACE_NOW is the lowest pace; PACE_MIN follows it down, from the moment VCORE is up. -/
def State.takePace (s : State) (l : List (BitVec 12)) : State :=
  let now : BitVec 12 := BitVec.ofNat 12 (l.foldl (fun m p => Nat.min m p.toNat) 4095)
  { s with
    cfg := { s.cfg with
      paceNow := now
      paceMin := if s.cfg.paceNow = 0 then now else if now.toNat < s.cfg.paceMin.toNat then now else s.cfg.paceMin } }

/-- R551, R571: with no policy to run a hold ends with its cause, and AT_FLOOR compares the last setpoint. -/
def Policy.rest (p : Policy) (tj : Int) (hotN : Bool) : Policy :=
  { p with hold := p.hold && (decide (holdT ≤ tj) || !hotN), atFloor := decide (p.v = floorMv tj), tjPrev := tj }

/-- R569, R571: PWR_STATE and PWR_SETPOINT take what the policy holds. -/
def State.showPolicy (s : State) (tj : Int) (hotN : Bool) : State :=
  let p := s.mgt.pol
  { s with mgt := { s.mgt with pwrState := p.state hotN, setpoint := BitVec.ofNat 32 (p.v + floorMv tj * 2 ^ 16) } }

/-- R551, R552, R569: VCORE_POLICY_TICK: the readings are mirrored, and while the policy runs, in Fold too
(R599), a setpoint is chosen; at 115 C the device is to fold. -/
def execVcorePolicyTick (r : PolicyReading) (s : State) : Out :=
  run (.vcorePolicyTick r) s fun s =>
    if !s.vilothRuns then s
    else
      let s := (s.takeReadings r).showPace r.pace
      let tj := hottest r.temps
      if s.mgt.pol.on then
        let s := ((if s.ft.bridge then s else s.takePace r.pace).decideV tj r.powerW.toNat r.hotN).showPolicy tj r.hotN
        (if foldT ≤ tj then s.wantFold .tj115 else s).driveAlert
      else (State.showPolicy { s with mgt := { s.mgt with pol := s.mgt.pol.rest tj r.hotN } } tj r.hotN).driveAlert

/-- R516: a voltage in mV as a ULINEAR16 code of exponent `-e`, rounded up. -/
def ulinear (e mv : Nat) : BitVec 16 := BitVec.ofNat 16 (ceilDiv (mv * 2 ^ e) 1000)

/-- R515, R516: a voltage in mV as the code of a plane's controller. -/
def planeCode (plane mv : Nat) : BitVec 16 := ulinear (Config.voutExp plane) mv

/-- What a plane's controller was told. -/
def State.pmbOf (s : State) (plane : Nat) : Pmb := s.mgt.pmb.get {} plane

/-- R514, R516: VOUT_COMMAND goes to every plane of a set. -/
def State.commandV (s : State) (planes : BitVec 4) (mv : Nat) : State :=
  forEach (fun d s => if bitOf planes.toNat d then
    { s with mgt := { s.mgt with pmb := s.mgt.pmb.upd {} d fun c => { c with command := planeCode d mv } } } else s) (upto 4) s

/-- R515: at start-up a plane's controller takes the limits, in mV. -/
def State.limitV (s : State) (planes : BitVec 4) : State :=
  forEach (fun d s => if bitOf planes.toNat d then
    { s with mgt := { s.mgt with pmb := s.mgt.pmb.upd {} d fun c =>
        { c with max := planeCode d 850, min := planeCode d 550, ovLimit := planeCode d 920, uvLimit := planeCode d 520 } } } else s) (upto 4) s

/-- R514: VCORE_STEP: the planes' setpoint moves by at most 10 mV towards the one chosen. -/
def execVcoreStep (s : State) : Out :=
  run .vcoreStep s fun s =>
    let p := s.mgt.pol
    if !p.on || !s.vilothRuns || p.now == p.v then s
    else
      let now := if p.now < p.v then Nat.min p.v (p.now + stepMv) else Nat.max p.v (p.now - stepMv)
      State.commandV { s with mgt := { s.mgt with pol := { p with now := now } } } s.pins.operation now

end Sys2Proof.Machine
end

