-- ==== Sys2Proof/Machine/LintHub.lean ====
section
/-! DEFINITION. The Lint hub's moves: from the queue into the ring and to flash (R554, R557 to R559, R569). -/

namespace Sys2Proof.Machine

/-- R554: the 16 words of a record. -/
def LintRec.words (r : LintRec) : List Word :=
  let head : List Nat :=
    [r.code.toNat + r.source.toNat * 2 ^ 16 + b2n r.flashed * 2 ^ 24, r.seq.toNat, fld r.time.toNat 0 32, fld r.time.toNat 32 32,
     r.key.toNat, r.loc.toNat + r.rep.toNat * 2 ^ 16]
  head.map (BitVec.ofNat 32) ++ (r.args ++ List.replicate 10 0).take 10

/-- R558: sizes of the ring, of a window, and of the flash log: its records, and those of one block. -/
def lintRing : Nat := 1024
def lintWindow : Nat := 64
def lintFlash : Nat := 128 * 1024
def lintBlock : Nat := 1024

/-- R558: a record goes into the circular log; the oldest block is erased when space is needed. -/
def addFlash (l : List LintRec) (r : LintRec) : List LintRec :=
  (if lintFlash ≤ l.length then l.drop lintBlock else l) ++ [r]

/-- R541, R558: the records that are flashed. -/
def State.toFlash (s : State) (r : LintRec) : Bool := isError r.code || (codeClass r.code == 1 && bitOf s.mgt.config.toNat 2)

/-- R558: a record enters the ring under the next number, and is flashed where it is to be and the window has room; `always`
passes the window by (R510). -/
def State.recordIt (s : State) (r : LintRec) (always : Bool) : State :=
  let l := s.lint
  let want := always || s.toFlash r
  let room := always || decide (l.winCount < lintWindow)
  let r := { r with seq := l.nextSeq, flashed := want && room }
  let l := { l with
    ring := (l.ring ++ [r]).drop (l.ring.length + 1 - lintRing)
    nextSeq := l.nextSeq + 1
    flash := if want && room then addFlash l.flash r else l.flash
    winCount := if want && room then l.winCount + 1 else l.winCount
    winSkip := if want && !room then l.winSkip + 1 else l.winSkip
    skip := if want && !room then countUp l.skip 1 else l.skip }
  { s with lint := l, mgt := { s.mgt with lintSeq := r.seq } }

/-- R557: a freed entry goes to a LINT_LOST record, then to the waiting core-domain events in the order of their arrival, each of
which is taken now (R554). -/
def State.refill (s : State) : State :=
  let l := s.lint
  if lintQueueMax ≤ l.queue.length then s
  else if l.lostNew ≠ 0 then
    let r : LintRec := { code := Code.lintLost, source := Src.viloth.code, time := s.mgt.time, key := 0, loc := 0, args := [BitVec.ofNat 32 l.lostNew] }
    { (s.setLast .viloth Code.lintLost) with lint := { l with queue := l.queue ++ [r], lostNew := 0 } }
  else match l.waiting with
    | e :: w => { s with lint := { l with
        waiting := w, queue := (bumpLast e.same l.queue).getD (l.queue ++ [{ e with time := s.mgt.time }]) } }
    | [] => s

/-- R557: LINT_HUB_MOVE: every 320 ns the oldest queued record moves into the ring. -/
def execLintHubMove (s : State) : Out :=
  run .lintHubMove s fun s =>
    if !s.vilothRuns then s
    else match s.lint.queue with
      | r :: q => ({ s with lint := { s.lint with queue := q } }.recordIt r false).refill
      | [] => s.refill

/-- R558: LINT_FLASH_WINDOW: a window of one second begins; after one that skipped records, LINT_FLASH_SKIPPED is written. -/
def execLintFlashWindow (s : State) : Out :=
  run .lintFlashWindow s fun s =>
    if !s.vilothRuns then s
    else
      let n := s.lint.winSkip
      let s := { s with lint := { s.lint with winCount := 0, winSkip := 0 } }
      if n = 0 then s else s.raise .viloth Code.lintFlashSkipped 0 [n, s.lint.skip.toNat]

/-- R510: the record of a power-down's cause is flashed whatever the rate, from the queue or the ring. -/
def State.flashCause (s : State) (code : BitVec 16) : State :=
  if code = 0 then s
  else match s.lint.queue.find? fun r => decide (r.code = code) with
    | some r => { s with lint := { s.lint with queue := s.lint.queue.filter fun x => decide (x ≠ r) } }.recordIt r true
    | none => match s.lint.ring.reverse.find? fun r => decide (r.code = code) with
      | some r =>
        if r.flashed then s
        else { s with lint := { s.lint with
          ring := s.lint.ring.map fun x => if x = r then { r with flashed := true } else x
          flash := addFlash s.lint.flash { r with flashed := true } } }
      | none => s

end Sys2Proof.Machine
end

