-- ==== Sys2Proof/Machine/Boot.lean ====
section
/-! DEFINITION. Start-up and supplies: the OTP store, the choice of a flash copy, the power-up and power-down sequences, the
phases of a cold start up to job-ready, and the restarts of Viloth (R501 to R511, R521, R525, R527, R531 to R549). -/

namespace Sys2Proof.Machine

/-! ### The OTP store (R533 to R537) -/

/-- R534: IDENTITY and the repair maps pass their CRCs. -/
def State.otpGood (s : State) : Bool :=
  s.otpNat 0x1E 2 == crc16 (s.otpBytes 0 30) && s.otpNat 0x2C0 2 == crc16 (s.otpBytes 0x90 (0x2C0 - 0x90))

/-- R533: the OTP SVN: the count of set bits. -/
def State.otpSvn (s : State) : Nat := ((upto 96).filter fun k => bitOf (s.otpNat 0x84 12) k).length

/-- R535: key slot `k` is usable with a public key. -/
def State.keyUsable (s : State) (k : Nat) (key : List Byte) : Bool :=
  decide (k < 3) && s.otpNat (0x20 + 32 * k) 32 != 0 && !bitOf (s.otpNat 0x80 1) k
  && s.otpBytes (0x20 + 32 * k) 32 == (sha512 key).take 32

/-- R537: fields of a settings record. -/
def setCapMax (r : BitVec 256) : Nat := fld r.toNat 0 16
def setCareful (r : BitVec 256) : Bool := bitOf r.toNat 16
def setDebug (r : BitVec 256) : Nat := fld r.toNat 17 2
def setKeySlot (r : BitVec 256) : Nat := fld r.toNat 19 2
def setNoRecovery (r : BitVec 256) : Bool := bitOf r.toNat 21

/-- R537: a settings generation is valid. -/
def settingsGood (r : BitVec 256) : Bool :=
  fld r.toNat 240 16 == crc16 (leBytes 30 r.toNat) && decide (600 ≤ setCapMax r) && decide (setCapMax r ≤ 2400)
  && decide (setDebug r ≤ 1) && decide (setKeySlot r ≠ 3) && zeroBits r.toNat 22 218

/-- Settings generation `k`. -/
def State.settingsGen (s : State) (k : Nat) : BitVec 256 := BitVec.ofNat 256 (s.otpNat (0x300 + 32 * k) 32)

/-- R537: the generation in use: the valid one of the highest index. -/
def State.newestSettings (s : State) : Option (BitVec 256) := ([3, 2, 1, 0].map s.settingsGen).find? settingsGood

/-- R537: the settings in use, by field. -/
def State.capMax (s : State) : Nat := (s.mgt.settings.map setCapMax).getD 2400
def State.carefulForce (s : State) : Bool := (s.mgt.settings.map setCareful).getD false
def State.recoveryOff (s : State) : Bool := (s.mgt.settings.map setNoRecovery).getD false

/-! ### Flash copies (R539 to R545) -/

/-- A byte of the flash; an erased one reads 0xFF (log 7). -/
def State.flashByte (s : State) (a : Nat) : Byte := s.mgt.flash.get 0xFF a
def State.flashBytes (s : State) (a n : Nat) : List Byte := (upto n).map fun k => s.flashByte (a + k)
def State.flashNat (s : State) (a n : Nat) : Nat := leNat (s.flashBytes a n)

/-- R539: the base of a copy: false A, true B. -/
def copyBase (c : Bool) : Nat := if c then 0x1000000 else 0

/-- R540, R541: fields of a header, given as its 4,096 bytes. -/
def hdNat (h : List Byte) (o n : Nat) : Nat := leNat ((h.drop o).take n)
def hdSlot (h : List Byte) : Nat := fld (hdNat h 4 4) 8 2
def hdSvn (h : List Byte) : Nat := fld (hdNat h 4 4) 16 8
def hdSeq (h : List Byte) : Nat := hdNat h 8 4
def hdLen (h : List Byte) : Nat := hdNat h 0xC 4
def hdKey (h : List Byte) : List Byte := (h.drop 0x20).take 32
def hdDigest (h : List Byte) : List Byte := (h.drop 0x40).take 64
def hdConfig (h : List Byte) : Nat := hdNat h 0x100 40

/-- R541: fields of a configuration block. -/
def cfPhys (c : Nat) : Nat := fld (wordAt c 1) 0 14
def cfWays (c d : Nat) : Nat := fld (wordAt c 2) (8 * d) 5
def cfAddr (c d : Nat) : Nat := fld (wordAt c 3) (8 * d) 7
def cfCap (c : Nat) : Nat := fld (wordAt c 4) 0 16
def cfVset (c : Nat) : Nat := fld (wordAt c 4) 16 16
def cfLoad (c : Nat) : Nat := wordAt c 9

/-- R541: a configuration block holds no reserved value and no field out of range. -/
def configGood (c : Nat) : Bool :=
  zeroBits (wordAt c 0) 3 29 && zeroBits (wordAt c 1) 14 18
  && ((upto 4).all fun d => decide (cfWays c d ≤ 16) && zeroBits (wordAt c 2) (8 * d + 5) 3 && zeroBits (wordAt c 3) (8 * d + 7) 1)
  && decide (((dedup ((upto 4).map (cfAddr c))).length) = 4)
  && decide (600 ≤ cfCap c) && decide (cfCap c ≤ 2400) && decide (600 ≤ cfVset c) && decide (cfVset c ≤ 850)
  && decide (13 ≤ fld (wordAt c 5) 0 8) && decide (fld (wordAt c 5) 0 8 ≤ 50) && zeroBits (wordAt c 5) 15 17
  && decide (4096 ≤ cfLoad c) && decide (cfLoad c ≤ 1835008)

/-- R540: a header holds no reserved value and no field out of range. -/
def headerGood (h : List Byte) : Bool :=
  let w := hdNat h 4 4
  zeroBits w 10 6 && zeroBits w 24 8 && decide (hdSvn h ≤ 96) && decide (hdSeq h ≤ 0xFFFFFFFE)
  && decide (cfLoad (hdConfig h) ≤ hdLen h) && decide (hdLen h ≤ 16773120)
  && hdNat h 0x10 16 == 0 && hdNat h 0x80 128 == 0 && hdNat h 0x128 (0xF80 - 0x128) == 0 && hdNat h 0xFC0 (0xFFC - 0xFC0) == 0
  && configGood (hdConfig h)

/-- R542: the first check of reasons 1 to 6 that a header fails; 0 where it passes them all. -/
def State.headerReason (s : State) (h : List Byte) : Nat :=
  if hdNat h 0 4 ≠ 0x534C4843 ∨ hdNat h 4 1 ≠ 1 then 1
  else if crc32 (h.take 0xFFC) ≠ hdNat h 0xFFC 4 then 2
  else if !s.keyUsable (hdSlot h) (hdKey h) then 3
  else if !edVerify (hdKey h) (h.take 0xF80) ((h.drop 0xF80).take 64) then 4
  else if hdSvn h < s.otpSvn then 5
  else if !headerGood h then 6
  else 0

/-- The header sector of a copy. -/
def State.header (s : State) (c : Bool) : List Byte := s.flashBytes (copyBase c) 4096

/-- R542, R544: why a copy is invalid; 0 where it is not. A copy whose digest failed in this start-up has reason 7. -/
def State.copyReason (s : State) (c : Bool) : Nat :=
  let r := s.headerReason (s.header c)
  if r ≠ 0 then r else if (if c then s.seq.badB else s.seq.badA) then 7 else 0

/-- R544: the body's digest matches. -/
def State.bodyGood (s : State) (c : Bool) : Bool :=
  let h := s.header c
  sha512 (s.flashBytes (copyBase c + 0x1000) (hdLen h)) == hdDigest h

/-- R543: the copy that is chosen of those that are valid. -/
def State.chooseCopy (s : State) : Option Bool :=
  let a := s.copyReason false
  let b := s.copyReason true
  if a = 0 ∧ b = 0 then some (decide (hdSeq (s.header false) < hdSeq (s.header true)))
  else if a = 0 then some false
  else if b = 0 then some true
  else none

/-! ### Power-down (R509 to R511) -/

/-- R511: what runs on VCORE, VIO and VMEM is lost: the core domain, the endpoint, the fabric island and HBM's contents. -/
def State.dark (s : State) : State :=
  let s := s.zeroRange 0 (2 ^ 42)
  { s with
    cores := ⟨[]⟩, jobs := ⟨[]⟩, chans := ⟨[]⟩, ms := {}, fab := {}, mbx := {}, cfg := {}
    hif := { ({} : Hif) with time := s.hif.time, lastCode := s.hif.lastCode }
    ft := { s.ft with bridge := false, want := none, darning := [] }
    mgt := { s.mgt with update := none, pol := { s.mgt.pol with on := false, hold := false } } }

/-- R509: VCORE below which phase 3 goes on, in mV; every plane last read below it. -/
def lowMv : Nat := 100
def State.planesLow (s : State) : Bool := (upto 4).all fun d => decide (fld (s.mgt.vread.get 0 d).toNat 0 16 < lowMv)

/-- R509 phases 3 to 6: the enables that may fall now do. -/
def State.downAdvance (s : State) : State :=
  let s := if s.seq.down = 1 ∧ s.pins.pgCore = 0 ∧ s.planesLow = true then
      { s with pins := { s.pins with enMem := false, enIo := false }, seq := { s.seq with down := 3 } } else s
  if s.seq.down = 3 ∧ s.pins.pgIo = false ∧ s.pins.pgMem = false then
    let s := { s with pins := { s.pins with enAna := false }, seq := { s.seq with down := 0, up := 0 } }
    s.flashCause s.seq.downCode
  else s

/-- R509 phase 1: the core domain stops, OPERATION goes off and EN_CORE low; the other enables follow. -/
def State.powerDown (s : State) (code : BitVec 16) : State :=
  if s.seq.down ≠ 0 then s
  else
    let s := s.dark
    { s with
      pins := { s.pins with operation := 0, enCore := 0 }
      seq := { s.seq with down := 1, downCode := code, coreRun := false, reset := none, retry := false } }.downAdvance.driveAlert

/-! ### Power-up (R504 to R508, R521) -/

/-- R506: VOUT_COMMAND at phase 5, in mV. -/
def firstMv : Nat := 700

/-- R506: the next phase of power-up, where its condition holds. -/
def State.powerStep (s : State) : State :=
  let p := s.pins
  match s.seq.up with
  | 3 => if p.pgAna then { s with pins := { p with enIo := true, enMem := true }, seq := { s.seq with up := 4 } } else s
  | 4 =>
    if !(p.pgIo && p.pgMem) then s
    else if s.mgt.recovery then { s with seq := { s.seq with up := 8 }, hif := { s.hif with cfgReady := true } }
    else
      let t := (s.limitV 15).commandV s.diesOn firstMv
      { t with
        pins := { p with enCore := s.diesOn, operation := s.diesOn }
        seq := { s.seq with up := 5 }
        hif := { s.hif with cfgReady := true }
        mgt := { t.mgt with pol := { s.mgt.pol with now := firstMv } } }
  | 5 => if p.pgCore &&& s.diesOn = s.diesOn then { s with seq := { s.seq with up := 6 } } else s
  | 6 =>
    if p.rstN then { s with
      seq := { s.seq with up := 7, coreRun := true }
      mgt := { s.mgt with phase := 7, pol := { s.mgt.pol with on := true, v := s.mgt.pol.vset } } }
    else s
  | _ => s

/-- R506: power-up goes as far as its inputs let it. -/
def State.powerUp (s : State) : State :=
  if s.seq.down ≠ 0 ∨ !s.vilothRuns then s else s.powerStep.powerStep.powerStep.powerStep

/-- The number of a group (Config.supplyArg). -/
def groupNo : PowerGroup → Nat
  | .ana => 0
  | .io => 1
  | .mem => 2
  | .core d => 3 + d

/-- A group's power-good input, and its enable. -/
def Pins.good (p : Pins) : PowerGroup → Bool
  | .ana => p.pgAna
  | .io => p.pgIo
  | .mem => p.pgMem
  | .core d => bitOf p.pgCore.toNat d
def Pins.enabled (p : Pins) : PowerGroup → Bool
  | .ana => p.enAna
  | .io => p.enIo
  | .mem => p.enMem
  | .core d => bitOf p.enCore.toNat d

/-- A power-good input takes a level. -/
def Pins.setGood (p : Pins) (g : PowerGroup) (b : Bool) : Pins := match g with
  | .ana => { p with pgAna := b }
  | .io => { p with pgIo := b }
  | .mem => { p with pgMem := b }
  | .core d => { p with pgCore := BitVec.ofNat 4 (setFld p.pgCore.toNat d 1 (b2n b)) }

/-- R506: POWER_GOOD_RISE. -/
def execPowerGoodRise (g : PowerGroup) (s : State) : Out :=
  run (.powerGoodRise g) s fun s => { s with pins := s.pins.setGood g true }.powerUp

/-- The phase of R506 that waits for a group. -/
def phaseOf : PowerGroup → Nat
  | .ana => 3
  | .io => 4
  | .mem => 4
  | .core _ => 5

/-- R508: failures after which the enables stay low. -/
def seqTries : Nat := 3

/-- R508: POWER_GOOD_TIMEOUT. -/
def execPowerGoodTimeout (g : PowerGroup) (s : State) : Out :=
  run (.powerGoodTimeout g) s fun s =>
    if s.seq.up ≠ phaseOf g ∨ s.pins.good g ∨ !s.pins.enabled g ∨ !s.vilothRuns then s
    else
      let s := s.raise .viloth Code.pwrSeqFail 0 [(Config.supplyArg (groupNo g)).toNat]
      let s := s.powerDown Code.pwrSeqFail
      let n := s.seq.fails + 1
      { s with seq := { s.seq with fails := n, retry := decide (n < seqTries), stopped := decide (seqTries ≤ n) } }.driveAlert

/-- R508: SEQUENCE_RETRY: 1 s later the sequence is tried again. -/
def execSequenceRetry (s : State) : Out :=
  run .sequenceRetry s fun s =>
    if s.seq.retry && s.seq.down == 0 && s.seq.up == 0 && s.vilothRuns then
      { s with pins := { s.pins with enAna := true }, seq := { s.seq with retry := false, up := 3 } }.powerUp
    else s

/-- R511, R517: a plane is lost while the core domain runs: its enable falls, its die's cores are gone, and the device is to
fold. -/
def State.losePlane (s : State) (d : Nat) (cause : FoldCause) : State :=
  if !s.seq.coreRun then s
  else
    let s := { s with pins := { s.pins with enCore := BitVec.ofNat 4 (setFld s.pins.enCore.toNat d 1 0) } }
    (s.dropCores fun r => dieOf r == d).wantFold cause

/-- R511: a power-good input falls while its enable is high. -/
def State.railLost (s : State) (g : PowerGroup) : State :=
  match g with
  | .core d =>
    if !s.seq.coreRun then s
    else (s.raise .viloth Code.pwrRailLost 0 [(Config.supplyArg (groupNo g)).toNat]).losePlane d .vcoreLost
  | _ => (s.raise .viloth Code.pwrRailLost 0 [(Config.supplyArg (groupNo g)).toNat]).powerDown Code.pwrRailLost

/-- R509, R511: POWER_GOOD_FALL. -/
def execPowerGoodFall (g : PowerGroup) (s : State) : Out :=
  run (.powerGoodFall g) s fun s =>
    let on := s.pins.good g && s.pins.enabled g && s.seq.down == 0 && s.vilothRuns
    let s := { s with pins := s.pins.setGood g false }
    if on then s.railLost g else s.downAdvance

/-! ### The PMBus controllers (R515, R517, R524, R550) -/

/-- R517: a controller fault: PMB_FAULT, and what R511 states for a lost plane. -/
def State.pmbFault (s : State) (plane : Fin 4) (value : Nat) : State :=
  (s.raise .viloth Code.pmbFault 0 [(Config.supplyArg (3 + plane)).toNat, value]).losePlane plane .pmbFault

/-- R509, R515, R517: what a controller answers; a power-down may wait for what VCORE reads. -/
def State.pmbAnswer (s : State) (plane : Fin 4) (r : PmbResult) : State := match r with
  | .readings v i =>
    State.downAdvance { s with mgt := { s.mgt with vread := s.mgt.vread.set 0 plane (BitVec.ofNat 32 (v.toNat + i.toNat * 2 ^ 16)) } }
  | .statusFault w => s.pmbFault plane w.toNat
  | .noAck => s.pmbFault plane 0
  | .pecFail => s.pmbFault plane 0

/-- R524, R517: PMB_ALERT: the alerting controller's STATUS_WORD is read. -/
def execPmbAlert (plane : Fin 4) (r : PmbResult) (s : State) : Out :=
  run (.pmbAlert plane r) s fun s => if s.vilothRuns then s.pmbAnswer plane r else s

/-- R550: PMBUS_VCORE_READ: a plane's voltage and current, every 1 ms. PWR_VCORE_d shows them at the next write of the mirror. -/
def execPmbusVcoreRead (plane : Fin 4) (r : PmbResult) (s : State) : Out :=
  run (.pmbusVcoreRead plane r) s fun s => if s.vilothRuns then s.pmbAnswer plane r else s

/-- R509: PWR_FAIL_N_FALL. -/
def execPwrFailNFall (s : State) : Out :=
  run .pwrFailNFall s fun s =>
    let s := { s with pins := { s.pins with pwrFailN := false } }
    if s.vilothRuns then (s.raise .viloth Code.pwrFail 0 []).powerDown Code.pwrFail else s

/-- R527: THERMTRIP: the comparator pulls THERMTRIP_N low, and power-down starts. -/
def execThermtrip (s : State) : Out :=
  run .thermtrip s fun s =>
    if !s.pins.vaux || s.pins.thermtrip then s
    else
      let s := { s with pins := { s.pins with thermtrip := true } }
      (s.raise .viloth Code.thermtrip 0 []).powerDown Code.thermtrip

/-! ### Cold start (R493, R546) -/

/-- R558: the number after the highest in the flash region, or 0. -/
def nextLintSeq (l : List LintRec) : Word := match l.map (·.seq.toNat) with
  | [] => 0
  | x :: r => BitVec.ofNat 32 (r.foldl Nat.max x + 1)

/-- R493: everything but OTP and flash is at its reset value; the levels that the board drives stay. Record numbers go on from
those of the flash region (R554). -/
def State.cold (s : State) (pins : Pins) : State :=
  { State.reset with
    pending := s.pending
    wlog := [.zero 0 (2 ^ 42)]
    free := s.free
    lint := { ({} : Lint) with flash := s.lint.flash, nextSeq := nextLintSeq s.lint.flash }
    mgt := { State.reset.mgt with otp := s.mgt.otp, flash := s.mgt.flash }
    pins := pins }

/-- R506: VAUX_RISE: every enable is low, and Viloth is to start from ROM. -/
def execVauxRise (s : State) : Out :=
  run .vauxRise s fun s =>
    if s.pins.vaux then s
    else
      let p := s.pins
      let t := s.cold { p with vaux := true, enAna := false, enIo := false, enMem := false, enCore := 0, operation := 0,
                                thermtrip := false, smbAlert := false, mgtClk := true }
      { t with mgt := { t.mgt with phase := 1 }, seq := { t.seq with up := 1 } }

/-- R527: VAUX_FALL: the device is off. -/
def execVauxFall (s : State) : Out :=
  run .vauxFall s fun s =>
    let p := s.pins
    s.cold { p with vaux := false, enAna := false, enIo := false, enMem := false, enCore := 0, operation := 0,
                     thermtrip := false, smbAlert := false }

/-- R544, R549: RESTART_AT_PHASE_2, with VAUX kept on: MGT_TIME goes on, and a copy whose digest failed is invalid for the
restart that this brought about. -/
def execRestartAtPhase2 (s : State) : Out :=
  run .restartAtPhase2 s fun s =>
    if !(s.seq.restart && s.seq.down == 0 && s.seq.up == 0 && s.vilothRuns) then s
    else
      let t := s.cold s.pins
      { t with
        mgt := { t.mgt with phase := 2, time := s.mgt.time }
        seq := { t.seq with up := 1, badA := s.seq.badA, badB := s.seq.badB } }.driveAlert

/-- R548: start-up stops until VAUX is cycled. -/
def State.stopBoot (s : State) (code : BitVec 16) : State :=
  let s := s.raise .viloth code 0 []
  { s with seq := { s.seq with stopped := true, up := 0 } }.driveAlert

/-- R548: no valid copy: recovery mode, or a stop. -/
def State.noImage (s : State) : State :=
  let s := s.raise .thimble Code.bootNoImage 0 []
  if s.recoveryOff then
    { s with
      pins := { s.pins with enIo := false, enMem := false }
      seq := { s.seq with stopped := true, up := 0 } }.driveAlert
  else { s with mgt := { s.mgt with recovery := true }, hif := { s.hif with cfgReady := true } }.driveAlert

/-- R543: a copy that fails raises CFG_COPY_INVALID. -/
def State.judgeCopy (s : State) (c : Bool) : State :=
  if s.copyReason c = 0 then s else s.raise .thimble Code.cfgCopyInvalid 0 [b2n c, s.copyReason c]

/-- R546 phases 5 and 6: the configuration of the chosen copy is in force, and power-up is to be completed. -/
def State.applyConfig (s : State) (c : Bool) : State :=
  let w := hdConfig (s.header c)
  { s with
    hif := { s.hif with cfgReady := true }
    mgt := { s.mgt with
      phase := 6, copy := some c, config := BitVec.ofNat 320 w
      pol := { s.mgt.pol with cap := Nat.min (cfCap w) s.capMax, vset := cfVset w } } }

/-- R546 phases 3 to 5: EN_ANA, the flash, the headers, and the configuration. -/
def State.bootFlash (s : State) (sfdpOk : Bool) : State :=
  let s := { s with pins := { s.pins with enAna := true }, seq := { s.seq with up := 3 }, mgt := { s.mgt with phase := 3 } }
  if !sfdpOk then s.stopBoot Code.bootSpiFail
  else
    let s := { s with mgt := { s.mgt with phase := 4 } }
    let pick := s.chooseCopy
    let s := (s.judgeCopy false).judgeCopy true
    match pick with
    | some c => (s.applyConfig c).powerUp
    | none => s.noImage.powerUp

/-- R546: BOOT_ROM_START: phases 1 to 5, as far as they come. -/
def execBootRomStart (o : BootObs) (s : State) : Out :=
  run (.bootRomStart o) s fun s =>
    if !(s.vilothRuns && s.seq.up == 1 && !s.seq.stopped) then s
    else if s.mgt.phase = 1 ∧ !o.mgtClk then
      ({ s with pins := { s.pins with mgtClk := false } }.raise .viloth Code.clkMissing 0 [(Config.supplyArg 8).toNat]).driveAlert
    else
      let s := { s with mgt := { s.mgt with phase := 2, thimble := true } }
      if !o.thimbleOk then s.stopBoot Code.bootThimbleFail
      else if !s.otpGood then
        let s := s.raise .thimble Code.bootOtpBad 0 []
        { s with seq := { s.seq with stopped := true, up := 0 } }.driveAlert
      else
        let s := { s with mgt := { s.mgt with ident := BitVec.ofNat 256 (s.otpNat 0 32), settings := s.newestSettings } }
        s.bootFlash o.sfdpOk

/-- R521: MGT_CLK_RECHECK, every 1 s: with the clock there, ROM goes on. -/
def execMgtClkRecheck (present : Bool) (s : State) : Out :=
  run (.mgtClkRecheck present) s fun s =>
    if s.pins.vaux && !s.pins.mgtClk && present then { s with pins := { s.pins with mgtClk := true } }.driveAlert else s

/-- R521: REFCLK_MISSING: a port of the pair stays DOWN; without PE_REFCLK the link stays down. -/
def execRefclkMissing (clk : RefClock) (s : State) : Out :=
  run (.refclkMissing clk) s fun s =>
    if !s.vilothRuns then s
    else match clk with
      | .serdes p =>
        let s := { s with pins := { s.pins with sdClk := BitVec.ofNat 4 (setFld s.pins.sdClk.toNat p 1 0) } }
        let s := s.raise .viloth Code.clkMissing 0 [(Config.supplyArg (9 + p)).toNat]
        forEach (fun (n : Fin 13) s => if (s.port n).state = 1 then s.setPort n { s.port n with state := 0, fecLock := false } else s)
          (portsOfPair p) s
      | .pcie =>
        { s with pins := { s.pins with peClk := false }, hif := { s.hif with linkUp := false } }.raise .viloth Code.clkMissing 0
          [(Config.supplyArg 13).toNat]

/-! ### Firmware (R531, R544, R546 phase 7) -/

/-- R569: MGT_FW_INFO and MGT_FW_SEQ of the running copy. -/
def State.showCopy (s : State) (c : Bool) : State :=
  let h := s.header c
  { s with mgt := { s.mgt with
    fwSeq := BitVec.ofNat 32 (hdSeq h)
    fwInfo := BitVec.ofNat 32 (b2n c + hdSvn h * 2 ^ 8 + s.otpSvn * 2 ^ 16 + b2n (s.copyReason (!c) == 0) * 2 ^ 24) } }

/-- R544, R549: a body fails its digest: a restart on the other copy, or after a second failure within one start-up no image:
no copy runs, and BOOT_NO_IMAGE is the code raised last (R570). -/
def State.bodyBad (s : State) (c : Bool) : State :=
  let s := s.raise .thimble Code.cfgBodyBad 0 [b2n c]
  let starting := s.mgt.phase != 11
  let second := starting && (s.seq.badA || s.seq.badB)
  let s := { s with seq := { s.seq with
    badA := !c || (starting && s.seq.badA), badB := c || (starting && s.seq.badB), still := none } }
  if second then
    let s := { s with
      pins := { s.pins with operation := 0, enCore := 0 }
      seq := { s.seq with coreRun := false, up := 8 }
      raised := []
      mgt := { s.mgt with copy := none, pol := { s.mgt.pol with on := false } } }
    s.noImage
  else
    let s := s.powerDown Code.cfgBodyBad
    { s with seq := { s.seq with restart := true } }

/-- R554, R558: at phase 7 new records go on after the highest number in the flash region, or after a higher one that the ring
holds. -/
def State.numberRecords (s : State) : State :=
  let n := nextLintSeq s.lint.flash
  if s.lint.nextSeq.toNat < n.toNat then { s with lint := { s.lint with nextSeq := n } } else s

/-- R531, R546: FIRMWARE_LOAD_DONE, phase 7: with a matching digest firmware starts, at a start-up with phases 8 and 9, or once
more after a restart of Viloth. -/
def execFirmwareLoadDone (s : State) : Out :=
  run .firmwareLoadDone s fun s => match s.mgt.copy with
    | none => s
    | some c =>
      if !(s.vilothRuns && (s.seq.still.isSome || (s.seq.up == 7 && s.mgt.phase == 7))) then s
      else if !s.bodyGood c then s.bodyBad c
      else if s.seq.still.isSome then { s with seq := { s.seq with still := none } }
      else
        let s := s.showCopy c
        State.numberRecords { s with mgt := { s.mgt with phase := 9 } }

/-- R531: VILOTH_WATCHDOG: the processor restarts from ROM, which loads and checks the running copy again; until
FIRMWARE_LOAD_DONE the mirror of the MGT block stands still and mailbox words wait. -/
def execVilothWatchdog (s : State) : Out :=
  run .vilothWatchdog s fun s => match s.mgt.copy with
    | none => s
    | some _ =>
      if !(s.vilothRuns && decide (9 ≤ s.mgt.phase.toNat)) || s.seq.still.isSome then s
      else State.raise { s with seq := { s.seq with still := some (s.mgt, s.lint) } } .viloth Code.vilothRestart 0 []

/-! ### Phases 8 to 11 (R536, R546, R547) -/

/-- Phases 8 and 9 have both ended: phase 10. -/
def State.phaseTen (s : State) : State :=
  if s.seq.trained = 0xFF ∧ s.seq.selfDone = true ∧ s.mgt.phase = 9 then { s with mgt := { s.mgt with phase := 10 } } else s

/-- R546 phase 8: HBM_TRAIN_DONE. -/
def execHbmTrainDone (stack : Fin 8) (ok : Bool) (s : State) : Out :=
  run (.hbmTrainDone stack ok) s fun s =>
    if !(s.vilothRuns && s.mgt.phase == 9) || bitOf s.seq.trained.toNat stack then s
    else
      let s := { s with seq := { s.seq with trained := s.seq.trained ||| BitVec.ofNat 8 (2 ^ stack.val) } }
      let s := if ok then { s with ms := { s.ms with hbm := s.ms.hbm ||| BitVec.ofNat 32 (2 ^ (4 * stack.val)) } }
        else (s.raise .viloth Code.hbmTrainFail 0 [stack]).failStack stack
      s.phaseTen

/-- R536: the map of a cluster whose bad slots are `bad`: the good slots in ascending order, then 0xF. -/
def mapOf (bad : Nat) : Nat :=
  let good := (upto 9).filter fun sl => !bitOf bad sl
  ((upto 8).map fun i => nth good i 0xF * 16 ^ i).sum

/-- BAD_k of the OTP (R533). -/
def State.otpBad (s : State) (k : Nat) : Nat := fld (s.otpNat 0x90 36) (9 * k) 9

/-- R547: a core failed the self-test. -/
def State.bistFail (s : State) (r : CoreRef) : State := s.raise .viloth Code.coreBistFail 0 [r.toNat]

/-- R536, R588: the core map and the failed slots of a cluster at start-up. -/
def State.setMap (s : State) (bad : List CoreRef) (k : Nat) : State :=
  let b := s.otpBad k ||| (bad.filter fun r => clusterOf r == k).foldl (fun w r => w ||| 2 ^ (r.toNat % 16)) 0
  { s with
    cfg := { s.cfg with coreMap := s.cfg.coreMap.set 0x76543210#32 k (BitVec.ofNat 32 (mapOf b)) }
    ft := { s.ft with failed := s.ft.failed.set 0 k (BitVec.ofNat 9 b) } }

/-- R352, R541: the explicit ways of a die. -/
def State.setWays (s : State) (d : Nat) : State :=
  { s with ms := { s.ms with cupb := s.ms.cupb.set 0 d (BitVec.ofNat 5 (cfWays s.mgt.config.toNat d)) } }

/-- R186, R541: careful mode is in force. -/
def State.setCareful (s : State) : State :=
  let c := bitOf s.mgt.config.toNat 0 || s.carefulForce
  { s with
    cfg := { s.cfg with numCtrl := BitVec.ofNat 32 (setFld s.cfg.numCtrl.toNat 0 1 (b2n c)) }
    mgt := { s.mgt with careful := c } }

/-- R546 phase 9: SELF_TEST_DONE. -/
def execSelfTestDone (r : SelfTest) (s : State) : Out :=
  run (.selfTestDone r) s fun s =>
    if !(s.vilothRuns && s.mgt.phase == 9) || s.seq.selfDone then s
    else
      let s := forEach (fun c s => s.bistFail c) r.badCores s
      let s := forEach (fun k s => s.setMap r.badCores k) (upto 32) s
      let s := (forEach (fun d s => s.setWays d) (upto 4) s).setCareful
      let fold := r.schedFail || r.cupbFail || s.otpNat 0xB4 1 % 16 != 0
      { s with seq := { s.seq with selfDone := true, foldAtStart := fold } }.phaseTen

/-- R546 phase 10: the ports that have a clock begin to train. -/
def State.trainPorts (s : State) : State :=
  forEach (fun (n : Fin 13) s => if (s.port n).state = 0 ∧ s.portClock n = true then s.retrain n else s) allPorts s

/-- R26: a code of which no rule says more than that some chapter assigns it (log 6). -/
def State.someCode (s : State) : BitVec 16 × State :=
  let (v, s) := s.fresh
  (nth Code.all (v.toNat % Code.all.length) Code.ok, s)

/-- R546 phases 10 and 11: JOB_READY, or the Fold of R547. -/
def execJobReady (s : State) : Out :=
  run .jobReady s fun s =>
    if !(s.vilothRuns && s.mgt.phase == 10) then s
    else
      let s := s.zeroBaskets.trainPorts
      let ms := s.mgt.time.toNat / 10 ^ 6
      let s := { s with mgt := { s.mgt with phase := 11 } }
      if s.seq.foldAtStart then s.wantFold .startUp
      else
        let (code, s) := { s with mgt := { s.mgt with bootMs := BitVec.ofNat 32 ms }, hif := { s.hif with ready := true } }.someCode
        s.log .viloth code 0 [ms]

end Sys2Proof.Machine
end

