-- ==== Sys2Proof/Machine/Reset.lean ====
section
/-! DEFINITION. The resets of a running device: warm reset, FLR and PERST_N, what each resets and keeps, and the end of each
(R356, R380, R414, R457, R483, R493, R494, R524, R568, R590, R601, R602). -/

namespace Sys2Proof.Machine

/-- R496: RESET_CAUSE. -/
def causeRstN : BitVec 3 := 1
def causeHif : BitVec 3 := 2
def causeFlr : BitVec 3 := 3
def causePerst : BitVec 3 := 4
def causeViloth : BitVec 3 := 5

/-- The base of the DIE and cluster configuration block in BAR0 (R462). -/
def dieBlock : Nat := 0x800000

/-- R380, R590, R602: mirrored registers that every reset but a cold start keeps, by offset in the DIE block. -/
def keptDie (o : Nat) : Bool :=
  (decide (0x0100 ≤ o) && decide (o < 0x0180)) || (decide (0x1000 ≤ o) && decide (o < 0x1010)) || o == 0x1060
  || o == 0x3000 || (decide (0x3020 ≤ o) && decide (o < 0x3500)) || o == 0x0008

/-- R493, R494: a job's run, the cores, the channels and the registers of the core domain; R185, R264, R311, R343, R380, R457
and R602 name the registers that do not keep their values. CAREFUL stays as the configuration in force sets it (R545). -/
def State.resetCoreDomain (s : State) : State :=
  { s with
    jobs := ⟨[]⟩
    cores := ⟨[]⟩
    chans := ⟨[]⟩
    cfg := { s.cfg with
      numCtrl := BitVec.ofNat 32 (0xA2 + b2n s.mgt.careful), crsOff := 0, genSel := 0, gangSel := 0, wdog := 0x7D0, therm := 0x0005695F }
    ms := { s.ms with
      quota := ⟨[]⟩, quotaNow := ⟨[]⟩, quotaUsed := ⟨[]⟩, rinse := 0x003C1801, rinsePass := 0, rinseCor := 0, rinseUnc := 0
      faultAddr := 0, faultInfo := 0 }
    ft := { s.ft with reread := 0, darn := 0, fatalLoc := 0, poison := 0, noteSeq := 0, darning := [] } }

/-- A fabric port's counters are zero (R414). -/
def Port.clearCounts (p : Port) : Port := { p with retry := 0, fec := 0, err := 0 }

/-- R414: a warm reset keeps the ports, FAB_RT_ADDR and the route table in effect; reservations, and the copies of gang
descriptors, belong to the cores and the jobs. -/
def State.resetFabRegs (s : State) : State :=
  let ports : Tab Port := ⟨(s.fab.ports.cells.map fun c => (c.1, c.2.clearCounts)).filter fun c => decide (c.2 ≠ {})⟩
  { s with fab := { s.fab with
    ports := ports, rtWait := none, timeout := 0x3E8, discard := 0, lastCode := 0, remote := [], waiting := [], copies := [], copied := [] } }

/-- R14, R467, R493: the indices of a ring, and its vector, which no map keeps. -/
def Ring.clearIndices (r : Ring) : Ring := { r with tail := 0, head := 0, done := 0, vec := 0 }

/-- R14, R483, R493: what every reset does in the endpoint: READY falls, the cause is recorded, the mailboxes and the registers
that no map keeps are at their reset values, and every group is its reset owner's with status OK. The MSI-X table is PCIe's, and a
warm reset is no reset of the link (R495, log 29). -/
def State.resetEndpoint (s : State) (cause : BitVec 3) : State :=
  let rings : Tab Ring := ⟨(s.hif.rings.cells.map fun c => (c.1, c.2.clearIndices)).filter fun c => decide (c.2 ≠ {})⟩
  let mirror : Tab DWord := ⟨s.hif.mirror.cells.filter fun c => decide (dieBlock ≤ c.1) && keptDie (c.1 - dieBlock)⟩
  { s with
    hif := { s.hif with
      ready := false, cause := cause, seen := true, irq := 0, lastCode := 0, rings := rings, owner := ⟨[]⟩, status := ⟨[]⟩, posted := []
      mirror := mirror }
    mbx := {} }

/-- R356: the core domain runs, so dirty cache lines are to be written back. -/
def State.hasLines (s : State) : Bool := s.seq.coreRun

/-- R493: a reset begins. An earlier one that has not ended hands on its write-back. In Fold PERST_N leaves the registers of the
fabric island as they are (R414, R601). -/
def State.beginReset (s : State) (cause : BitVec 3) (causeDone linkDone : Bool) : State :=
  let s := s.resetCoreDomain
  let s := (if s.ft.folded && cause == causePerst then s else s.resetFabRegs).resetEndpoint cause
  { s with
    mgt := { s.mgt with update := none }
    seq := { s.seq with reset := some { cause := cause, causeDone := causeDone, wbDone := !s.hasLines, linkDone := linkDone } } }

/-- R493: a warm reset whose cause is over at once. -/
def State.warmReset (s : State) (cause : BitVec 3) : State := s.beginReset cause true true

/-- R493: FLR: every HIF register is at its reset value, as MBX is after every reset. HIF_TIME counts from the cold start, and
the link, the IDE streams and AER's sticky status stay. -/
def State.clearHostRegs (s : State) : State :=
  let h := s.hif
  { s with
    hif := { ({} : Hif) with
      cause := h.cause, time := h.time, ideStr := h.ideStr, mirror := h.mirror, msixSent := h.msixSent
      pmeSent := h.pmeSent, linkUp := h.linkUp, cfgReady := h.cfgReady, aer := h.aer } }

/-- R493, R601: the fabric island is reset, but not in Fold; note numbers count from the cold start (R582). -/
def State.resetIsland (s : State) : State :=
  if s.ft.folded then s else { s with fab := { ({} : Fabric) with noted := s.fab.noted } }

/-- R493: PERST_N, hot reset or link disable: as FLR, together with the endpoint, the link, the IDE streams and the island. -/
def State.linkReset (s : State) : State :=
  let s := (s.beginReset causePerst false false).clearHostRegs.resetIsland
  { s with hif := { s.hif with linkUp := false, ideStr := [], aer := 0 } }

/-- R493: the device runs and can be reset: Viloth has reached job-ready or a Fold at start-up. -/
def State.upAndRunning (s : State) : Bool := s.vilothRuns && s.mgt.phase == 11

/-- R524: low levels of RST_N in ns: below the first it is ignored, and from the second on it is taken. -/
def rstIgnored : Nat := 960
def rstTaken : Nat := 1000

/-- R524: RST_N is low; after job-ready this is a warm reset, whose cause ends as the pin rises. -/
def State.rstLow (s : State) : State :=
  let s := { s with pins := { s.pins with rstN := false } }
  if s.upAndRunning then s.beginReset causeRstN false true else s

/-- R524: RST_N. Between the two times no rule says whether it is taken, so a free value does (log 6). -/
def execRstN (lowNs : Nat) (s : State) : Out :=
  run (.rstN lowNs) s fun s =>
    if lowNs < rstIgnored then s
    else if rstTaken ≤ lowNs then s.rstLow
    else
      let (v, s) := s.fresh
      if bitOf v.toNat 0 then s.rstLow else s

/-- R524: RST_N_RELEASE: the cause of a warm reset ends, or phase 6 of power-up goes on. -/
def execRstNRelease (s : State) : Out :=
  run .rstNRelease s fun s =>
    let s := { s with pins := { s.pins with rstN := true } }
    let s := match s.seq.reset with
      | some r => if r.cause = causeRstN then { s with seq := { s.seq with reset := some { r with causeDone := true } } } else s
      | none => s
    s.powerUp

/-- R493: FLR, which the host orders over the link. -/
def execFlr (s : State) : Out :=
  run .flr s fun s =>
    if s.hif.linkUp then (s.beginReset causeFlr true true).clearHostRegs else s

/-- R493: PERST_N, hot reset and link disable. -/
def execPerstN (kind : PerstKind) (s : State) : Out :=
  run (.perstN kind) s fun s =>
    let s := if kind = .perst then { s with pins := { s.pins with perstN := false } } else s
    if s.pins.vaux then s.linkReset else s

/-- R493, R521: PCIE_LINK_UP: the link reaches L0, the cause of a reset by PERST_N ends, and the ports train again. -/
def execPcieLinkUp (s : State) : Out :=
  run .pcieLinkUp s fun s =>
    if !(s.pins.vaux && s.pins.peClk && s.pins.pgIo) || s.hif.linkUp then s
    else
      let s := { s with hif := { s.hif with linkUp := true }, pins := { s.pins with perstN := true } }
      let s := match s.seq.reset with
        | some r =>
          if r.cause = causePerst then { s with seq := { s.seq with reset := some { r with causeDone := true, linkDone := true } } } else s
        | none => s
      if !s.ft.folded && s.upAndRunning then s.trainPorts else s

/-- R356: WARM_WRITEBACK_DONE: every dirty line is in HBM, and every Basket and Cupboard byte becomes zero. -/
def execWarmWritebackDone (s : State) : Out :=
  run .warmWritebackDone s fun s => match s.seq.reset with
    | none => s
    | some r =>
      if r.wbDone then s
      else
        let s := (s.dropLines []).zeroBaskets
        { s with seq := { s.seq with reset := some { r with wbDone := true } } }

/-- R493: RESET_READY: 50 ms after the later of the end of the cause and the end of write-back the device is ready again. A
device that folded at start-up was never job-ready (R547). -/
def execResetReady (s : State) : Out :=
  run .resetReady s fun s => match s.seq.reset with
    | none => s
    | some r =>
      if !(r.causeDone && r.wbDone && r.linkDone) then s
      else { s with
        hif := { s.hif with ready := s.upAndRunning && !s.seq.foldAtStart }
        seq := { s.seq with reset := none } }

end Sys2Proof.Machine
end

