-- ==== Sys2Proof/Machine/RegMap.lean ====
section
/-! DEFINITION. The register maps as they read: HIF, MBX, MGT and FAB, the DIE and cluster configuration block, and the debug
windows (R39 to R42, R185, R186, R215, R216, R264 to R267, R380 to R384, R414, R415, R457 to R459, R462, R495 to R499, R569 to R571,
R602, R603). Every function answers the 32-bit word at an offset; an 8-byte register is two such words. -/

namespace Sys2Proof.Machine

/-! ### Parties and groups (R477, R478) -/

/-- R477: the rank of a party, minus 1. -/
def rankOf : Party → Nat
  | .thimble => 0
  | .secureHost => 1
  | .viloth => 2
  | .host => 3

/-- R478: the reset owner of a group, as its rank minus 1. -/
def resetOwner (g : Nat) : BitVec 2 := match g with
  | 13 | 15 => 2
  | 16 => 1
  | 17 => 0
  | _ => 3

/-- The owner of a group. -/
def State.owner (s : State) (g : Nat) : BitVec 2 := s.hif.owner.get (resetOwner g) g

/-- R482: the outcome of a party's last request to a group. -/
def State.groupStatus (s : State) (g : Nat) (p : Party) : BitVec 16 := s.hif.status.get 0 (4 * g + rankOf p)

/-! ### HIF and MBX (R495 to R499) -/

/-- R496: HIF_STATUS. -/
def State.hifStatus (s : State) : Nat :=
  b2n s.hif.ready + s.hif.cause.toNat * 2 + b2n s.hif.seen * 2 ^ 4 + b2n s.hif.ideUp * 2 ^ 5 + s.hif.lastCode.toNat * 2 ^ 16

/-- R495: a register of ring k. -/
def Ring.word (r : Ring) (o : Nat) : Nat := match o with
  | 0x00 | 0x04 => half r.baseSh.toNat o
  | 0x08 => r.sizeSh.toNat
  | 0x10 => r.tail.toNat
  | 0x14 => r.head.toNat
  | 0x18 => r.done.toNat
  | 0x1C => r.vec.toNat
  | _ => 0

/-- R482, R495: the owner and status registers of a group as a party sees them. -/
def State.groupWord (s : State) (p : Party) (g o : Nat) : Nat :=
  if 18 ≤ g then 0
  else match o with
    | 0 => (s.owner g).toNat
    | 8 => (s.groupStatus g p).toNat
    | _ => 0

/-- R495: the HIF block. -/
def State.hifWord (s : State) (p : Party) (o : Nat) : Nat :=
  match o with
  | 0x0000 => s.hifStatus
  | 0x0004 => s.hif.irq.toNat
  | 0x0010 | 0x0014 => half s.hif.time.toNat o
  | 0x1400 | 0x1404 => half s.hif.msixPend.toNat o
  | _ =>
    if 0x0100 ≤ o ∧ o < 0x0200 then (s.ring ((o - 0x100) / 32)).word (o % 32)
    else if 0x0200 ≤ o ∧ o < 0x0320 then s.groupWord p ((o - 0x200) / 16) (o % 16)
    else if 0x1000 ≤ o ∧ o < 0x1400 then wordAt (s.hif.msixTab.get msixReset ((o - 0x1000) / 16)).toNat (o % 16 / 4)
    else 0

/-- A mailbox channel. -/
def State.mbox (s : State) (n : Nat) : Mbox := s.mbx.ch.get {} n
def State.setMbox (s : State) (n : Nat) (c : Mbox) : State := { s with mbx := { s.mbx with ch := s.mbx.ch.set {} n c } }

/-- R491: words of a data window. -/
def mbxWindow : Nat := 256

/-- R488: the host, or the secure host, sends on the first four channels of its page. -/
def hostSends (n : Nat) : Bool := decide (n % 8 < 4)

/-- R498: MBX_WSTAT_n: free words as the sender sees them, waiting words as the receiver does. -/
def State.mbxStat (s : State) (n : Nat) : Nat :=
  let k := (s.mbox n).win.length
  if hostSends n then mbxWindow - k else k

/-- R499: MBX_FLAGS of the eight channels from `first`. -/
def State.mbxFlags (s : State) (first : Nat) : Nat :=
  ((upto 8).map fun k =>
    let c := s.mbox (first + k)
    b2n c.full * 2 ^ k + b2n c.ovr * 2 ^ (8 + k) + b2n c.undr * 2 ^ (16 + k)).sum

/-- R498: the MBX block, as the host sees channels 0 to 7, or in BAR4 the secure host channels 8 to 15. The word and the window
registers of the host's own channels are write-only, and those of the other four are read by MBX_WORD_READ and MBX_WIN_READ. -/
def State.mbxWord (s : State) (first o : Nat) : Nat :=
  match o with
  | 0x0100 => s.mbxFlags first
  | 0x0104 => if first = 0 then s.mbx.irqEn.toNat else s.mbx.sirqEn.toNat
  | 0x0108 => if first = 0 then 0 else s.mbx.sirqVec.toNat
  | _ =>
    if 0x80 ≤ o then (if first ≠ 0 ∧ 0x0800 ≤ o ∧ o < 0x0920 then s.groupWord .secureHost ((o - 0x800) / 16) (o % 16) else 0)
    else
      let n := first + o / 16
      let c := s.mbox n
      match o % 16 with
      | 0 | 4 => if hostSends n then 0 else half (if c.full then c.word.toNat else 0) o
      | 8 => if hostSends n then 0 else ((c.win.headD 0)).toNat
      | _ => s.mbxStat n

/-! ### MGT (R569 to R571) -/

/-- R531: what the mirror of the MGT block shows: Viloth's values, or, while Viloth restarts, those from before. -/
def State.mirror (s : State) : State := match s.seq.still with
  | some (m, l) => { s with mgt := m, lint := l }
  | none => s

/-- R570: MGT_STATUS. -/
def State.mgtStatus (s : State) : Nat :=
  s.mgt.phase.toNat + b2n s.mgt.recovery * 2 ^ 4 + b2n s.mgt.careful * 2 ^ 5 + b2n s.mgt.folded * 2 ^ 6
  + b2n s.mgt.update.isSome * 2 ^ 7 + s.mgt.lastCode.toNat * 2 ^ 16

/-- R569: the MGT block, as Viloth writes it. -/
def State.mgtNow (s : State) (o : Nat) : Nat :=
  let m := s.mgt
  match o with
  | 0x0000 => s.mgtStatus
  | 0x0004 => m.fwSeq.toNat
  | 0x0008 => m.fwInfo.toNat
  | 0x000C => m.bootMs.toNat
  | 0x0010 | 0x0014 => half m.time.toNat o
  | 0x0040 => m.pol.capSh.toNat
  | 0x0044 => m.pol.vsetSh.toNat
  | 0x004C => b2n m.tapOpen
  | 0x0050 => m.lintSeq.toNat
  | 0x0054 => s.lint.skip.toNat
  | 0x0058 => s.lint.lost.toNat
  | 0x1000 => m.pwrState.toNat
  | 0x1004 => m.tjMax.toNat
  | 0x1050 => m.power.toNat
  | 0x1054 => m.setpoint.toNat
  | _ =>
    if 0x0020 ≤ o ∧ o < 0x0040 then wordAt m.ident.toNat ((o - 0x20) / 4)
    else if 0x0080 ≤ o ∧ o < 0x00C0 then
      match s.lint.ring.getLast? with
      | some r => (nth r.words ((o - 0x80) / 4) 0).toNat
      | none => 0
    else if 0x1008 ≤ o ∧ o < 0x1018 then (m.tjDie.get 0 ((o - 0x1008) / 4)).toNat
    else if 0x1020 ≤ o ∧ o < 0x1040 then (m.hbmTemp.get 0 ((o - 0x1020) / 4)).toNat
    else if 0x1040 ≤ o ∧ o < 0x1050 then (m.vcore.get 0 ((o - 0x1040) / 4)).toNat
    else if 0x1100 ≤ o ∧ o < 0x1180 then (m.pace.get 0 ((o - 0x1100) / 4)).toNat
    else 0

/-- R531, R569: the MGT block. -/
def State.mgtWord (s : State) (o : Nat) : Nat := s.mirror.mgtNow o

/-! ### FAB (R414, R415) -/

/-- R415: FAB_PORT_STATE_p. -/
def State.portWord (s : State) (n : Nat) : Nat :=
  let p := s.port n
  p.state.toNat + b2n (s.portEnabled n) * 2 ^ 2 + b2n p.fecLock * 2 ^ 3 + b2n p.reversed * 2 ^ 4 + p.peer.toNat * 2 ^ 16

/-- R414: the FAB block. Without a table in effect its fields read zero. -/
def State.fabWord (s : State) (o : Nat) : Nat :=
  let f := s.fab
  let tab (g : RouteTable → Nat) : Nat := (f.rt.map g).getD 0
  match o with
  | 0x0000 => tab (·.myPhys.toNat) + b2n f.rt.isSome * 2 ^ 14 + f.lastCode.toNat * 2 ^ 16
  | 0x0004 => match s.ownNode with
    | some l => l + 2 ^ 31
    | none => 0
  | 0x0008 => tab (·.dims.toNat)
  | 0x000C => tab (·.brk.toNat)
  | 0x0010 | 0x0014 => half f.rtShadow.toNat o
  | 0x0020 => f.timeout.toNat
  | 0x0024 => f.discard.toNat
  | _ =>
    if 0x0100 ≤ o ∧ o < 0x01D0 then
      let n := (o - 0x100) / 16
      match o % 16 with
      | 0 => s.portWord n
      | 4 => (s.port n).retry.toNat
      | 8 => (s.port n).fec.toNat
      | _ => (s.port n).err.toNat
    else 0

/-! ### DIE and cluster configuration -/

/-- R40: CFG_DEVICE_ID. -/
def deviceId : Nat := 0x01010A40

/-- R39: CFG_ACTIVE_CORES. -/
def State.activeCores (s : State) : Nat := ((upto 256).filter fun c => (s.physOf c).isSome).length

/-- R215: the job whose generation table CFG_GEN_SEL shows: the first that runs (log 30). -/
def State.genJob (s : State) : Option Job := s.running.head?.bind s.job

/-- R215, R216: the generation view. -/
def State.genWord (s : State) (o : Nat) : Nat := match s.genJob with
  | none => 0
  | some j =>
    let n := j.gens.length
    match (j.gens.drop (fld s.cfg.genSel.toNat 0 12)).head? with
    | none => if o = 0x0290 then n * 2 ^ 16 else 0
    | some e => match o with
      | 0x0284 => e.gen0.toNat
      | 0x0288 => e.gen1.toNat
      | 0x028C => fld e.ref0 0 16 + fld e.ref1 0 16 * 2 ^ 16
      | _ => b2n e.cur + b2n e.writing * 2 + b2n e.ret0 * 2 ^ 2 + b2n e.ret1 * 2 ^ 3 + b2n e.held * 2 ^ 4 + n * 2 ^ 16

/-- R457: COL_BC shows the same job as the generation view (log 30). -/
def State.bcWord (s : State) : Nat := match s.genJob with
  | some j => j.bcCount.toNat + j.bcNeed * 2 ^ 16
  | none => 0

/-- R458: STATE of a channel: that of its oldest operation. -/
def Chan.state (c : Chan) : Nat := match c.ops.head? with
  | none => 0
  | some o => match o.state with
    | .waiting => 0
    | .armed => 1
    | .moving => 2
    | .failed => 3

/-- R451, R458: an operation is spilling: bytes of a stack at half rate stand in its spill region. -/
def State.spilling (s : State) (o : COp) : Bool :=
  (o.spill.any fun p => s.onHot (CDesc.dst o.desc + p.1)) || (o.ahead.any fun p => s.hotRange p.1 p.2.length)
    || (decide (o.waits ≠ 0) && decide (s.ms.hbm.toNat % 2 ^ 32 &&& 0x22222222 ≠ 0))

/-- R457, R458: a register of a channel. -/
def State.chanWord (s : State) (c : Chan) (o : Nat) : Nat :=
  match o with
  | 0x00 =>
    let o := c.ops.head?
    c.state + c.ops.length * 2 ^ 4 + b2n ((o.map s.spilling).getD false) * 2 ^ 9 + b2n ((o.map (·.handed)).getD false) * 2 ^ 10
      + c.lastCode.toNat * 2 ^ 16
  | 0x04 => c.seq.toNat
  | 0x08 => (c.ops.head?.map (·.seq.toNat)).getD c.seq.toNat
  | 0x10 | 0x14 => half c.busyNs.toNat (o - 0x10)
  | 0x18 | 0x1C => half c.waitNs.toNat (o - 0x18)
  | _ => 0

/-- R602, R603: CFG_FT_STATUS. -/
def Ft.status (f : Ft) : Nat := b2n f.folded + f.cause.toNat * 2 + f.stale.toNat * 2 ^ 8 + f.lastCode.toNat * 2 ^ 16

/-- R41: CFG_PACE. -/
def State.paceWord (s : State) : Nat := s.cfg.paceNow.toNat + s.cfg.paceMin.toNat * 2 ^ 16

/-- The DIE block, as the registers stand. -/
def State.dieWord (s : State) (o : Nat) : Nat :=
  match o with
  | 0x0000 => deviceId
  | 0x0004 => s.activeCores
  | 0x0008 => s.paceWord
  | 0x0200 => s.cfg.numCtrl.toNat
  | 0x0204 => s.cfg.crsOff.toNat
  | 0x0280 => s.cfg.genSel.toNat
  | 0x0284 | 0x0288 | 0x028C | 0x0290 => s.genWord o
  | 0x0300 => s.cfg.gangSel.toNat
  | 0x1040 => s.ms.rinse.toNat
  | 0x1044 => s.ms.rinsePass.toNat
  | 0x1048 => s.ms.rinseCor.toNat
  | 0x104C => s.ms.rinseUnc.toNat
  | 0x1050 | 0x1054 => half s.ms.faultAddr.toNat o
  | 0x1058 => s.ms.faultInfo.toNat
  | 0x1060 => s.ms.hbm.toNat
  | 0x2000 => s.cfg.wdog.toNat
  | 0x2004 => s.cfg.therm.toNat
  | 0x2008 => s.bcWord
  | 0x3000 => s.ft.status
  | 0x3004 => s.ft.reread.toNat
  | 0x3008 => s.ft.darn.toNat
  | 0x300C => s.ft.fatalLoc.toNat
  | 0x3010 => s.ft.noteSeq.toNat
  | 0x3014 => s.ft.poison.toNat
  | _ =>
    if 0x0100 ≤ o ∧ o < 0x0180 then s.mapReg ((o - 0x100) / 4)
    else if 0x0400 ≤ o ∧ o < 0x0700 then s.gangWord (0x1000 + (o - 0x400))
    else if 0x1000 ≤ o ∧ o < 0x1010 then (s.ms.cupb.get 0 ((o - 0x1000) / 4)).toNat
    else if 0x1020 ≤ o ∧ o < 0x1040 then (s.ms.quota.get quotaReset ((o - 0x1020) / 4)).toNat
    else if 0x2100 ≤ o ∧ o < 0x2300 then s.chanWord (s.chan ((o - 0x2100) / 32)) (o % 32)
    else if 0x3020 ≤ o ∧ o < 0x30A0 then (s.ft.failed.get 0 ((o - 0x3020) / 4)).toNat
    else if 0x3100 ≤ o ∧ o < 0x3500 then (nth s.ft.foldKey ((o - 0x3100) / 4) 0).toNat
    else 0

/-! ### BAR0 (R462) -/

/-- The blocks of BAR0. -/
inductive Block where
  | hif
  | mbx
  | mgt
  | fab
  | die
  | window
  deriving DecidableEq, Repr

/-- R462: the block of a BAR0 offset, and the offset in it; a debug window's is that of logical core `o / 0x10000`. -/
def blockOf (a : Nat) : Block × Nat :=
  if a < 0x100000 then (.hif, a)
  else if a < 0x200000 then (.mbx, a - 0x100000)
  else if a < 0x400000 then (.mgt, a - 0x200000)
  else if a < 0x800000 then (.fab, a - 0x400000)
  else if a < 0x1000000 then (.die, a - 0x800000)
  else (.window, a - 0x1000000)

/-- R47, R49: registers of the core domain, which the endpoint answers from its mirror and writes through its queue. -/
def coreHeld : Block → Bool
  | .die | .window => true
  | _ => false

/-- The word of a register as it stands, as a party reads it. -/
def State.liveWord (s : State) (p : Party) (a : Nat) : Nat :=
  match blockOf a with
  | (.hif, o) => s.hifWord p o
  | (.mbx, o) => s.mbxWord 0 o
  | (.mgt, o) => s.mgtWord o
  | (.fab, o) => s.fabWord o
  | (.die, o) => s.dieWord o
  | (.window, o) => if o < 0x1000000 then s.windowWord (o / 0x10000) (o % 0x10000) else 0

/-- The word of a register at reset: what its mirror holds before any update. -/
def resetWord (a : Nat) : Nat := State.reset.liveWord .host a

/-- The core domain runs and updates the mirror (R49). -/
def State.coreUp (s : State) : Bool := s.seq.coreRun && !s.ft.folded

/-- R49, R602: what the mirror holds of a register of the core domain: the value of its last update; while the core domain is
off Viloth writes the registers of R602. -/
def State.mirrored (s : State) (a : Nat) : Nat :=
  if !s.coreUp && decide (dieBlock + 0x3000 ≤ a) && decide (a < dieBlock + 0x3500) then s.liveWord .host a
  else (s.hif.mirror.get (BitVec.ofNat 64 (resetWord a)) a).toNat

/-- R599: DIE offsets that are served in Fold. -/
def servedInFold (o : Nat) : Bool :=
  o == 0x0000 || (decide (0x0100 ≤ o) && decide (o < 0x0180)) || (decide (0x1000 ≤ o) && decide (o < 0x1010)) || o == 0x1060
  || (decide (0x3000 ≤ o) && decide (o < 0x3500))

/-- R465, R599: a block that BAR0 reads reach. -/
def State.readsBlock (s : State) (b : Block) (o : Nat) : Bool :=
  match b with
  | .hif => true
  | .mbx | .mgt | .fab => s.hif.ready || s.ft.folded
  | .die => if s.ft.folded then servedInFold o else s.hif.ready
  | .window => s.hif.ready && !s.ft.folded

end Sys2Proof.Machine
end

