-- ==== Sys2Proof/Machine/Mbx.lean ====
section
/-! DEFINITION. The mailboxes: completing and taking a word, the data window, and the events that follow (R488 to R492). -/

namespace Sys2Proof.Machine

/-- R488: the sender and the receiver of a channel. -/
def mbxSender (n : Nat) : Party := if n < 4 then .host else if n < 8 then .viloth else if n < 12 then .secureHost else .thimble
def mbxReceiver (n : Nat) : Party := if n < 4 then .viloth else if n < 8 then .host else if n < 12 then .thimble else .secureHost

/-- R498: the enable bit of a channel. -/
def State.mbxEnabled (s : State) (n : Nat) : Bool :=
  if n < 8 then bitOf s.mbx.irqEn.toNat n else bitOf s.mbx.sirqEn.toNat (n - 8)

/-- R492: the vector that tells the host of a word for it, or of a word of it that was taken. -/
def State.arriveVec (s : State) (n : Nat) : Nat := if n < 8 then fld s.hif.irq.toNat 0 6 else s.mbx.sirqVec.toNat
def State.takenVec (s : State) (n : Nat) : Nat := if n < 8 then fld s.hif.irq.toNat 24 6 else s.mbx.sirqVec.toNat

/-- R492: the wake event of a channel's receiver. -/
def State.wake (s : State) (n : Nat) : State := match mbxReceiver n with
  | .viloth => { s with mbx := { s.mbx with wakeV := true } }
  | .thimble => { s with mbx := { s.mbx with wakeT := true }, mgt := { s.mgt with thimble := true } }
  | _ =>
    if s.mbxEnabled n then s.sendVec (s.arriveVec n)
    else if s.hif.d3hot then { s with hif := { s.hif with pmeSent := s.hif.pmeSent + 1 } }
    else s

/-- R489, R491: no room: OVR, and MBX_OVERRUN. -/
def State.mbxOverrun (s : State) (n : Nat) : State :=
  (s.setMbox n { s.mbox n with ovr := true }).raise (.hif n) Code.mbxOverrun 0 []

/-- R489: a write that covers byte 7 completes the word; the held bytes are used up. -/
def State.mbxComplete (s : State) (n : Nat) (v : DWord) : State :=
  let c := s.mbox n
  if c.full then s.mbxOverrun n
  else
    let s := s.setMbox n { c with word := v, full := true, low := 0 }
    { s with mbx := { s.mbx with order := s.mbx.order ++ [Fin.ofNat 16 n] } }.wake n

/-- R489: a sender's write. -/
def State.mbxSend (s : State) (n : Nat) (b : MbxBytes) (v : DWord) : State :=
  let c := s.mbox n
  match b with
  | .low => s.setMbox n { c with low := BitVec.ofNat 32 v.toNat }
  | .high => s.mbxComplete n (BitVec.ofNat 64 (c.low.toNat + fld v.toNat 32 32 * 2 ^ 32))
  | .all => s.mbxComplete n v

/-- R491: a sender adds a word to the window. -/
def State.mbxPush (s : State) (n : Nat) (w : Word) : State :=
  let c := s.mbox n
  if c.win.length < mbxWindow then s.setMbox n { c with win := c.win ++ [w] } else s.mbxOverrun n

/-- R492: with no word left for it, a receiver's wake event is over. -/
def State.settleWake (s : State) : State :=
  { s with mbx := { s.mbx with
    wakeV := s.mbx.wakeV && ([0, 1, 2, 3].any fun n => (s.mbox n).full)
    wakeT := s.mbx.wakeT && ([8, 9, 10, 11].any fun n => (s.mbox n).full) } }

/-- R490, R492: FULL clears, and the host learns that its word was taken. -/
def State.mbxClear (s : State) (n : Nat) : State :=
  let s := (s.setMbox n { s.mbox n with word := 0, full := false }).settleWake
  let s := { s with mbx := { s.mbx with order := s.mbx.order.filter fun k => decide (k.val ≠ n) } }
  if hostSends n && s.mbxEnabled n then s.sendVec (s.takenVec n) else s

/-- R490: the bytes that a receiver's read returns, and the state after it. -/
def State.mbxTake (s : State) (n : Nat) (b : MbxBytes) : List Byte × State :=
  let c := s.mbox n
  let w := if c.full then c.word.toNat else 0
  match b with
  | .low => (leBytes 4 w, s)
  | .high => (leBytes 4 (fld w 32 32), if c.full then s.mbxClear n else s)
  | .all => (leBytes 8 w, if c.full then s.mbxClear n else s)

/-- R491: a receiver takes the oldest word of the window. -/
def State.mbxPop (s : State) (n : Nat) : Word × State :=
  let c := s.mbox n
  match c.win with
  | w :: r => (w, s.setMbox n { c with win := r })
  | [] => (0, (s.setMbox n { c with undr := true }).raise (.hif n) Code.mbxUnderrun 0 [])

/-- R461: the bit of AER's Uncorrectable Error Status that a completion status sets (log 11). -/
def aerBit : ReplyStatus → Word
  | .unsupported => 0x00100000
  | .aborted => 0x00008000
  | _ => 0

/-- The completion of a read that this model shows to its reader (log 10). -/
def State.answer (s : State) (st : ReplyStatus) (bs : List Byte) : State :=
  { s with replySt := st, reply := bs, hif := { s.hif with aer := s.hif.aer ||| aerBit st } }

end Sys2Proof.Machine
end

