-- ==== Sys2Proof/Machine/Buses.lean ====
section
/-! DEFINITION. The SMBus target and the JTAG port (R507, R526, R560). -/

namespace Sys2Proof.Machine

/-! ### SMBus (R560) -/

/-- R560: the target answers a read while it has VAUX and its clock. -/
def State.smbRead (s : State) (bs : List Byte) : State := if s.vilothRuns then s.answer .ok bs else s.answer .nack []

/-- R560: command 0x00: MGT_STATUS[15:0]. -/
def execSmbReadStatus (s : State) : Out := run .smbReadStatus s fun s => s.smbRead (leBytes 2 s.mgtStatus)

/-- R560: command 0x01: the highest Tj. -/
def execSmbReadTj (s : State) : Out := run .smbReadTj s fun s => s.smbRead (leBytes 2 (fld s.mgt.tjMax.toNat 0 16))

/-- R560: command 0x02: package power. -/
def execSmbReadPower (s : State) : Out := run .smbReadPower s fun s => s.smbRead (leBytes 2 (fld s.mgt.power.toNat 0 16))

/-- R560: command 0x03: the hottest HBM stack. -/
def execSmbReadHbmTemp (s : State) : Out :=
  run .smbReadHbmTemp s fun s =>
    s.smbRead (leBytes 1 ((upto 8).foldl (fun m k => Nat.max m (s.mgt.hbmTemp.get 0 k).toNat) 0))

/-- R560: command 0x04: the setpoint. -/
def execSmbReadSetpoint (s : State) : Out := run .smbReadSetpoint s fun s => s.smbRead (leBytes 2 (fld s.mgt.setpoint.toNat 0 16))

/-- R560: command 0x05: MGT_STATUS.LAST_CODE. -/
def execSmbReadLastCode (s : State) : Out := run .smbReadLastCode s fun s => s.smbRead (leBytes 2 s.mgt.lastCode.toNat)

/-- R560: command 0x10: IDENTITY. -/
def execSmbReadIdentity (s : State) : Out := run .smbReadIdentity s fun s => s.smbRead (leBytes 32 s.mgt.ident.toNat)

/-- R560: every write and every other command code is not acknowledged. -/
def execSmbUnsupported (write : Bool) (code : Byte) (s : State) : Out :=
  run (.smbUnsupported write code) s fun s => s.answer .nack []

/-! ### JTAG (R526) -/

/-- R526: IDCODE: version 1, part 0x5407, manufacturer code 0x2F7, and a 1 in bit 0. -/
def idcode : Nat := 0x154075EF

/-- The bits of a number, lowest first. -/
def bitsOf (n v : Nat) : List Bool := (upto n).map fun k => bitOf v k

/-- R526: an instruction is loaded while the port has VAUX. -/
def State.jtagLoad (s : State) (j : Jtag) : State := if s.pins.vaux then { s with jtag := j } else s

/-- R526: BYPASS: one bit between TDI and TDO, and the lands are the device's. -/
def execBypass (s : State) : Out :=
  run .bypass s fun s => s.jtagLoad { s.jtag with instr := .bypass, dr := [false], drives := false, floats := false }

/-- R526: IDCODE. -/
def execIdcode (s : State) : Out :=
  run .idcode s fun s =>
    if s.pins.vaux then
      (s.jtagLoad { s.jtag with instr := .idcode, dr := bitsOf 32 idcode, drives := false, floats := false }).answer .ok (leBytes 4 idcode)
    else s

/-- R526: SAMPLE/PRELOAD: the lands' levels are captured, and the latches take the bits shifted in. -/
def execSamplePreload (sampled preload : List Bool) (s : State) : Out :=
  run (.samplePreload sampled preload) s fun s =>
    s.jtagLoad { s.jtag with instr := .samplePreload, dr := sampled, latch := preload, drives := false, floats := false }

/-- Levels of lands that no command gives: free values (log 6). -/
def State.freeBits (s : State) : Nat → List Bool × State
  | 0 => ([], s)
  | n + 1 =>
    let (v, s) := s.fresh
    let (l, s) := s.freeBits n
    (bitOf v.toNat 0 :: l, s)

/-- R526: EXTEST: the latches drive the lands, and the lands' levels are captured. Every land that has a cell is a digital one,
whose supply is VAUX (R522, R523). -/
def execExtest (s : State) : Out :=
  run .extest s fun s =>
    if !s.pins.vaux then s
    else
      let (l, s) := s.freeBits s.jtag.latch.length
      s.jtagLoad { s.jtag with instr := .extest, dr := l, drives := true, floats := false }

/-- R526: CLAMP: the latches drive the lands, and the bypass bit stands between TDI and TDO. -/
def execClamp (s : State) : Out :=
  run .clamp s fun s => s.jtagLoad { s.jtag with instr := .clamp, dr := [false], drives := true, floats := false }

/-- R526: HIGHZ: every land floats. -/
def execHighz (s : State) : Out :=
  run .highz s fun s => s.jtagLoad { s.jtag with instr := .highz, dr := [false], drives := false, floats := true }

end Sys2Proof.Machine
end

