-- ==== Sys2Proof/Machine/RegWrite.lean ====
section
/-! DEFINITION. Register writes: the group of each register, the judging of a write, and what each writable register does with
one (R13 to R18, R263, R412, R468, R477 to R487, R553, R607). -/

namespace Sys2Proof.Machine

/-! ### Descriptions of the writable registers -/

/-- R15: the access codes of a writable register. -/
inductive Access where
  | rw
  | w1c
  | wo
  | sh
  deriving DecidableEq, Repr

/-- A writable register: its group, its access code, the block and LOC of its codes (R607), whether that block keeps a
LAST_CODE for the register, and whether it is 8 bytes wide. -/
structure RegDesc where
  group : Nat
  acc   : Access
  src   : Src
  last  : Bool := true
  eight : Bool := false
  deriving DecidableEq, Repr

/-- R495: the writable registers of HIF that belong to a group. -/
def hifDesc (o : Nat) : Option RegDesc :=
  if o = 0x0000 then some { group := 0, acc := .w1c, src := .hif 0 }
  else if o = 0x0004 then some { group := 0, acc := .rw, src := .hif 0 }
  else if o = 0x0008 then some { group := 0, acc := .wo, src := .hif 0 }
  else if 0x0100 ≤ o ∧ o < 0x0200 then
    let k := (o - 0x100) / 32
    match o % 32 with
    | 0x00 | 0x04 => some { group := k + 1, acc := .sh, src := .hif k, eight := true }
    | 0x08 => some { group := k + 1, acc := .sh, src := .hif k }
    | 0x0C => some { group := k + 1, acc := .wo, src := .hif k }
    | 0x10 => some { group := k + 1, acc := .rw, src := .hif k }
    | 0x1C => some { group := 0, acc := .rw, src := .hif k }
    | _ => none
  else none

/-- R498: the writable registers of a page of MBX that belong to a group. -/
def mbxDesc (secure : Bool) (o : Nat) : Option RegDesc :=
  let g := if secure then 16 else 0
  match o with
  | 0x0100 => some { group := g, acc := .w1c, src := .hif 0 }
  | 0x0104 => some { group := g, acc := .rw, src := .hif 0 }
  | 0x0108 => if secure then some { group := g, acc := .rw, src := .hif 0 } else none
  | _ => none

/-- R569: the writable registers of MGT. -/
def mgtDesc (o : Nat) : Option RegDesc := match o with
  | 0x0040 | 0x0044 => some { group := 15, acc := .sh, src := .viloth }
  | 0x0048 => some { group := 15, acc := .wo, src := .viloth }
  | 0x004C => some { group := 17, acc := .rw, src := .viloth }
  | _ => none

/-- R414: the writable registers of FAB. -/
def fabDesc (o : Nat) : Option RegDesc := match o with
  | 0x0010 | 0x0014 => some { group := 11, acc := .sh, src := .fab 0xFF, eight := true }
  | 0x0018 | 0x001C => some { group := 11, acc := .wo, src := .fab 0xFF }
  | 0x0020 => some { group := 11, acc := .rw, src := .fab 0xFF }
  | _ => none

/-- R264: the writable Bobbin registers: width 8 where the flag says so. -/
def bobWritable (x : Nat) : Option Bool :=
  if x = 0x1000 ∨ x = 0x1008 ∨ (0x1018 ≤ x ∧ x < 0x1028) then some false
  else if 0x1100 ≤ x ∧ x < 0x1200 then some (decide (8 ≤ x % 16))
  else if 0x1200 ≤ x ∧ x < 0x1300 then some true
  else none

/-- R39 to R42, R185, R215, R267, R380, R457: the writable registers of the DIE block. -/
def State.dieDesc (s : State) (o : Nat) : Option RegDesc :=
  if o = 0x0200 ∨ o = 0x0204 ∨ o = 0x0280 ∨ o = 0x0300 then some { group := 9, acc := .rw, src := .sched 0 }
  else if 0x0400 ≤ o ∧ o < 0x0700 then
    (bobWritable (0x1000 + (o - 0x400))).bind fun w => s.selGang.map fun i => { group := 14, acc := .rw, src := .bob i, eight := w }
  else if 0x1020 ≤ o ∧ o < 0x1040 then some { group := 10, acc := .rw, src := .mem ((o - 0x1020) / 4) }
  else if o = 0x1040 then some { group := 10, acc := .rw, src := .mem 0 }
  else if o = 0x2000 then some { group := 12, acc := .rw, src := .coll 0, last := false }
  else if o = 0x2004 then some { group := 13, acc := .rw, src := .coll 0, last := false }
  else if 0x2100 ≤ o ∧ o < 0x2300 ∧ 0x10 ≤ o % 32 then
    some { group := 12, acc := .rw, src := .coll ((o - 0x2100) / 32), eight := true }
  else none

/-- R36, R144, R264, R311: the writable registers of the debug window of logical core c. -/
def State.windowDesc (s : State) (c x : Nat) : Option RegDesc := (s.physOf c).bind fun r =>
  if 0x2100 ≤ x ∧ x < 0x2700 then some { group := 14, acc := .rw, src := .mng r, eight := true }
  else if x = 0x3038 then some { group := 14, acc := .rw, src := .vec r }
  else (bobWritable x).map fun w => { group := 14, acc := .rw, src := .bob (.core r), eight := w }

/-- The description of a BAR0 register; none where nothing is written. -/
def State.regDesc (s : State) (a : Nat) : Option RegDesc :=
  match blockOf a with
  | (.hif, o) => hifDesc o
  | (.mbx, o) => mbxDesc false o
  | (.mgt, o) => mgtDesc o
  | (.fab, o) => fabDesc o
  | (.die, o) => s.dieDesc o
  | (.window, o) => if o < 0x1000000 then s.windowDesc (o / 0x10000) (o % 0x10000) else none

/-- R556: the block offset that ARG_0 names. -/
def argOff (a : Nat) : Nat := match blockOf a with
  | (.window, o) => o % 0x10000
  | (_, o) => o

/-! ### Reserved encodings (R18) -/

/-- R53, R265: values of a Bobbin register that carry a reserved encoding. -/
def bobReserved (x v : Nat) : Bool := x == 0x1008 && (fld v 0 10 == 0 || decide (512 < fld v 0 10))

/-- R381: the four shares of MEM_QUOTA_s add up to more than 64. -/
def quotaReserved (v : Nat) : Bool := decide (64 < fld v 0 6 + fld v 8 6 + fld v 16 6 + fld v 24 6)

/-- R459: COL_THERM. -/
def thermReserved (v : Nat) : Bool := decide (fld v 8 8 ≤ fld v 0 8) || fld v 16 4 == 0

/-- R186: CFG_NUM_CTRL. -/
def numReserved (v : Nat) : Bool := let c := fld v 4 5; c != 0 && (decide (c < 6) || decide (16 < c))

/-- R313: VEC_RSEL. -/
def rselReserved (v : Nat) : Bool := fld v 0 2 == 3 || (fld v 0 2 == 2 && decide (8 ≤ fld v 4 5))

/-- R18: a value written to a BAR0 register carries a reserved encoding. A bit that the write would not set is not judged: of
HIF_STATUS a reserved RESET_CAUSE, which is RO (R15), does not keep the W1C bit from being cleared (DEDUCED, log 72). -/
def regReserved (a v : Nat) : Bool :=
  match blockOf a with
  | (.fab, 0x0020) => fld v 0 16 == 0
  | (.die, o) =>
    if o = 0x0200 then numReserved v
    else if 0x0400 ≤ o ∧ o < 0x0700 then bobReserved (0x1000 + (o - 0x400)) v
    else if 0x1020 ≤ o ∧ o < 0x1040 then quotaReserved v
    else if o = 0x1040 then fld v 8 8 == 0 || fld v 16 8 == 0
    else if o = 0x2000 then fld v 0 16 == 0
    else if o = 0x2004 then thermReserved v
    else false
  | (.window, o) =>
    let x := o % 0x10000
    if x = 0x3038 then rselReserved v else bobReserved x v
  | _ => false

/-! ### Groups (R479 to R482) -/

/-- R482: a party's last outcome in a group. -/
def State.setStatus (s : State) (g : Nat) (p : Party) (c : BitVec 16) : State :=
  { s with hif := { s.hif with status := s.hif.status.set 0 (4 * g + rankOf p) c } }

/-- R482, R554, R556, R607: a write, claim, release or commit to a group is answered with a code, which is raised. BAD_ENCODING
and SUPERSEDED carry the write, FAB_BUSY no port (log 32), and the other codes no argument. -/
def State.answerGroup (s : State) (d : RegDesc) (p : Party) (a v : Nat) (c : BitVec 16) : State :=
  let args := if c = Code.badEncoding ∨ c = Code.superseded then [a, fld v 0 32, fld v 32 32, d.group, rankOf p + 1]
    else if c = Code.fabBusy then [0xFF] else []
  let s := s.setStatus d.group p c
  if d.last then s.raise d.src c 0 args else s.log d.src c 0 args

/-- The description of a claim register (R607). -/
def claimDesc (g : Nat) : RegDesc := { group := g, acc := .wo, src := .hif 0 }

/-- R480: a claimant that may own the group: it outranks the owner or is the owner, and groups 16 and 17 take no claim of a
party of rank 3 or 4. -/
def State.mayClaim (s : State) (p : Party) (g : Nat) : Bool :=
  decide (rankOf p ≤ (s.owner g).toNat) && !(decide (16 ≤ g) && decide (2 ≤ rankOf p))

/-- R480: a write to HIF_GRP_CLAIM_g. -/
def State.claimWrite (s : State) (p : Party) (g a v : Nat) : State :=
  if bitOf v 0 then
    if s.mayClaim p g then
      { s with hif := { s.hif with owner := s.hif.owner.set (resetOwner g) g (BitVec.ofNat 2 (rankOf p)) } }.setStatus g p 0
    else s.answerGroup (claimDesc g) p a v Code.superseded
  else if (s.owner g).toNat = rankOf p then
    { s with hif := { s.hif with owner := s.hif.owner.set (resetOwner g) g (resetOwner g) } }.setStatus g p 0
  else s.answerGroup (claimDesc g) p a v Code.superseded

/-! ### What a write does -/

/-- What a write comes to: applied, with the code of the group status word, or refused with a code that is raised. -/
abbrev Wrote := Except (BitVec 16) State

/-- R468: a doorbell. -/
def State.doorbell (s : State) (k v : Nat) : Wrote :=
  let r := s.ring k
  let n := r.entries
  let ahead := (v + 65536 - r.tail.toNat) % 65536
  if n = 0 then .error Code.hifDoorbellBad
  else if ahead = 0 then .ok s
  else if ahead ≤ (r.head.toNat + n + 65536 - r.tail.toNat) % 65536 then .ok (s.setRing k { r with tail := BitVec.ofNat 16 v })
  else .error Code.hifDoorbellBad

/-- R487: a job of the ring lies in phases 3 to 8 of R64. -/
def State.ringBusy (s : State) (k : Nat) : Bool := s.running.any fun n => match s.job n with
  | some j => j.ring.val == k
  | none => false

/-- R485, R487: a commit of RING_k. -/
def State.commitRing (s : State) (k : Nat) : Wrote :=
  let r := s.ring k
  if 12 < fld r.sizeSh.toNat 0 4 then .error Code.badEncoding
  else if r.head ≠ r.tail ∨ s.ringBusy k then .error Code.hifRingBusy
  else .ok (s.setRing k { r with base := r.baseSh, size := r.sizeSh, head := 0, tail := 0, done := 0 })

/-- R412: a commit of the route-table group. An earlier one that the island has not applied is applied first (R486). -/
def State.commitRoute (s : State) : Wrote :=
  if s.running.isEmpty then
    let s := s.applyTable
    .ok { s with fab := { s.fab with rtAddr := s.fab.rtShadow, rtWait := some s.fab.rtShadow } }
  else .error Code.fabBusy

/-- R553: a commit of POLICY. -/
def State.commitPolicy (s : State) : Wrote :=
  let cap := s.mgt.pol.capSh.toNat
  let v := s.mgt.pol.vsetSh.toNat
  if cap < 600 ∨ 2400 < cap ∨ v < 600 ∨ 850 < v then .error Code.badEncoding
  else if s.capMax < cap then .error Code.mgtPolicyRefused
  else .ok { s with mgt := { s.mgt with pol := { s.mgt.pol with cap := cap, vset := v } } }

/-- R395, R521: RETRAIN bits: each named port that has its clock trains again. -/
def State.retrainPorts (s : State) (m : Nat) : State :=
  forEach (fun (n : Fin 13) s => if bitOf m n && s.portClock n then s.retrain n else s) allPorts s

/-- R263: RESUME of a stream. -/
def State.resume (s : State) (i : IfaceId) (st : Strm) : State :=
  if (s.ifc i).halted then s else s.updStrm i st fun t => { t with broken := false }

/-- R257: RELEASE: the job that holds the interface, if it has ended, lets its cores go. -/
def State.releaseBy (s : State) (i : IfaceId) : State := match s.jobNo i with
  | some n => s.releaseJob n
  | none => s

/-- R265: a write to BOB_CTRL. -/
def State.writeBobCtrl (s : State) (i : IfaceId) (v : Nat) : State :=
  let s := s.updIfc i fun x => { x with bob := { x.bob with brkEn := BitVec.ofNat 4 v } }
  let s := if bitOf v 4 then s.resume i .acc else s
  let s := if bitOf v 5 then s.resume i .exe else s
  if bitOf v 6 then s.releaseBy i else s

/-- R264: a write to another Bobbin register; `len` is 4 or 8 bytes. -/
def Bob.write (b : Bob) (x len v : Nat) : Bob :=
  let w := BitVec.ofNat 32 v
  match x with
  | 0x1008 => { b with runahead := BitVec.ofNat 10 v }
  | 0x1018 => { b with brkIdxA := w }
  | 0x101C => { b with brkIdxX := w }
  | 0x1020 => { b with brkTagA := w }
  | 0x1024 => { b with brkTagX := w }
  | _ =>
    let n := (x - 0x1100) / 16
    if x < 0x1200 then
      let t := b.tt.get {} n
      let t := match x % 16 with
        | 0 => { t with mtch := w }
        | 4 => { t with count := w }
        | _ => { t with time := BitVec.ofNat 64 (putHalf t.time.toNat x len v) }
      { b with tt := b.tt.set {} n t }
    else
      let n := (x - 0x1200) / 16
      if x % 16 < 8 then { b with stBusy := b.stBusy.upd 0 n fun o => BitVec.ofNat 64 (putHalf o.toNat x len v) }
      else { b with stWait := b.stWait.upd 0 n fun o => BitVec.ofNat 64 (putHalf o.toNat x len v) }

/-- A write to a Bobbin register of an interface. -/
def State.writeBob (s : State) (i : IfaceId) (x len v : Nat) : State :=
  if x = 0x1000 then s.writeBobCtrl i v else s.updIfc i fun k => { k with bob := k.bob.write x len v }

/-- R495, R496: a write to HIF. -/
def State.writeHif (s : State) (o len v : Nat) : Wrote :=
  let h := s.hif
  if o = 0x0000 then .ok { s with hif := { h with seen := h.seen && !bitOf v 4 } }
  else if o = 0x0004 then .ok { s with hif := { h with irq := BitVec.ofNat 32 (v &&& 0x3F013F3F) } }
  else if o = 0x0008 then .ok (if bitOf v 0 then s.warmReset causeHif else s)
  else
    let k := (o - 0x100) / 32
    let r := s.ring k
    match o % 32 with
    | 0x00 | 0x04 =>
      let b := putHalf r.baseSh.toNat o len v
      .ok (s.setRing k { r with baseSh := BitVec.ofNat 64 (b - b % 4096) })
    | 0x08 => .ok (s.setRing k { r with sizeSh := BitVec.ofNat 32 (fld v 0 4) })
    | 0x0C => s.commitRing k
    | 0x10 => s.doorbell k (fld v 0 16)
    | _ => .ok (s.setRing k { r with vec := BitVec.ofNat 32 (v &&& 0x13F) })

/-- R499: a 1 clears OVR or UNDR of a channel. -/
def State.clearFlags (s : State) (first v : Nat) : State :=
  forEach (fun k s =>
    let c := s.mbox (first + k)
    s.setMbox (first + k) { c with ovr := c.ovr && !bitOf v (8 + k), undr := c.undr && !bitOf v (16 + k) }) (upto 8) s

/-- R498: a write to a page of MBX. -/
def State.writeMbx (s : State) (secure : Bool) (o v : Nat) : State :=
  match o with
  | 0x0100 => s.clearFlags (if secure then 8 else 0) v
  | 0x0104 =>
    if secure then { s with mbx := { s.mbx with sirqEn := BitVec.ofNat 8 v } } else { s with mbx := { s.mbx with irqEn := BitVec.ofNat 8 v } }
  | _ => { s with mbx := { s.mbx with sirqVec := BitVec.ofNat 6 v } }

/-- R569: a write to MGT. -/
def State.writeMgt (s : State) (o v : Nat) : Wrote :=
  let m := s.mgt
  match o with
  | 0x0040 => .ok { s with mgt := { m with pol := { m.pol with capSh := BitVec.ofNat 32 (fld v 0 16) } } }
  | 0x0044 => .ok { s with mgt := { m with pol := { m.pol with vsetSh := BitVec.ofNat 32 (fld v 0 16) } } }
  | 0x0048 => s.commitPolicy
  | _ => .ok { s with mgt := { m with tapOpen := bitOf v 0 } }

/-- R414: a write to FAB. -/
def State.writeFab (s : State) (o len v : Nat) : Wrote :=
  let f := s.fab
  match o with
  | 0x0018 => s.commitRoute
  | 0x001C => .ok (s.retrainPorts (fld v 0 13))
  | 0x0020 => .ok { s with fab := { f with timeout := BitVec.ofNat 32 (fld v 0 16) } }
  | _ =>
    let b := putHalf f.rtShadow.toNat o len v
    .ok { s with fab := { f with rtShadow := BitVec.ofNat 64 (b - b % 64) } }

/-- R457: a write to a channel's timer. -/
def Chan.write (c : Chan) (o len v : Nat) : Chan :=
  if o % 32 < 0x18 then { c with busyNs := BitVec.ofNat 64 (putHalf c.busyNs.toNat o len v) }
  else { c with waitNs := BitVec.ofNat 64 (putHalf c.waitNs.toNat o len v) }

/-- A write to the DIE block. -/
def State.writeDie (s : State) (o len v : Nat) : State :=
  let c := s.cfg
  let w (k : Nat) : Word := BitVec.ofNat 32 (fld v 0 k)
  if o = 0x0200 then
    { s with cfg := { c with numCtrl := BitVec.ofNat 32 (c.numCtrl.toNat % 2 + (v &&& 0x1F2)) } }
  else if o = 0x0204 then { s with cfg := { c with crsOff := w 16 } }
  else if o = 0x0280 then { s with cfg := { c with genSel := w 12 } }
  else if o = 0x0300 then { s with cfg := { c with gangSel := w 12 } }
  else if o < 0x0700 then match s.selGang with
    | some i => s.writeBob i (0x1000 + (o - 0x400)) len v
    | none => s
  else if o < 0x1040 then
    { s with ms := { s.ms with quota := s.ms.quota.set quotaReset ((o - 0x1020) / 4) (BitVec.ofNat 32 (v &&& 0x3F3F3F3F)) } }
  else if o = 0x1040 then { s with ms := { s.ms with rinse := BitVec.ofNat 32 (v &&& 0x00FFFF01) } }
  else if o = 0x2000 then { s with cfg := { c with wdog := w 16 } }
  else if o = 0x2004 then { s with cfg := { c with therm := w 20 } }
  else s.updChan ((o - 0x2100) / 32) fun k => k.write (o - 0x2100) len v

/-- A write to the debug window of a core. -/
def State.writeWindow (s : State) (c x len v : Nat) : State := match s.physOf c with
  | none => s
  | some r =>
    if x < 0x2000 then s.writeBob (.core r) x len v
    else if x < 0x3000 then s.updCore r fun k => { k with mng := k.mng.writeReg x len v }
    else s.updCore r fun k => { k with vec := { k.vec with rsel := BitVec.ofNat 32 (v &&& 0x1F3) } }

/-- What an accepted write to a BAR0 register does. -/
def State.applyReg (s : State) (a len v : Nat) : Wrote :=
  match blockOf a with
  | (.hif, o) => s.writeHif o len v
  | (.mbx, o) => .ok (s.writeMbx false o v)
  | (.mgt, o) => s.writeMgt o v
  | (.fab, o) => s.writeFab o len v
  | (.die, o) => .ok (s.writeDie o len v)
  | (.window, o) => .ok (s.writeWindow (o / 0x10000) (o % 0x10000) len v)

/-- R18, R479, R482, R485: a write to a register of a group is judged, and applied or refused. -/
def State.judge (s : State) (d : RegDesc) (p : Party) (a v : Nat) (reserved : Bool) (f : State → Wrote) : State :=
  if (s.owner d.group).toNat ≠ rankOf p then s.answerGroup d p a v Code.superseded
  else if reserved && d.acc != .sh then s.answerGroup d p a v Code.badEncoding
  else match f (s.setStatus d.group p 0) with
    | .ok t => t
    | .error c => s.answerGroup d p a v c

/-- R464: the endpoint's own copy of a register that a host's write has just changed shows the write. -/
def State.showWrite (s : State) (a len : Nat) : State :=
  if !coreHeld (blockOf a).1 then s
  else
    let put (m : Tab DWord) (x : Nat) : Tab DWord := m.set (BitVec.ofNat 64 (resetWord x)) x (BitVec.ofNat 64 (s.liveWord .host x))
    let m := put s.hif.mirror a
    { s with hif := { s.hif with mirror := if 4 < len then put m (a + 4) else m } }

/-! ### The MSI-X table (R495) -/

/-- The MSI-X table: a vector that is pending goes out as its mask is cleared. Of Vector Control only the mask bit is not
reserved (R13, log 11). -/
def State.writeMsix (s : State) (o v : Nat) : State :=
  let k := (o - 0x1000) / 16
  let w := if o % 16 / 4 = 3 then v % 2 else v
  let e := setFld (s.hif.msixTab.get msixReset k).toNat (32 * (o % 16 / 4)) 32 w
  let s := { s with hif := { s.hif with msixTab := s.hif.msixTab.set msixReset k (BitVec.ofNat 128 e) } }
  if bitOf s.hif.msixPend.toNat k && !bitOf e 96 then
    { s with hif := { s.hif with msixPend := BitVec.ofNat 64 (setFld s.hif.msixPend.toNat k 1 0) } }.sendVec k
  else s

/-- R489, R491, R498: a write of one word to the word or window register of channel n. -/
def State.mbxWord1 (s : State) (p : Party) (n o v : Nat) : State :=
  if mbxSender n ≠ p then s
  else match o with
    | 0 => s.mbxSend n .low (BitVec.ofNat 64 v)
    | 4 => s.mbxSend n .high (BitVec.ofNat 64 (v * 2 ^ 32))
    | 8 => s.mbxPush n (BitVec.ofNat 32 v)
    | _ => s

/-- One write of `len` bytes at a BAR0 offset, by a party: a claim register, the MSI-X table (the host's alone), a mailbox channel,
or a register of a group; every other offset ignores it (R462). -/
def State.write1 (s : State) (p : Party) (a len v : Nat) : State :=
  if 0x0200 ≤ a ∧ a < 0x0320 then (if a % 16 = 4 then s.claimWrite p ((a - 0x200) / 16) a v else s)
  else if 0x1000 ≤ a ∧ a < 0x1400 then (if p = .host then s.writeMsix a v else s)
  else if 0x100000 ≤ a ∧ a < 0x100080 then s.mbxWord1 p ((a - 0x100000) / 16) (a % 16) v
  else match s.regDesc a with
    | none => s
    | some d => (s.judge d p (argOff a) v (regReserved a v) fun s => s.applyReg a len v).showWrite a len

/-- A BAR0 write: an 8-byte access is one write to an 8-byte register, and two to a pair of 4-byte ones. -/
def State.writeBar0 (s : State) (p : Party) (a : Nat) (wide : Bool) (v : Nat) : State :=
  if a % 4 ≠ 0 then s
  else if !wide then s.write1 p a 4 (fld v 0 32)
  else if a % 8 = 0 ∧ ((s.regDesc a).map (·.eight)).getD false = true then s.write1 p a 8 v
  else (s.write1 p a 4 (fld v 0 32)).write1 p (a + 4) 4 (fld v 32 32)

/-- R498: one word written to BAR4, by the secure host: its claim registers, or the registers of group 16. -/
def State.writeBar4 (s : State) (a v : Nat) : State :=
  if 0x0800 ≤ a ∧ a < 0x0920 then (if a % 16 = 4 then s.claimWrite .secureHost ((a - 0x800) / 16) a v else s)
  else if a < 0x80 then s.mbxWord1 .secureHost (8 + a / 16) (a % 16) v
  else match mbxDesc true a with
    | none => s
    | some d => s.judge d .secureHost a v false fun s => .ok (s.writeMbx true a v)

end Sys2Proof.Machine
end

