-- ==== Sys2Proof/Machine/HostIf.lean ====
section
/-! DEFINITION. The PCIe endpoint's commands: BAR2, the posted-write queue and the mirror, register writes and claims, reads that
clear, the mailboxes, IDE and the power state of the function (R41, R49, R50, R380, R414, R461 to R468, R477 to R492, R569, R600,
R602). -/

namespace Sys2Proof.Machine

/-- The link carries requests to the function: it is up, and the function is in D0 (R461, R492). -/
def State.reached (s : State) : Bool := s.hif.linkUp && !s.hif.d3hot

/-! ### BAR2 (R463, R465, R580, R600) -/

/-- A stack of the bytes from `a` that is FAILED. -/
def State.failedIn (s : State) (a n : Nat) : Option Nat :=
  [a / 2 ^ 36, (a + (n - 1)) / 2 ^ 36].find? fun st => s.stackFailed st

/-- R580, R600: a read through BAR2, in service or through the Fold bridge: a poisoned line or a FAILED stack aborts it. -/
def State.bar2Fetch (s : State) (a n : Nat) : State :=
  match s.failedIn a n with
  | some st => (s.raise (.mem st) Code.stackFailed 0 []).answer .aborted []
  | none => match s.poisonIn a n with
    | some x => (s.raise (.mem (x / 2 ^ 36)) Code.hbmUncorr 0 []).answer .aborted []
    | none => (if s.ft.folded then s else s.touchPlain clsBulk false a n).answer .ok (s.bytesAt a n)

/-- The part of a write that falls into one line: its first address and its bytes. -/
def linePiece (a : Nat) (data : List Byte) (line : Nat) : Nat × List Byte :=
  let lo := Nat.max a (256 * line)
  (lo, (data.drop (lo - a)).take (256 * (line + 1) - lo))

/-- R580, R581: one line of a write through BAR2: a FAILED stack takes none, and a poisoned line only a write of the whole line. -/
def State.bar2Line (s : State) (p : Nat × List Byte) : State :=
  let st := p.1 / 2 ^ 36
  if s.stackFailed st then s.raise (.mem st) Code.stackFailed 0 []
  else match s.poisonPart p.1 p.2.length with
    | some _ => s.raise (.mem st) Code.hbmUncorr 0 []
    | none => (s.touchPlain clsBulk true p.1 p.2.length).put p.1 p.2

/-- R463: a write through BAR2 is taken. -/
def State.bar2Put (s : State) (a : Nat) (data : List Byte) : State :=
  let lines := rangeFrom (a / 256) ((a + (data.length - 1)) / 256 + 1 - a / 256)
  forEach (fun line s => s.bar2Line (linePiece a data line)) lines s

/-! ### Register writes (R49, R50, R464, R465, R599) -/

/-- R465, R599: a block that BAR0 writes reach. -/
def State.writesBlock (s : State) (b : Block) : Bool := match b with
  | .hif | .mbx => true
  | .mgt | .fab => s.hif.ready || s.ft.folded
  | .die | .window => s.hif.ready && !s.ft.folded

/-- R50, R464: a host's BAR0 write: one to a register of the core domain, and one that finds earlier writes waiting, enters the
posted-write queue; `now` marks a command that stands for the write as the queue lets it out. -/
def State.hostWrite (s : State) (now : Bool) (w : Posted) : State :=
  let b := (blockOf w.off.toNat).1
  if !(s.reached && s.writesBlock b) then s
  else if s.hif.posted.isEmpty && (now || !coreHeld b) then s.writeBar0 .host w.off.toNat w.wide w.value.toNat
  else { s with hif := { s.hif with posted := s.hif.posted ++ [w] } }

/-- R477: a write by a party through its path. The secure host's page is BAR4, where these registers do not stand. -/
def State.partyWrite (s : State) (p : Party) (now : Bool) (a : Nat) (wide : Bool) (v : Nat) : State :=
  match p with
  | .host => s.hostWrite now { off := BitVec.ofNat 26 a, wide := wide, value := BitVec.ofNat 64 v }
  | .secureHost => s
  | .viloth | .thimble =>
    if s.vilothRuns && (!coreHeld (blockOf a).1 || s.coreUp) then s.writeBar0 p a wide v else s

/-- R466: a request to BAR4 that no bound IDE stream carries; channel `n` where it names one (R607). -/
def State.insecure (s : State) (n : Nat) : State := s.raise (.hif n) Code.mbxInsecure 0 []

/-- R466, R607: the channel that a BAR4 offset belongs to. -/
def bar4Loc (a : Nat) : Nat := if a < 0x80 then 8 + a / 16 else 0

/-- R466: a write to BAR4 by the secure host is taken. -/
def State.bar4Put (s : State) (a : Nat) (wide : Bool) (v : Nat) : State :=
  if a % 4 ≠ 0 then s
  else if !wide then s.writeBar4 a (fld v 0 32)
  else if a % 16 = 0 ∧ a < 0x80 then (if mbxSender (8 + a / 16) = .secureHost then s.mbxSend (8 + a / 16) .all (BitVec.ofNat 64 v) else s)
  else (s.writeBar4 a (fld v 0 32)).writeBar4 (a + 4) (fld v 32 32)

/-- R464: a write of the host that is taken now, or, while earlier ones wait, enters the queue behind them. -/
def State.inOrder (s : State) (w : Posted) (f : State → State) : State :=
  if s.hif.posted.isEmpty then f s else { s with hif := { s.hif with posted := s.hif.posted ++ [w] } }

/-- R466: a write to BAR4. -/
def State.bar4Write (s : State) (p : Party) (a : Nat) (wide : Bool) (v : Nat) : State :=
  if !s.reached || p == .viloth || p == .thimble then s
  else if p = .host ∨ !s.hif.ideUp then s.insecure (bar4Loc a)
  else s.inOrder { off := BitVec.ofNat 26 a, wide := wide, value := BitVec.ofNat 64 v, dest := .bar4 } fun s => s.bar4Put a wide v

/-- R466: a read of BAR4 that no bound IDE stream carries. -/
def State.strayRead (s : State) (n : Nat) : State := (s.insecure n).answer .unsupported []

/-- R15 to R18: REGISTER_WRITE. -/
def execRegisterWrite (w : RegWrite) (s : State) : Out :=
  run (.registerWrite w) s fun s =>
    if w.bar4 then s.bar4Write w.party w.off.toNat w.wide w.value.toNat
    else s.partyWrite w.party false w.off.toNat w.wide w.value.toNat

/-- R50, R464: a queued write is taken. With the core domain off, its registers take none (R599), nor does BAR2. -/
def State.takeWrite (s : State) (w : Posted) : State := match w.dest with
  | .bar0 => if coreHeld (blockOf w.off.toNat).1 && !s.coreUp then s else s.writeBar0 .host w.off.toNat w.wide w.value.toNat
  | .bar2 off data => if s.ft.folded then s else s.bar2Put off.toNat data
  | .bar4 => s.bar4Put w.off.toNat w.wide w.value.toNat
  | .word _ n b => s.mbxSend n b w.value
  | .win _ n => s.mbxPush n (BitVec.ofNat 32 w.value.toNat)

/-- R50: POSTED_WRITE_DRAIN: the oldest write leaves the queue. -/
def execPostedWriteDrain (s : State) : Out :=
  run .postedWriteDrain s fun s => match s.hif.posted with
    | [] => s
    | w :: r => State.takeWrite { s with hif := { s.hif with posted := r } } w

/-- R463, R464: BAR2_WRITE. -/
def execBar2Write (off : BitVec 39) (data : List Byte) (s : State) : Out :=
  run (.bar2Write off data) s fun s =>
    if !(s.reached && s.hif.ready) || s.ft.folded || data.isEmpty then s
    else s.inOrder { off := 0, wide := false, value := 0, dest := .bar2 off data } fun s => s.bar2Put off.toNat data

/-- R461, R464: a read of BAR2 passes no write of the host: the queue empties first where a write to BAR2 waits in it (log 16). -/
def State.pushed (s : State) : State :=
  if s.hif.posted.any fun w => match w.dest with
      | .bar2 _ _ => true
      | _ => false
  then forEach (fun w s => s.takeWrite w) s.hif.posted { s with hif := { s.hif with posted := [] } }
  else s

/-- R463: BAR2_READ. -/
def execBar2Read (off : BitVec 39) (len : Nat) (s : State) : Out :=
  run (.bar2Read off len) s fun s =>
    if !s.hif.linkUp then s
    else if s.hif.d3hot || !s.hif.ready then s.answer .unsupported []
    else s.pushed.bar2Fetch off.toNat len

/-- R49: MIRROR_UPDATE: the mirror takes the eight aligned bytes about an offset. -/
def execMirrorUpdate (off : BitVec 26) (s : State) : Out :=
  run (.mirrorUpdate off) s fun s => if s.coreUp then s.showWrite (off.toNat / 8 * 8) 8 else s

/-- R468: HIF_RING_TAIL. -/
def execHifRingTail (p : Party) (k : Fin 8) (v : Word) (s : State) : Out :=
  run (.hifRingTail p k v) s fun s => s.partyWrite p true (0x110 + 32 * k) false v.toNat

/-- R487: HIF_RING_COMMIT. -/
def execHifRingCommit (p : Party) (k : Fin 8) (s : State) : Out :=
  run (.hifRingCommit p k) s fun s => s.partyWrite p true (0x10C + 32 * k) false 1

/-- R493: HIF_RESET_WARM. -/
def execHifResetWarm (p : Party) (s : State) : Out :=
  run (.hifResetWarm p) s fun s => s.partyWrite p true 0x008 false 1

/-- R480: a claim or a release by a party through its path. -/
def State.partyClaim (s : State) (p : Party) (g v : Nat) : State :=
  match p with
  | .secureHost => s.bar4Write p (0x804 + 16 * g) false v
  | _ => s.partyWrite p true (0x204 + 16 * g) false v

/-- R480: GROUP_CLAIM. -/
def execGroupClaim (p : Party) (g : Fin 18) (s : State) : Out := run (.groupClaim p g) s fun s => s.partyClaim p g 1

/-- R480: GROUP_RELEASE. -/
def execGroupRelease (p : Party) (g : Fin 18) (s : State) : Out := run (.groupRelease p g) s fun s => s.partyClaim p g 0

/-- R412: FAB_RT_COMMIT. -/
def execFabRtCommit (p : Party) (s : State) : Out := run (.fabRtCommit p) s fun s => s.partyWrite p true 0x400018 false 1

/-- R395: FAB_RETRAIN. -/
def execFabRetrain (p : Party) (ports : BitVec 13) (s : State) : Out :=
  run (.fabRetrain p ports) s fun s => s.partyWrite p true 0x40001C false ports.toNat

/-- R264, R267: the BAR0 offset of an interface's BOB_CTRL: in the debug window of the logical core, or in the gang window while
CFG_GANG_SEL selects the gang. -/
def State.ctrlOff (s : State) (i : IfaceId) : Option Nat := match i with
  | .core r => (s.logicalOf r).map fun c => 0x1000000 + c * 0x10000 + 0x1000
  | .gang _ _ => if s.selGang = some i then some 0x800400 else none

/-- A write of one action bit to BOB_CTRL that leaves the break enables as they are. -/
def State.bobAction (s : State) (p : Party) (i : IfaceId) (bit : Nat) : State := match s.ctrlOff i with
  | some a => s.partyWrite p true a false ((s.ifc i).bob.brkEn.toNat + 2 ^ bit)
  | none => s

/-- R263: BOB_RESUME_A. -/
def execBobResumeA (p : Party) (tgt : IfaceId) (s : State) : Out := run (.bobResumeA p tgt) s fun s => s.bobAction p tgt 4

/-- R263: BOB_RESUME_X. -/
def execBobResumeX (p : Party) (tgt : IfaceId) (s : State) : Out := run (.bobResumeX p tgt) s fun s => s.bobAction p tgt 5

/-- R257: BOB_RELEASE. -/
def execBobRelease (p : Party) (tgt : IfaceId) (s : State) : Out := run (.bobRelease p tgt) s fun s => s.bobAction p tgt 6

/-! ### Reads (R47, R49, R464, R465) -/

/-- R464: the state once every queued write has drained, each judged as ownership stands now. -/
def State.afterQueue (s : State) : State := forEach (fun w s => s.takeWrite w) s.hif.posted s

/-- R18, R464: a queued write carries a reserved encoding for the register at an offset: an 8-byte write is one write to an 8-byte
register, and two to a pair of 4-byte ones. -/
def State.queuedBad (s : State) (w : Posted) (a : Nat) : Bool :=
  if w.wide && decide (w.off.toNat % 8 = 0) && ((s.regDesc w.off.toNat).map (·.eight)).getD false then regReserved w.off.toNat w.value.toNat
  else regReserved a (fld w.value.toNat (if w.off.toNat = a then 0 else 32) 32)

/-- R464: a queued write to the register at an offset of BAR0 that will be applied; the MSI-X table has no group. -/
def State.queuedFor (s : State) (a : Nat) : Bool :=
  s.hif.posted.any fun w =>
    w.dest == .bar0 && (w.off.toNat == a || (w.wide && w.off.toNat + 4 == a)) && match s.regDesc a with
      | some d => (s.owner d.group).toNat == rankOf .host && (d.acc == .sh || !s.queuedBad w a)
      | none => decide (0x1000 ≤ a) && decide (a < 0x1400)

/-- R49, R464, R465, R599: the word that a host's read of a BAR0 offset returns: the register's, or the mirror's, merged with the
queued writes that will be applied. -/
def State.hostRead (s : State) (a : Nat) : Nat :=
  if !(s.readsBlock (blockOf a).1 (blockOf a).2) then 0
  else if s.queuedFor a then s.afterQueue.liveWord .host a
  else if coreHeld (blockOf a).1 then s.mirrored a
  else s.liveWord .host a

/-- R15, R17: a read of an RC register: it returns the value, and `f` takes what it returned out of the field. -/
def State.readClear (s : State) (a : Nat) (f : Nat → State → State) : State :=
  if !s.hif.linkUp then s
  else if s.hif.d3hot then s.answer .unsupported []
  else if !(s.readsBlock (blockOf a).1 (blockOf a).2) then s.answer .ok (leBytes 4 0)
  else
    let v := s.hostRead a
    ((f v s).showWrite a 4).answer .ok (leBytes 4 v)

/-- R17: a count keeps the events that the read did not return. -/
def lessRead (w : Word) (v : Nat) : Word := BitVec.ofNat 32 (w.toNat - v)

/-- R41: CFG_PACE_READ. -/
def execCfgPaceRead (s : State) : Out :=
  run .cfgPaceRead s fun s => s.readClear 0x800008 fun _ s => { s with cfg := { s.cfg with paceMin := s.cfg.paceNow } }

/-- R380: MEM_RINSE_CORR_READ. -/
def execMemRinseCorrRead (s : State) : Out :=
  run .memRinseCorrRead s fun s => s.readClear 0x801048 fun v s => { s with ms := { s.ms with rinseCor := lessRead s.ms.rinseCor v } }

/-- R380: MEM_RINSE_UNCORR_READ. -/
def execMemRinseUncorrRead (s : State) : Out :=
  run .memRinseUncorrRead s fun s => s.readClear 0x80104C fun v s => { s with ms := { s.ms with rinseUnc := lessRead s.ms.rinseUnc v } }

/-- R414: FAB_DISCARD_CNT_READ. -/
def execFabDiscardCntRead (s : State) : Out :=
  run .fabDiscardCntRead s fun s => s.readClear 0x400024 fun _ s => { s with fab := { s.fab with discard := 0 } }

/-- R414: FAB_PORT_RETRY_READ. -/
def execFabPortRetryRead (port : Fin 13) (s : State) : Out :=
  run (.fabPortRetryRead port) s fun s =>
    s.readClear (0x400104 + 16 * port) fun _ s => s.setPort port { s.port port with retry := 0 }

/-- R414: FAB_PORT_FEC_READ. -/
def execFabPortFecRead (port : Fin 13) (s : State) : Out :=
  run (.fabPortFecRead port) s fun s =>
    s.readClear (0x400108 + 16 * port) fun _ s => s.setPort port { s.port port with fec := 0 }

/-- R414: FAB_PORT_ERR_READ. -/
def execFabPortErrRead (port : Fin 13) (s : State) : Out :=
  run (.fabPortErrRead port) s fun s =>
    s.readClear (0x40010C + 16 * port) fun _ s => s.setPort port { s.port port with err := 0 }

/-- R531, R569: a count of Lint that a read clears; a mirror that stands still shows it cleared too. -/
def State.clearCount (s : State) (f : Lint → Lint) : State :=
  { s with lint := f s.lint, seq := { s.seq with still := s.seq.still.map fun x => (x.1, f x.2) } }

/-- R569: MGT_LINT_SKIP_READ. -/
def execMgtLintSkipRead (s : State) : Out :=
  run .mgtLintSkipRead s fun s => s.readClear 0x200054 fun v s => s.clearCount fun l => { l with skip := lessRead l.skip v }

/-- R569: MGT_LINT_LOST_READ. -/
def execMgtLintLostRead (s : State) : Out :=
  run .mgtLintLostRead s fun s => s.readClear 0x200058 fun v s => s.clearCount fun l => { l with lost := lessRead l.lost v }

/-- R602: CFG_FT_REREAD_READ. -/
def execCfgFtRereadRead (s : State) : Out :=
  run .cfgFtRereadRead s fun s => s.readClear 0x803004 fun v s => { s with ft := { s.ft with reread := lessRead s.ft.reread v } }

/-- R602: CFG_FT_DARN_READ. -/
def execCfgFtDarnRead (s : State) : Out :=
  run .cfgFtDarnRead s fun s => s.readClear 0x803008 fun v s => { s with ft := { s.ft with darn := lessRead s.ft.darn v } }

/-! ### Mailboxes (R466, R488 to R492) -/

/-- R466, R498: a read of a 4-byte register of BAR4 but for mailbox words and data windows, which have commands of their own.
The table has no row for such a read, as for other register reads without an effect; this says what it answers. -/
def State.bar4Read (s : State) (p : Party) (a : Nat) : State :=
  if !s.hif.linkUp || p == .viloth || p == .thimble then s
  else if s.hif.d3hot then s.answer .unsupported []
  else if p = .host ∨ !s.hif.ideUp then s.strayRead (bar4Loc a)
  else s.answer .ok (leBytes 4 ((if s.hif.posted.any fun w => w.dest == .bar4 then s.afterQueue else s).mbxWord 8 a))

/-- R488: a party reaches a channel through its page or its own interface. -/
def State.reaches (s : State) (p : Party) (n : Nat) : Bool := match p with
  | .host => s.reached && decide (n < 8)
  | .secureHost => s.reached && s.hif.ideUp && decide (8 ≤ n)
  | .viloth => s.vilothRuns && decide (n < 8)
  | .thimble => s.vilothRuns && s.mgt.thimble && decide (8 ≤ n)

/-- R466: a request of the host to BAR4 outside a bound IDE stream. -/
def State.strays (s : State) (p : Party) (n : Nat) : Bool :=
  s.reached && decide (8 ≤ n) && (p == .host || (p == .secureHost && !s.hif.ideUp))

/-- R465, R599: BAR0 reads of MBX reach it. -/
def State.mbxReads (s : State) (p : Party) : Bool := decide (p ≠ .host) || s.readsBlock .mbx 0

/-- R464: a write to a mailbox: the host's keep the order of its writes. -/
def State.hostOrder (s : State) (p : Party) (w : Posted) (f : State → State) : State := match p with
  | .host | .secureHost => s.inOrder w f
  | _ => f s

/-- R489: MBX_WORD_WRITE. -/
def execMbxWordWrite (p : Party) (n : Fin 16) (b : MbxBytes) (v : DWord) (s : State) : Out :=
  run (.mbxWordWrite p n b v) s fun s =>
    if s.strays p n then s.insecure n
    else if s.reaches p n && mbxSender n == p then s.hostOrder p { off := 0, wide := false, value := v, dest := .word p n b } fun s => s.mbxSend n b v
    else s

/-- R490: MBX_WORD_READ. A sender's register reads zero (R15). -/
def execMbxWordRead (p : Party) (n : Fin 16) (b : MbxBytes) (s : State) : Out :=
  run (.mbxWordRead p n b) s fun s =>
    let len := match b with
      | .all => 8
      | _ => 4
    if s.strays p n then s.strayRead n
    else if !s.reaches p n then s
    else if mbxReceiver n == p && s.mbxReads p then
      let (bs, s) := s.mbxTake n b
      s.answer .ok bs
    else s.answer .ok (leBytes len 0)

/-- R491: MBX_WIN_WRITE. -/
def execMbxWinWrite (p : Party) (n : Fin 16) (v : Word) (s : State) : Out :=
  run (.mbxWinWrite p n v) s fun s =>
    if s.strays p n then s.insecure n
    else if s.reaches p n && mbxSender n == p then
      s.hostOrder p { off := 0, wide := false, value := BitVec.ofNat 64 v.toNat, dest := .win p n } fun s => s.mbxPush n v
    else s

/-- R491: MBX_WIN_READ. -/
def execMbxWinRead (p : Party) (n : Fin 16) (s : State) : Out :=
  run (.mbxWinRead p n) s fun s =>
    if s.strays p n then s.strayRead n
    else if !s.reaches p n then s
    else if mbxReceiver n == p && s.mbxReads p then
      let (w, s) := s.mbxPop n
      s.answer .ok (leBytes 4 w.toNat)
    else s.answer .ok (leBytes 4 0)

/-! ### IDE and the power state (R461, R492, R496) -/

/-- R461: IDE_KM_REQUEST, which Thimble answers. -/
def execIdeKmRequest (r : IdeRequest) (s : State) : Out :=
  run (.ideKmRequest r) s fun s =>
    if !(s.hif.linkUp && s.vilothRuns) then s
    else
      let s := { s with mgt := { s.mgt with thimble := true } }
      match r with
      | .bind n => if s.hif.ideStr.contains n then s else { s with hif := { s.hif with ideStr := s.hif.ideStr ++ [n] } }
      | .teardown n => { s with hif := { s.hif with ideStr := s.hif.ideStr.filter (· != n) } }

/-- R492: PCI_PM_STATE_CHANGE: back in D0, the held vectors go out in order. -/
def execPciPmStateChange (toD3 : Bool) (s : State) : Out :=
  run (.pciPmStateChange toD3) s fun s =>
    if !s.hif.linkUp then s
    else if toD3 then { s with hif := { s.hif with d3hot := true } }
    else
      let held := s.hif.heldVec.reverse
      forEach (fun (v : BitVec 6) s => s.sendVec v.toNat) held { s with hif := { s.hif with d3hot := false, heldVec := [] } }

end Sys2Proof.Machine
end

