-- ==== Sys2Proof/Machine/Messages.lean ====
section
/-! DEFINITION. The messages that Viloth and Thimble serve: requests and replies, the operations of each, and the firmware update
(R533, R535, R538, R548, R549, R553, R559, R561 to R568). -/

namespace Sys2Proof.Machine

/-! ### Requests and replies (R561, R562) -/

/-- A request: its word, and the window words that came before it. -/
structure Request where
  word  : DWord
  words : List Word
  deriving DecidableEq, Repr

/-- R561: fields of a request. -/
def reqOp (w : DWord) : Nat := fld w.toNat 0 8
def reqTag (w : DWord) : Nat := fld w.toNat 8 8
def reqCount (w : DWord) : Nat := fld w.toNat 16 9
def Request.arg (r : Request) : Nat := fld r.word.toNat 32 32

/-- A reply: its code, its ARG, and its window words. -/
structure Reply where
  code  : BitVec 16 := 0
  arg   : Nat := 0
  words : List Word := []
  deriving DecidableEq, Repr

/-- R561: the word of a reply. The layout gives ARG no bits of it (log 40). -/
def Reply.word (r : Reply) (req : DWord) : DWord :=
  BitVec.ofNat 64 (reqOp req + reqTag req * 2 ^ 8 + r.words.length * 2 ^ 16 + r.code.toNat * 2 ^ 32)

/-- R563, R564: the operations of each side. -/
def vilothOps : List Nat := [0x01, 0x02, 0x03, 0x04, 0x05, 0x06, 0x07]
def thimbleOps : List Nat := [0x40, 0x41, 0x42, 0x43, 0x44, 0x45, 0x46, 0x47]

/-- R548: the operations that recovery mode serves. -/
def recoveryOps : List Nat := [0x01, 0x02, 0x46, 0x40, 0x41, 0x42, 0x43]

/-- R563, R564: the COUNTs that an operation takes. -/
def countOk (op n : Nat) : Bool := match op with
  | 0x03 => n == 2
  | 0x41 => decide (1 ≤ n) && decide (n ≤ 256)
  | 0x44 => n == 8
  | 0x47 => n == 24
  | _ => n == 0

/-- R548, R562: an operation that the receiver of a channel serves. -/
def State.servesOp (s : State) (ch op : Nat) : Bool :=
  (if ch < 8 then vilothOps else thimbleOps).contains op && (!s.mgt.recovery || recoveryOps.contains op)

/-- R531, R562: the channel holds the oldest request for its receiver, which runs. While Viloth restarts, words wait. -/
def State.atFront (s : State) (ch : Nat) : Bool :=
  let mine := s.mbx.order.filter fun k => if ch < 8 then decide (k.val < 4) else decide (8 ≤ k.val) && decide (k.val < 12)
  (mine.head?.map (·.val)) == some ch && s.vilothRuns && s.seq.still.isNone
  && (if ch < 8 then decide (9 ≤ s.mgt.phase.toNat) || s.mgt.recovery else s.mgt.thimble)

/-- R561: the receiver reads the word and then COUNT window words. -/
def State.takeWords (s : State) (ch : Nat) : Nat → List Word → List Word × State
  | 0, acc => (acc.reverse, s)
  | n + 1, acc => let (w, s) := s.mbxPop ch; s.takeWords ch n (w :: acc)

/-- R561: take the request of a channel. -/
def State.readRequest (s : State) (ch : Nat) : Request × State :=
  let w := (s.mbox ch).word
  let (ws, s) := (s.mbxClear ch).takeWords ch (reqCount w) []
  (⟨w, ws⟩, s)

/-- R561, R562: write a reply: its window words, then its word. -/
def State.sendReply (s : State) (ch : Nat) (req : DWord) (r : Reply) : State :=
  let s := forEach (fun w s => s.mbxPush (ch + 4) w) r.words s
  (s.mbxComplete (ch + 4) (r.word req)).answer .ok (leBytes 4 r.arg)

/-- The block that serves a channel. -/
def serverOf (ch : Nat) : Src := if ch < 8 then .viloth else .thimble

/-- R562: the reply channel has room for a reply. -/
def State.replyRoom (s : State) (ch : Nat) (r : Reply) : Bool :=
  !(s.mbox (ch + 4)).full && decide ((s.mbox (ch + 4)).win.length + r.words.length ≤ mbxWindow)

/-- R562: the request at the front is served if it is one of operation `op` that `fits`, and is refused if it is of none that the
receiver serves or has another COUNT than its operation takes; the reply goes out before `after` acts. While the reply channel has no
room the receiver waits. -/
def State.serve (s : State) (ch op : Nat) (fits : DWord → Bool) (f : Request → State → Reply × State)
    (after : Reply → State → State) : State :=
  let w := (s.mbox ch).word
  if !s.atFront ch then s
  else if !s.servesOp ch (reqOp w) || (reqOp w == op && !countOk op (reqCount w)) then
    let r : Reply := { code := Code.mbxBadRequest }
    if s.replyRoom ch r then ((s.readRequest ch).2.raise (serverOf ch) Code.mbxBadRequest 0 []).sendReply ch w r else s
  else if reqOp w ≠ op ∨ !fits w then s
  else
    let (q, t) := s.readRequest ch
    let (r, t) := f q t
    if s.replyRoom ch r then after r (t.sendReply ch w r) else s

/-- Nothing follows the reply. -/
def noAfter (_ : Reply) (s : State) : State := s

/-- Every request of the operation fits. -/
def anyReq (_ : DWord) : Bool := true

/-- A code that an operation raises and replies. -/
def State.refuse (s : State) (src : Src) (c : BitVec 16) (args : List Nat) (arg : Nat) : Reply × State :=
  ({ code := c, arg := arg }, s.raise src c 0 args)

/-! ### Viloth (R559, R563) -/

/-- R563: PING. -/
def execPing (n : Fin 4) (s : State) : Out :=
  run (.ping n) s fun s => s.serve n 0x01 anyReq (fun _ s => ({ arg := s.mgtStatus }, s)) noAfter

/-- R559: the records held, oldest first: those of the flash region that are older than the ring, and the ring. -/
def Lint.held (l : Lint) : List LintRec := match l.ring with
  | [] => l.flash
  | o :: _ => (l.flash.filter fun r => decide (r.seq.toNat < o.seq.toNat)) ++ l.ring

/-- R559: records of one reply. -/
def lintReply : Nat := 16

/-- R559: the reply to LINT_READ. -/
def State.lintAnswer (s : State) (first : Nat) : Reply × State :=
  let held := s.lint.held
  let send (l : List LintRec) (code : BitVec 16) (d : Nat) : Reply :=
    { code := code, arg := ((l.head?.map fun r => r.seq.toNat).getD d), words := (l.take lintReply).flatMap LintRec.words }
  if held.any (fun r => r.seq.toNat == first) then (send (held.dropWhile fun r => r.seq.toNat != first) 0 first, s)
  else if s.lint.nextSeq.toNat ≤ first then ({ arg := first }, s)
  else (send held Code.lintGone first, s.raise .viloth Code.lintGone 0 [])

/-- R559: LINT_READ. -/
def execLintRead (n : Fin 4) (s : State) : Out :=
  run (.lintRead n) s fun s => s.serve n 0x02 anyReq (fun q s => s.lintAnswer q.arg) noAfter

/-- R553: Viloth writes the cap and vset and commits them; the reply carries what the committer reads. -/
def State.setPolicyTo (s : State) (cap vset : Nat) : Reply × State :=
  let s := s.writeBar0 .viloth 0x200040 false cap
  let s := s.writeBar0 .viloth 0x200044 false vset
  let s := s.writeBar0 .viloth 0x200048 false 1
  ({ code := s.groupStatus 15 .viloth }, s)

/-- R553: SET_POLICY. -/
def execSetPolicy (n : Fin 4) (s : State) : Out :=
  run (.setPolicy n) s fun s =>
    s.serve n 0x03 anyReq (fun q s => s.setPolicyTo (nth q.words 0 0).toNat (nth q.words 1 0).toNat) noAfter

/-- R563: an operation that an open update session refuses. -/
def State.unlessUpdating (s : State) : Reply × State :=
  if s.mgt.update.isSome then s.refuse .viloth Code.updBusy [] 0 else ({}, s)

/-- R563: POWER_OFF. -/
def execPowerOff (n : Fin 4) (s : State) : Out :=
  run (.powerOff n) s fun s =>
    s.serve n 0x04 anyReq (fun _ s => s.unlessUpdating) fun r s => if r.code = 0 then s.powerDown 0 else s

/-- R563: ARG[0] of a RESTART. -/
def restartCold (w : DWord) : Bool := bitOf w.toNat 32

/-- R563: RESTART with ARG 0: a warm reset. -/
def execRestartWarm (n : Fin 4) (s : State) : Out :=
  run (.restartWarm n) s fun s =>
    s.serve n 0x05 (fun w => !restartCold w) (fun _ s => s.unlessUpdating) fun r s => if r.code = 0 then s.warmReset causeViloth else s

/-- R544, R549: the power-down of R509, and then phase 2. No digest failure brought this restart about, so no copy counts as
invalid for it. -/
def State.coldRestart (s : State) : State :=
  let s := s.powerDown 0
  { s with seq := { s.seq with restart := true, badA := false, badB := false } }

/-- R549, R563: RESTART with ARG 1: a cold restart. -/
def execRestartCold (n : Fin 4) (s : State) : Out :=
  run (.restartCold n) s fun s =>
    s.serve n 0x05 restartCold (fun _ s => s.unlessUpdating) fun r s => if r.code = 0 then s.coldRestart else s

/-- R563: two readings in each word. -/
def State.sensorWords (s : State) : List Word :=
  (upto 128).map fun i =>
    BitVec.ofNat 32 ((nth s.mgt.dieTemps (2 * i) 0).toNat + (nth s.mgt.dieTemps (2 * i + 1) 0).toNat * 2 ^ 16)

/-- R563: SENSOR_DUMP. -/
def execSensorDump (n : Fin 4) (s : State) : Out :=
  run (.sensorDump n) s fun s => s.serve n 0x06 anyReq (fun _ s => ({ words := s.sensorWords }, s)) noAfter

/-- R563: the words of INFO, in the order in which the rule names them (log 41). -/
def State.infoWords (s : State) : List Word :=
  let copy (c : Bool) : List Nat := [hdSeq (s.header c), hdSvn (s.header c), b2n (s.copyReason c == 0)]
  (copy false ++ copy true ++ [b2n (s.mgt.copy.getD false), s.otpSvn]).map (BitVec.ofNat 32)

/-- R563: INFO. -/
def execInfo (n : Fin 4) (s : State) : Out :=
  run (.info n) s fun s => s.serve n 0x07 anyReq (fun _ s => ({ words := s.infoWords }, s)) noAfter

/-! ### Firmware update (R564, R567, R568) -/

/-- A code whose reason no rule gives: a free value stands for the reason (log 6). -/
def State.rejectFree (s : State) : Reply × State :=
  let (v, s) := s.fresh
  s.refuse .thimble Code.updRejected [fld v.toNat 0 32] (fld v.toNat 0 32)

/-- R567: an update is rejected with a reason, and its session closes. -/
def State.rejectUpdate (s : State) (why : Option Nat) : Reply × State :=
  let s := { s with mgt := { s.mgt with update := none } }
  match why with
  | some x => s.refuse .thimble Code.updRejected [x] x
  | none => s.rejectFree

/-- R567: the copy that is not running; with none running a free value names it (log 6). -/
def State.updateTarget (s : State) : Bool × State := match s.mgt.copy with
  | some c => (!c, s)
  | none => let (v, s) := s.fresh; (bitOf v.toNat 0, s)

/-- R567: FW_BEGIN. -/
def State.beginUpdate (s : State) (bytes : Nat) : Reply × State :=
  if s.mgt.update.isSome then s.refuse .thimble Code.updBusy [] 0
  else
    let (t, s) := s.updateTarget
    ({ arg := b2n t }, { s with mgt := { s.mgt with update := some { target := t, bytes := bytes } } })

/-- R567: FW_BEGIN. -/
def execFwBegin (n : Fin 4) (s : State) : Out :=
  run (.fwBegin n) s fun s => s.serve (n + 8) 0x40 anyReq (fun q s => s.beginUpdate q.arg) noAfter

/-- R567: words of an image. -/
def Update.total (u : Update) : Nat := ceilDiv u.bytes 4

/-- R567: words of the header sector. -/
def imageHeader : Nat := 1024

/-- Erase one 4 KiB unit of the flash. -/
def State.eraseUnit (s : State) (a : Nat) : State := { s with mgt := { s.mgt with flash := s.mgt.flash.clear a (a + 4096) } }

/-- R567: program bytes from `a` up; a unit is erased as the first byte of it arrives. -/
def State.programFlash (s : State) (a : Nat) : List Byte → State
  | [] => s
  | b :: r =>
    let s := if a % 4096 = 0 then s.eraseUnit a else s
    State.programFlash { s with mgt := { s.mgt with flash := s.mgt.flash.set 0xFF a b } } (a + 1) r

/-- R569: MGT_FW_INFO shows the running copy and whether the other is valid. -/
def State.showRunning (s : State) : State := match s.mgt.copy with
  | some c => s.showCopy c
  | none => s

/-- R567: SEQ above the running copy's. -/
def State.seqNewer (s : State) (h : List Byte) : Bool := match s.mgt.copy with
  | some c => decide (hdSeq (s.header c) < hdSeq h)
  | none => true

/-- R567 phases 3 and 4: the header is checked, and the target's header sector is erased. -/
def State.takeHeader (s : State) (u : Update) : Reply × State :=
  let h := wordBytes u.hdr
  let why := s.headerReason h
  if why ≠ 0 then s.rejectUpdate (some why)
  else if !s.seqNewer h ∨ u.bytes ≠ 4096 + hdLen h then s.rejectUpdate none
  else
    let s := s.eraseUnit (copyBase u.target)
    ({}, { s with mgt := { s.mgt with update := some { u with erased := true } } }.showRunning)

/-- R567 phase 5: body words are programmed. -/
def State.takeBody (s : State) (u : Update) (ws : List Word) : Reply × State :=
  let s := s.programFlash (copyBase u.target + 4 * u.words) (wordBytes ws)
  ({}, { s with mgt := { s.mgt with update := some { u with words := u.words + ws.length } } })

/-- R567: FW_DATA: words of the image arrive. -/
def State.takeImage (s : State) (ws : List Word) : Reply × State := match s.mgt.update with
  | none => s.rejectFree
  | some u =>
    if u.total < u.words + ws.length then s.rejectUpdate none
    else
      let toHdr := ws.take (imageHeader - u.words)
      let body := ws.drop (imageHeader - u.words)
      let v := { u with hdr := u.hdr ++ toHdr, words := u.words + toHdr.length }
      if u.words < imageHeader ∧ v.words = imageHeader then
        let (r, s) := s.takeHeader v
        if r.code = 0 then s.takeBody { v with erased := true } body else (r, s)
      else if v.words < imageHeader then ({}, { s with mgt := { s.mgt with update := some v } })
      else s.takeBody v body

/-- R567: FW_DATA. -/
def execFwData (n : Fin 4) (s : State) : Out :=
  run (.fwData n) s fun s => s.serve (n + 8) 0x41 anyReq (fun q s => s.takeImage q.words) noAfter

/-- R567 phase 7: the digest is compared, and the header sector is programmed. -/
def State.endUpdate (s : State) : Reply × State := match s.mgt.update with
  | none => s.rejectFree
  | some u =>
    if u.words < u.total ∨ !u.erased then s.rejectUpdate none
    else
      let h := wordBytes u.hdr
      if sha512 (s.flashBytes (copyBase u.target + 0x1000) (hdLen h)) ≠ hdDigest h then s.rejectUpdate (some 7)
      else
        let s := s.programFlash (copyBase u.target) h
        let q := s.seq
        let s := { s with
          mgt := { s.mgt with update := none }
          seq := if u.target then { q with badB := false } else { q with badA := false } }
        ({}, s.showRunning)

/-- R548, R567: FW_END; in recovery mode a cold restart follows. -/
def execFwEnd (n : Fin 4) (s : State) : Out :=
  run (.fwEnd n) s fun s =>
    s.serve (n + 8) 0x42 anyReq (fun _ s => s.endUpdate) fun r s => if r.code = 0 ∧ s.mgt.recovery = true then s.coldRestart else s

/-- R568: the session closes. -/
def State.closeUpdate (s : State) : State := { s with mgt := { s.mgt with update := none } }

/-- R568: FW_ABORT. -/
def execFwAbort (n : Fin 4) (s : State) : Out :=
  run (.fwAbort n) s fun s => s.serve (n + 8) 0x43 anyReq (fun _ s => ({}, s.closeUpdate)) noAfter

/-- R568: UPDATE_SESSION_TIMEOUT: 60 s without a message. -/
def execUpdateSessionTimeout (s : State) : Out :=
  run .updateSessionTimeout s fun s => if s.vilothRuns then s.closeUpdate else s

/-! ### OTP and unlocking (R533, R538, R564 to R566) -/

/-- R533: program OTP bits of a field: a bit goes from 0 to 1 only. -/
def State.programOtp (s : State) (o v : Nat) : State :=
  { s with mgt := { s.mgt with otp := s.mgt.otp ||| BitVec.ofNat 8192 (v * 2 ^ (8 * o)) } }

/-- R537: a record of bits [239:0], with its CRC. -/
def sealSettings (ws : List Word) : Nat :=
  let v := fld (leNat (wordBytes ws)) 0 240
  v + crc16 (leBytes 30 v) * 2 ^ 240

/-- R538: what a generation holds whose programming went wrong: some of the record's bits, which no rule names (log 6), with a CRC
that fails. -/
def spoiled (rec f : Nat) : Nat :=
  let v := rec &&& f
  if v = 0 ∨ settingsGood (BitVec.ofNat 256 v) = true then 1 else v

/-- R538: the lowest generation that is all zero. -/
def State.freeGen (s : State) : Option Nat := ([0, 1, 2, 3] : List Nat).find? fun k => s.settingsGen k == 0

/-- R538: OTP_SETTINGS. -/
def State.addSettings (s : State) (ws : List Word) (ok : Bool) : Reply × State := match s.freeGen with
  | none => s.refuse .thimble Code.otpFull [] 0
  | some k =>
    let r := sealSettings ws
    if ok then ({}, s.programOtp (0x300 + 32 * k) r)
    else
      let (a, s) := s.fresh
      let (b, s) := s.fresh
      let (c, s) := s.fresh
      let (d, s) := s.fresh
      let f := a.toNat + b.toNat * 2 ^ 64 + c.toNat * 2 ^ 128 + d.toNat * 2 ^ 192
      (s.programOtp (0x300 + 32 * k) (spoiled r f)).refuse .thimble Code.otpProgFail [] 0

/-- R538: OTP_SETTINGS. -/
def execOtpSettings (n : Fin 4) (readBackOk : Bool) (s : State) : Out :=
  run (.otpSettings n readBackOk) s fun s =>
    s.serve (n + 8) 0x44 anyReq (fun q s => s.addSettings q.words readBackOk) noAfter

/-- R533, R565: the SVN field with its lowest clear bits set until `want` are. -/
def raiseSvn (want : Nat) : Nat → Nat → Nat → Nat
  | 0, _, v => v
  | n + 1, k, v =>
    let have' := ((upto 96).filter fun i => bitOf v i).length
    if want ≤ have' then v else raiseSvn want n (k + 1) (if bitOf v k then v else v + 2 ^ k)

/-- R565: SVN_COMMIT: up to the running copy's SVN. -/
def State.commitSvn (s : State) : Reply × State := match s.mgt.copy with
  | none => ({}, s)
  | some c => ({}, (s.programOtp 0x84 (raiseSvn (hdSvn (s.header c)) 96 0 (s.otpNat 0x84 12))).showRunning)

/-- R565: SVN_COMMIT. -/
def execSvnCommit (n : Fin 4) (s : State) : Out :=
  run (.svnCommit n) s fun s => s.serve (n + 8) 0x45 anyReq (fun _ s => s.commitSvn) noAfter

/-- R564: NONCE: a fresh nonce is a free value (log 6). -/
def State.newNonce (s : State) : Reply × State :=
  let (v, s) := s.fresh
  ({ words := leWords (leBytes 8 v.toNat) }, { s with mgt := { s.mgt with nonce := some v } })

/-- R564: NONCE. -/
def execNonce (n : Fin 4) (s : State) : Out :=
  run (.nonce n) s fun s => s.serve (n + 8) 0x46 anyReq (fun _ s => s.newNonce) noAfter

/-- R566: the token unlocks. -/
def State.unlocks (s : State) (nonce : DWord) (key sig : List Byte) : Bool :=
  ((s.mgt.settings.map setDebug).getD 0) == 1
  && s.keyUsable ((s.mgt.settings.map setKeySlot).getD 0) key
  && edVerify key (s.otpBytes 0 8 ++ leBytes 8 nonce.toNat) sig

/-- R566: an attempt uses up the nonce. -/
def State.tryUnlock (s : State) (bs : List Byte) : Reply × State :=
  let ok := match s.mgt.nonce with
    | some v => s.unlocks v (bs.take 32) ((bs.drop 32).take 64)
    | none => false
  let s := { s with mgt := { s.mgt with nonce := none } }
  if ok then ({}, { s with mgt := { s.mgt with tapOpen := true } }.raise .thimble Code.dbgUnlocked 0 [])
  else s.refuse .thimble Code.dbgDenied [] 0

/-- R566: DEBUG_UNLOCK. -/
def execDebugUnlock (n : Fin 4) (s : State) : Out :=
  run (.debugUnlock n) s fun s => s.serve (n + 8) 0x47 anyReq (fun q s => s.tryUnlock (wordBytes q.words)) noAfter

end Sys2Proof.Machine
end

