-- ==== Sys2Proof/Machine/Remote.lean ====
section
/-! DEFINITION. What a device does with the packets that reach it: serving global requests, taking replies, timeouts,
scheduler messages, fault notes and multicast data (R169, R254, R279, R371 to R373, R398, R408, R409, R413, R452, R580,
R584, R585, R600). -/

namespace Sys2Proof.Machine

/-! ### Serving requests (R371, R600) -/

/-- The window tables that a request of a key is judged by: a running job's, or in Fold those of the jobs it ended. -/
def State.keyWindows (s : State) (key : Nat) : Option (List (BitVec 256)) :=
  if s.ft.folded then ((s.ft.foldKey.zip s.ft.foldWin).find? fun e => decide (e.1.toNat = key) && decide (key ≠ 0)).map (·.2)
  else (firstSome (fun n => (s.job n).filter fun j => decide (j.key.toNat = key)) s.running).map Job.wins

/-- R371: a range lies in windows with REMOTE and the permission, and in no guard window. -/
def remoteOk (ws : List (BitVec 256)) (k : Acc) (a n : Nat) : Bool :=
  (rangePoints a n).all fun b => (regPlace b).isNone && reasonAt ws [] k b == 0
    && ws.any fun w => !winGuard w && inWin w b && winRemote w

/-- R371: the job's windows allow a request. In Fold only reads of HBM are served (R600). -/
def State.serves (s : State) (key : Nat) (k : Acc) (a n : Nat) : Bool :=
  match s.keyWindows key with
  | some ws => remoteOk ws k a n && !(s.ft.folded && (decide (k ≠ .read) || decide (hbmEnd < a + n)))
      && !((rangePoints a n).any fun b => match stackOf b with
        | some st => s.stackFailed st
        | none => false)
  | none => false

/-- An HBM access of a request is made in a STREAM window. -/
def State.remoteStreams (s : State) (key a : Nat) : Bool :=
  match ((s.keyWindows key).getD []).find? fun w => !winGuard w && inWin w a with
  | some w => winStream w
  | none => false

/-- R360: the class of a request's access, by the windows of its key's job. -/
def State.remoteClass (s : State) (key : Nat) (write : Bool) (a : Nat) : Nat := demandClass ((s.keyWindows key).getD []) write a

/-- R580: a request that meets a poisoned line is refused, and HBM_UNCORR is logged. -/
def State.logPoison (s : State) (line key : Nat) : State :=
  s.raise (.mem ((stackOf (256 * line)).getD 0)) Code.hbmUncorr (BitVec.ofNat 32 key) []

/-- A reply to a request: the source, key and tag of the request come back (R398). -/
def State.reply_ (s : State) (p : Packet) (kind : Nat) (fields : List Nat) (payload : List Byte) : State :=
  s.inject (mkPacket kind (hSrc p.hdr) s.physNode (hKey p.hdr) (hTxn p.hdr) 0 0 false fields payload)

/-- ADDR of a request. -/
def Packet.addr (p : Packet) : Nat := p.word 4 + p.word 5 * 2 ^ 32

/-- The first packet of the request class, when it is of a kind: requests are served in order (R403). In Fold they wait until the
Fold bridge is there (R598, R600). -/
def State.takeRequest (s : State) (kind : Nat) : Option (Packet × State) :=
  match (if s.ft.folded && !s.ft.bridge then [] else s.ejected 0) with
  | p :: r => if hKind p.hdr = kind then some (p, { s with fab := { s.fab with eject := s.fab.eject.set [] 0 r } }) else none
  | [] => none

/-- R371, R398: a READ_REQ is served, in packets of up to 4,032 bytes, or refused. -/
def State.serveRead (s : State) (p : Packet) : State :=
  let a := p.addr
  let n := p.word 6
  let key := hKey p.hdr
  if n = 0 ∨ 4096 < n ∨ !s.serves key .read a n then s.reply_ p 0x12 [] []
  else match s.poisonIn a n with
    | some l => (s.logPoison l key).reply_ p 0x12 [] []
    | none =>
      let bs := s.bytesAt a n
      let s := if s.ft.folded then s else s.touch (s.remoteClass key false) (s.remoteStreams key) false a n
      forEach (fun (o, l) s => s.reply_ p 0x10 [o] ((bs.drop o).take l)) (pieces n 4032) s

/-- R398: READ_REQ. -/
def execReadReq (s : State) : Out :=
  run .readReq s fun s => match s.takeRequest 0x01 with
    | some (p, s) => s.serveRead p
    | none => s

/-- A WRITE_ACK: STATUS, and the conditions of an atomic (log 21). -/
def State.ack (s : State) (p : Packet) (refused : Bool) (c : Conds) : State :=
  s.reply_ p 0x11 [b2n refused, Nat.min c.inv 0xFFFF + Nat.min c.ovf 0xFFFF * 2 ^ 16] []

/-- R371, R398: a WRITE is made and acknowledged, or refused. -/
def State.serveWrite (s : State) (p : Packet) : State :=
  let a := p.addr
  let bs := p.payload
  let key := hKey p.hdr
  if !s.serves key .write a bs.length then s.ack p true {}
  else match s.poisonPart a bs.length with
    | some l => (s.logPoison l key).ack p true {}
    | none => ((s.put a bs).touch (fun _ => clsBulk) (s.remoteStreams key) true a bs.length).ack p false {}

/-- R398: WRITE. -/
def execWrite (s : State) : Out :=
  run .write s fun s => match s.takeRequest 0x02 with
    | some (p, s) => s.serveWrite p
    | none => s

/-- R371 to R373: an ATOMIC is applied and acknowledged with its conditions, or refused. -/
def State.serveAtomic (s : State) (p : Packet) : State :=
  let a := p.addr
  let bs := p.payload
  let key := hKey p.hdr
  let xop := fld (p.word 6) 0 4
  if xop = 0 ∨ 12 < xop ∨ notAtomicHome (atomicSize xop) a ∨ bs.length % atomicSize xop ≠ 0 ∨ !s.serves key .atomic a bs.length then
    s.ack p true {}
  else match s.poisonIn a bs.length with
    | some l => (s.logPoison l key).ack p true {}
    | none =>
      let (s, c) := s.atomicTo xop a bs
      s.ack p false c

/-- R372: ATOMIC. -/
def execAtomic (s : State) : Out :=
  run .atomic s fun s => match s.takeRequest 0x03 with
    | some (p, s) => s.serveAtomic p
    | none => s

/-! ### Replies (R398, R408, R411, R413) -/

/-- The outstanding request that a reply answers. -/
def State.remoteOf (s : State) (txn node : Nat) : Option Remote :=
  s.fab.remote.find? fun r => decide (r.txn.toNat = txn) && decide (r.node.toNat = node)

/-- A reservation is released, and what waits may go (R363, R408). -/
def State.release (s : State) (r : Remote) : State :=
  { s with fab := { s.fab with remote := s.fab.remote.filter fun x => decide (x.txn ≠ r.txn) } }.pump

/-- The place of an outstanding request's command. -/
def State.remoteAt (s : State) (r : Remote) : At :=
  ⟨r.owner, .acc, r.idx, ((s.flightOf r.owner .acc r.idx).map fun f => cmdTag f.cmd).getD 0⟩

/-- The operation whose handoff write a request is (R452). -/
def State.handoffOp (s : State) (r : Remote) : Option (Nat × COp) := r.chan.bind fun ch =>
  ((s.chan ch).ops.find? fun o => o.owner == r.owner && decide (o.idx = r.idx)).map fun o => (ch.val, o)

/-- R371, R452: a request was refused: WINDOW_FAULT with reason 6. -/
def State.refused (s : State) (r : Remote) : State :=
  let e : Denied := ⟨Code.windowFault, r.addr.toNat, 6, match r.kind with
    | .read => .read
    | .atomic => .atomic
    | _ => .write⟩
  let s := s.release r
  match s.handoffOp r with
  | some (ch, o) => if o.state = .failed then s else s.collFailDenied ch o e
  | none => if (s.flightOf r.owner .acc r.idx).isSome then s.failDenied (s.remoteAt r) e else s

/-- One request of a command fewer is outstanding. -/
def State.answered (s : State) (r : Remote) (f : Flight → Flight) : State :=
  s.updFlight r.owner .acc r.idx fun x => f { x with reqs := x.reqs - 1 }

/-- The payload of a global read reaches its destination once every piece is there (R398). -/
def State.readWhole (s : State) (r : Remote) : State :=
  match s.flightOf r.owner .acc r.idx with
  | some f =>
    if f.reqs = 0 ∧ !f.fin then
      let parts := f.got.mergeSort fun a b => decide (a.1 ≤ b.1)
      s.sink r.owner f (parts.flatMap (·.2))
    else s
  | none => s

/-- R398: the oldest reply of a kind, with its request; a reply whose reservation is gone is discarded (R411). -/
def State.takeReply (s : State) (kind : Nat) (f : Packet → Remote → State → State) : State :=
  match s.takePacket 1 fun p => hKind p.hdr == kind with
  | none => s
  | some (p, s) => match s.remoteOf (hTxn p.hdr) (hSrc p.hdr) with
    | some r => f p r s
    | none => s.discard 0xFF 6 p.hdr

/-- R398: READ_DATA. -/
def execReadData (s : State) : Out :=
  run .readData s fun s => s.takeReply 0x10 fun p r s =>
    let bs := p.payload
    let s := s.updFlight r.owner .acc r.idx fun x => { x with got := x.got ++ [(r.dst.toNat + p.word 4, bs)] }
    let r' := { r with got := r.got + bs.length }
    if r'.got < r.len then
      { s with fab := { s.fab with remote := s.fab.remote.map fun x => if x.txn = r.txn then r' else x } }
    else ((s.answered r id).release r).readWhole r

/-- R398, R373, R452: WRITE_ACK. -/
def execWriteAck (s : State) : Out :=
  run .writeAck s fun s => s.takeReply 0x11 fun p r s =>
    if bitOf (p.word 4) 0 then s.refused r
    else match s.handoffOp r with
      | some (ch, o) => (s.setOp ch { o with unacked := o.unacked - 1 }).release r
      | none =>
        let c : Conds := { inv := fld (p.word 5) 0 16, ovf := fld (p.word 5) 16 16 }
        (s.answered r fun x => { x with conds := x.conds.plus c }).release r

/-- R398, R371: READ_REFUSED. -/
def execReadRefused (s : State) : Out := run .readRefused s fun s => s.takeReply 0x12 fun _ r s => s.refused r

/-- R413: FAB_REQ_TIMEOUT passes without the reply of an outstanding request. -/
def execFabTimeout (txn : BitVec 16) (s : State) : Out :=
  run (.fabTimeout txn) s fun s => match (if s.pins.peClk then s.fab.remote.find? fun r => decide (r.txn = txn) else none) with
    | none => s
    | some r =>
      let a := s.remoteAt r
      let args := [0xFF, 0] ++ (upto 4).map (wordAt (s.requestHeader r).toNat)
      let s := s.release r
      match s.handoffOp r with
      | some (ch, o) =>
        if o.state = .failed then s
        else s.collFail ch o Code.fabTimeout true fun s => s.haltWith o.place false Code.fabTimeout (.coll ch) args
      | none =>
        if (s.flightOf r.owner .acc r.idx).isSome then
          (s.loseFlight r.owner .acc r.idx).haltWith a false Code.fabTimeout (.bob r.owner) args
        else s

/-! ### Scheduler messages (R169, R254, R279; log 21) -/

/-- The gang interface that a message names: the running job of its key, and its GANG_ID. -/
def State.msgIface (s : State) (p : Packet) : Option IfaceId :=
  (s.running.find? fun n => ((s.job n).map fun j => j.key.toNat) == some (hKey p.hdr)).map fun n =>
    IfaceId.gang n (BitVec.ofNat 12 (fld (p.word 4) 0 12))

/-- R169: a span summary of another device arrives; with the eighth the decision is taken. -/
def State.summaryIn (s : State) (i : IfaceId) (slot : Nat) (w : Nat) : State :=
  let s := s.updIfc i fun x => { x with hem := x.hem ++ [(slot, HemSummary.ofWord w)] }
  match (s.ifc i).span with
  | some sp => if sp.told && sp.agreed.isNone then s.hemDecide i sp else s
  | none => s

/-- R254, R279: another device of the hem group has completed a command, with the predicate writes of its part. -/
def State.doneIn (s : State) (i : IfaceId) (slot st idx reps preds : Nat) : State :=
  let key := idx + reps * 2 ^ 32
  s.updIfc i fun x =>
    { x with
      hemDone := x.hemDone ++ [(if st = 0 then .acc else .exe, key, slot)]
      hemPreds := if preds = 0 then x.hemPreds else x.hemPreds ++ [(key, slot, BitVec.ofNat 32 preds)] }

/-- R59: sums of a row of another device's part arrive. -/
def State.sumsIn (s : State) (i : IfaceId) (slot : Nat) (p : Packet) : State :=
  let w := p.word 7
  let vals : List DWord := if bitOf w 26 then (upto (fld w 28 4)).map fun k => BitVec.ofNat 64 (p.word (9 + 2 * k) + p.word (10 + 2 * k) * 2 ^ 32)
    else (upto (fld w 28 4)).map fun k => BitVec.ofNat 64 (p.word (9 + k))
  s.updIfc i fun x => { x with hemSums := x.hemSums ++ [{
    slot := BitVec.ofNat 3 slot, key := p.word 5 + p.word 6 * 2 ^ 32, shadow := bitOf w 24, early := bitOf w 25,
    row := fld w 0 24, col := p.word 8, vals := vals }] }

/-- Two halves of one device's copy of one descriptor. -/
def HemCopy.same (a b : HemCopy) : Bool := a.key == b.key && a.gang == b.gang && a.slot == b.slot && a.high == b.high

/-- R61: another device tells half of its copy of a gang's descriptor. It is kept until a job of the key is checked against it;
where one runs already, a half that differs is answered with the own one, so that the other device finds the difference
(log 67). -/
def State.copyIn (s : State) (slot : Nat) (p : Packet) : State :=
  let c : HemCopy :=
    { key := BitVec.ofNat 32 (hKey p.hdr), gang := BitVec.ofNat 12 (fld (p.word 4) 0 12), slot := BitVec.ofNat 3 slot
      high := bitOf (p.word 5) 0, bits := BitVec.ofNat 256 (leNat (p.body.drop 8 |>.take 32)) }
  match firstSome (fun n => (s.job n).filter fun j => j.key == c.key) s.running with
  | some j =>
    if bitOf (p.word 5) 1 || c.bits.toNat == j.ownHalf c.gang.toNat c.high then s
    else (s.tellHalf j c.gang.toNat slot c.high true).pump
  | none => { s with fab := { s.fab with copies := (s.fab.copies.filter fun x => !x.same c) ++ [c] } }

/-- R408: a credit of a destination has come back. -/
def State.creditIn (s : State) (node : Nat) : State :=
  { s with fab := { s.fab with msgOut := s.fab.msgOut.upd 0 node (· - 1) } }.pump

/-- R408: a scheduler message has been taken: its credit goes back (log 21). -/
def State.creditFor (s : State) (p : Packet) : State :=
  s.message (mkPacket 0x20 (hSrc p.hdr) s.physNode (hKey p.hdr) 0 msgCredit 0 false [] [])

/-- R169: SCHED_MSG. A message for a job that does not run here changes nothing but its sender's credit. -/
def execSchedMsg (s : State) : Out :=
  run .schedMsg s fun s => match s.takePacket 2 fun p => hKind p.hdr == 0x20 with
    | none => s
    | some (p, s) =>
      let slot := fld (p.word 4) 16 3
      if hKspec p.hdr = msgCredit then s.creditIn (hSrc p.hdr)
      else
        let s := s.creditFor p
        if hKspec p.hdr = msgCopy then s.copyIn slot p
        else match s.msgIface p with
          | none => s
          | some i =>
            if hKspec p.hdr = msgSummary then s.summaryIn i slot (p.word 5)
            else if hKspec p.hdr = msgDone then s.doneIn i slot (p.word 5) (p.word 6) (p.word 7) (p.word 8)
            else if hKspec p.hdr = msgSums then s.sumsIn i slot p
            else s

/-! ### Fault notes (R408, R584, R585) -/

/-- R584: the pair is among the last 64 seen in the past second. -/
def State.hasSeen (s : State) (origin : BitVec 14) (seq : Word) : Bool :=
  s.fab.seen.any fun e => e.1 == origin && e.2.1 == seq && decide (s.hif.time.toNat < e.2.2 + noteSpan)

/-- R408: entries of Viloth's note queue. -/
def noteQueueMax : Nat := 256

/-- R584, R585: a new note halts the job it names, is queued for Viloth, and goes out through the other ports. -/
def State.noteIn (s : State) (src : Option (Fin 13)) (p : Packet) : State :=
  let origin := BitVec.ofNat 14 (fld (p.word 4) 16 14)
  let seq := BitVec.ofNat 32 (p.word 5)
  if s.hasSeen origin seq then s
  else
    let s := s.sawNote origin seq
    let s := match s.running.find? fun n => ((s.job n).map fun j => j.key.toNat) == some (hKey p.hdr) with
      | some n =>
        let j := (s.job n).getD { ring := 0, entry := 0, desc := 0 }
        let s := if j.halt.isNone then
            s.raise (.sched ((j.cores.head?.map clusterOf).getD 0)) Code.ftRemoteHalt j.key [] else s
        s.stopJob n Code.ftRemoteHalt origin.toNat none
      | none => s
    let s := if s.fab.notes.length < noteQueueMax then { s with fab := { s.fab with notes := s.fab.notes ++ [p] } }
      else s.discard 0xFF 5 p.hdr
    s.floodNote src [p.word 4, p.word 5, p.word 6, p.word 7] (hKey p.hdr)

/-- R584: FAULT_NOTE. -/
def execFaultNote (s : State) : Out :=
  run .faultNote s fun s => match s.fab.noteIn with
    | (src, p) :: r => { s with fab := { s.fab with noteIn := r } }.noteIn src p
    | [] => s

/-! ### Multicast data (R398, R404, R408) -/

/-- R404: MCAST_DATA: the payload is written at ADDR where the key's job allows remote writes there. -/
def execMcastData (s : State) : Out :=
  run .mcastData s fun s => match s.takePacket 2 fun p => hKind p.hdr == 0x22 with
    | none => s
    | some (p, s) =>
      let a := p.addr
      let bs := p.payload
      if !s.serves (hKey p.hdr) .write a bs.length then s
      else match s.poisonPart a bs.length with
        | some l => s.logPoison l (hKey p.hdr)
        | none => (s.put a bs).touch (fun _ => clsBulk) (s.remoteStreams (hKey p.hdr)) true a bs.length

end Sys2Proof.Machine
end

