-- ==== Sys2Proof/Machine/Dispatch.lean ====
section
/-! DEFINITION. The meaning of every command: one arm per constructor of `Instr`. -/

namespace Sys2Proof.Machine

/-- The effect of a command on everything but the queue. -/
def exec (i : Instr) (s : State) : Host.Outcome State Fault Refusal :=
  match i with
  | .nop x st => Sys2Proof.Machine.execNop x st s
  | .wait x st => Sys2Proof.Machine.execWait x st s
  | .genAcquire x st => Sys2Proof.Machine.execGenAcquire x st s
  | .signal x st => Sys2Proof.Machine.execSignal x st s
  | .genRelease x st => Sys2Proof.Machine.execGenRelease x st s
  | .remoteSignal x st => Sys2Proof.Machine.execRemoteSignal x st s
  | .backwardComplete x st => Sys2Proof.Machine.execBackwardComplete x st s
  | .fence x st => Sys2Proof.Machine.execFence x st s
  | .layerBegin x => Sys2Proof.Machine.execLayerBegin x s
  | .layerEnd x st => Sys2Proof.Machine.execLayerEnd x st s
  | .spanCommit x => Sys2Proof.Machine.execSpanCommit x s
  | .layerRepeat x => Sys2Proof.Machine.execLayerRepeat x s
  | .load x => Sys2Proof.Machine.execLoad x s
  | .loadForwardTable x => Sys2Proof.Machine.execLoadForwardTable x s
  | .loadDerivativeTable x => Sys2Proof.Machine.execLoadDerivativeTable x s
  | .store x => Sys2Proof.Machine.execStore x s
  | .atomicAdd x => Sys2Proof.Machine.execAtomicAdd x s
  | .atomicMin x => Sys2Proof.Machine.execAtomicMin x s
  | .atomicMax x => Sys2Proof.Machine.execAtomicMax x s
  | .gather x => Sys2Proof.Machine.execGather x s
  | .scatter x => Sys2Proof.Machine.execScatter x s
  | .mma x => Sys2Proof.Machine.execMma x s
  | .mmaT x => Sys2Proof.Machine.execMmaT x s
  | .mmaOs x => Sys2Proof.Machine.execMmaOs x s
  | .semi x => Sys2Proof.Machine.execSemi x s
  | .tileSlotTake c => Sys2Proof.Machine.execTileSlotTake c s
  | .tileSeqCheck x => Sys2Proof.Machine.execTileSeqCheck x s
  | .pressRow c => Sys2Proof.Machine.execPressRow c s
  | .tileComplete c => Sys2Proof.Machine.execTileComplete c s
  | .carefulRetry c => Sys2Proof.Machine.execCarefulRetry c s
  | .creaseSampleDecide c => Sys2Proof.Machine.execCreaseSampleDecide c s
  | .vrun x => Sys2Proof.Machine.execVrun x s
  | .vadd c => Sys2Proof.Machine.execVadd c s
  | .vsub c => Sys2Proof.Machine.execVsub c s
  | .vmul c => Sys2Proof.Machine.execVmul c s
  | .vfma c => Sys2Proof.Machine.execVfma c s
  | .vfms c => Sys2Proof.Machine.execVfms c s
  | .vdiv c => Sys2Proof.Machine.execVdiv c s
  | .vsqrt c => Sys2Proof.Machine.execVsqrt c s
  | .vmin c => Sys2Proof.Machine.execVmin c s
  | .vmax c => Sys2Proof.Machine.execVmax c s
  | .vabs c => Sys2Proof.Machine.execVabs c s
  | .vneg c => Sys2Proof.Machine.execVneg c s
  | .vsad c => Sys2Proof.Machine.execVsad c s
  | .vexp c => Sys2Proof.Machine.execVexp c s
  | .vmov c => Sys2Proof.Machine.execVmov c s
  | .vmerge c => Sys2Proof.Machine.execVmerge c s
  | .vcmpeq c => Sys2Proof.Machine.execVcmpeq c s
  | .vcmpne c => Sys2Proof.Machine.execVcmpne c s
  | .vcmplt c => Sys2Proof.Machine.execVcmplt c s
  | .vcmple c => Sys2Proof.Machine.execVcmple c s
  | .vand c => Sys2Proof.Machine.execVand c s
  | .vor c => Sys2Proof.Machine.execVor c s
  | .vxor c => Sys2Proof.Machine.execVxor c s
  | .vshl c => Sys2Proof.Machine.execVshl c s
  | .vshr c => Sys2Proof.Machine.execVshr c s
  | .vsra c => Sys2Proof.Machine.execVsra c s
  | .vredsum c => Sys2Proof.Machine.execVredsum c s
  | .vredmax c => Sys2Proof.Machine.execVredmax c s
  | .vredmin c => Sys2Proof.Machine.execVredmin c s
  | .vredsad c => Sys2Proof.Machine.execVredsad c s
  | .vsegsum c => Sys2Proof.Machine.execVsegsum c s
  | .vsegmax c => Sys2Proof.Machine.execVsegmax c s
  | .vsegmin c => Sys2Proof.Machine.execVsegmin c s
  | .vinterp c => Sys2Proof.Machine.execVinterp c s
  | .vext c => Sys2Proof.Machine.execVext c s
  | .vcvt c => Sys2Proof.Machine.execVcvt c s
  | .vpack c => Sys2Proof.Machine.execVpack c s
  | .vunpack c => Sys2Proof.Machine.execVunpack c s
  | .vld c => Sys2Proof.Machine.execVld c s
  | .vst c => Sys2Proof.Machine.execVst c s
  | .vldx c => Sys2Proof.Machine.execVldx c s
  | .vstx c => Sys2Proof.Machine.execVstx c s
  | .vqpop c => Sys2Proof.Machine.execVqpop c s
  | .vqpush c => Sys2Proof.Machine.execVqpush c s
  | .sld c => Sys2Proof.Machine.execSld c s
  | .sst c => Sys2Proof.Machine.execSst c s
  | .beq c => Sys2Proof.Machine.execBeq c s
  | .bne c => Sys2Proof.Machine.execBne c s
  | .blt c => Sys2Proof.Machine.execBlt c s
  | .bge c => Sys2Proof.Machine.execBge c s
  | .bltu c => Sys2Proof.Machine.execBltu c s
  | .bgeu c => Sys2Proof.Machine.execBgeu c s
  | .jump c => Sys2Proof.Machine.execJump c s
  | .jumpRegister c => Sys2Proof.Machine.execJumpRegister c s
  | .add c => Sys2Proof.Machine.execAdd c s
  | .sub c => Sys2Proof.Machine.execSub c s
  | .mul c => Sys2Proof.Machine.execMul c s
  | .andS c => Sys2Proof.Machine.execAndS c s
  | .orS c => Sys2Proof.Machine.execOrS c s
  | .xor c => Sys2Proof.Machine.execXor c s
  | .shl c => Sys2Proof.Machine.execShl c s
  | .shr c => Sys2Proof.Machine.execShr c s
  | .sra c => Sys2Proof.Machine.execSra c s
  | .slt c => Sys2Proof.Machine.execSlt c s
  | .sltu c => Sys2Proof.Machine.execSltu c s
  | .fadd c => Sys2Proof.Machine.execFadd c s
  | .fsub c => Sys2Proof.Machine.execFsub c s
  | .fmul c => Sys2Proof.Machine.execFmul c s
  | .fdiv c => Sys2Proof.Machine.execFdiv c s
  | .fmin c => Sys2Proof.Machine.execFmin c s
  | .fmax c => Sys2Proof.Machine.execFmax c s
  | .flt c => Sys2Proof.Machine.execFlt c s
  | .fle c => Sys2Proof.Machine.execFle c s
  | .feq c => Sys2Proof.Machine.execFeq c s
  | .fsqrt c => Sys2Proof.Machine.execFsqrt c s
  | .cvtIntToFp64 c => Sys2Proof.Machine.execCvtIntToFp64 c s
  | .cvtFp64ToInt c => Sys2Proof.Machine.execCvtFp64ToInt c s
  | .cvtFp32ToFp64 c => Sys2Proof.Machine.execCvtFp32ToFp64 c s
  | .cvtFp64ToFp32 c => Sys2Proof.Machine.execCvtFp64ToFp32 c s
  | .addi c => Sys2Proof.Machine.execAddi c s
  | .andi c => Sys2Proof.Machine.execAndi c s
  | .ori c => Sys2Proof.Machine.execOri c s
  | .xori c => Sys2Proof.Machine.execXori c s
  | .slli c => Sys2Proof.Machine.execSlli c s
  | .srli c => Sys2Proof.Machine.execSrli c s
  | .srai c => Sys2Proof.Machine.execSrai c s
  | .slti c => Sys2Proof.Machine.execSlti c s
  | .scalarUpper c => Sys2Proof.Machine.execScalarUpper c s
  | .mand c => Sys2Proof.Machine.execMand c s
  | .mor c => Sys2Proof.Machine.execMor c s
  | .mxor c => Sys2Proof.Machine.execMxor c s
  | .mandn c => Sys2Proof.Machine.execMandn c s
  | .mnot c => Sys2Proof.Machine.execMnot c s
  | .mpop c => Sys2Proof.Machine.execMpop c s
  | .mfirst c => Sys2Proof.Machine.execMfirst c s
  | .mset c => Sys2Proof.Machine.execMset c s
  | .vend c => Sys2Proof.Machine.execVend c s
  | .setvl c => Sys2Proof.Machine.execSetvl c s
  | .cvtset c => Sys2Proof.Machine.execCvtset c s
  | .psetp c => Sys2Proof.Machine.execPsetp c s
  | .vcond c => Sys2Proof.Machine.execVcond c s
  | .vtbl c => Sys2Proof.Machine.execVtbl c s
  | .vlen c => Sys2Proof.Machine.execVlen c s
  | .vecInstructionRestart c => Sys2Proof.Machine.execVecInstructionRestart c s
  | .solve x => Sys2Proof.Machine.execSolve x s
  | .adjoint x => Sys2Proof.Machine.execAdjoint x s
  | .adjointPattern x => Sys2Proof.Machine.execAdjointPattern x s
  | .patternGradient x => Sys2Proof.Machine.execPatternGradient x s
  | .solveEnd x => Sys2Proof.Machine.execSolveEnd x s
  | .optstep x => Sys2Proof.Machine.execOptstep x s
  | .allReduce x => Sys2Proof.Machine.execAllReduce x s
  | .reduceScatter x => Sys2Proof.Machine.execReduceScatter x s
  | .allGather x => Sys2Proof.Machine.execAllGather x s
  | .allToAll x => Sys2Proof.Machine.execAllToAll x s
  | .collMoveData ch => Sys2Proof.Machine.execCollMoveData ch s
  | .collComplete ch => Sys2Proof.Machine.execCollComplete ch s
  | .backupDeadline ch => Sys2Proof.Machine.execBackupDeadline ch s
  | .collWatchdog ch => Sys2Proof.Machine.execCollWatchdog ch s
  | .collAliveTimer ch => Sys2Proof.Machine.execCollAliveTimer ch s
  | .commandFetch x st => Sys2Proof.Machine.execCommandFetch x st s
  | .commandComplete x st idx => Sys2Proof.Machine.execCommandComplete x st idx s
  | .gangCommandComplete x st idx => Sys2Proof.Machine.execGangCommandComplete x st idx s
  | .speculativeFetch x addr => Sys2Proof.Machine.execSpeculativeFetch x addr s
  | .jobStart ring => Sys2Proof.Machine.execJobStart ring s
  | .jobComplete job => Sys2Proof.Machine.execJobComplete job s
  | .jobHalt job => Sys2Proof.Machine.execJobHalt job s
  | .parityError site rereadOk => Sys2Proof.Machine.execParityError site rereadOk s
  | .darnRecompute site ok => Sys2Proof.Machine.execDarnRecompute site ok s
  | .hbmUncorrectable line => Sys2Proof.Machine.execHbmUncorrectable line s
  | .hbmRefresh stack => Sys2Proof.Machine.execHbmRefresh stack s
  | .quotaWindow stack => Sys2Proof.Machine.execQuotaWindow stack s
  | .rinseScrub tgt found => Sys2Proof.Machine.execRinseScrub tgt found s
  | .bar2Read off len => Sys2Proof.Machine.execBar2Read off len s
  | .bar2Write off data => Sys2Proof.Machine.execBar2Write off data s
  | .postedWriteDrain => Sys2Proof.Machine.execPostedWriteDrain s
  | .mirrorUpdate off => Sys2Proof.Machine.execMirrorUpdate off s
  | .registerWrite w => Sys2Proof.Machine.execRegisterWrite w s
  | .hifRingTail p k v => Sys2Proof.Machine.execHifRingTail p k v s
  | .hifRingCommit p k => Sys2Proof.Machine.execHifRingCommit p k s
  | .hifResetWarm p => Sys2Proof.Machine.execHifResetWarm p s
  | .groupClaim p g => Sys2Proof.Machine.execGroupClaim p g s
  | .groupRelease p g => Sys2Proof.Machine.execGroupRelease p g s
  | .fabRtCommit p => Sys2Proof.Machine.execFabRtCommit p s
  | .routeTableApply => Sys2Proof.Machine.execRouteTableApply s
  | .fabRetrain p ports => Sys2Proof.Machine.execFabRetrain p ports s
  | .bobResumeA p tgt => Sys2Proof.Machine.execBobResumeA p tgt s
  | .bobResumeX p tgt => Sys2Proof.Machine.execBobResumeX p tgt s
  | .bobRelease p tgt => Sys2Proof.Machine.execBobRelease p tgt s
  | .cfgPaceRead => Sys2Proof.Machine.execCfgPaceRead s
  | .memRinseCorrRead => Sys2Proof.Machine.execMemRinseCorrRead s
  | .memRinseUncorrRead => Sys2Proof.Machine.execMemRinseUncorrRead s
  | .fabDiscardCntRead => Sys2Proof.Machine.execFabDiscardCntRead s
  | .fabPortRetryRead port => Sys2Proof.Machine.execFabPortRetryRead port s
  | .fabPortFecRead port => Sys2Proof.Machine.execFabPortFecRead port s
  | .fabPortErrRead port => Sys2Proof.Machine.execFabPortErrRead port s
  | .mgtLintSkipRead => Sys2Proof.Machine.execMgtLintSkipRead s
  | .mgtLintLostRead => Sys2Proof.Machine.execMgtLintLostRead s
  | .cfgFtRereadRead => Sys2Proof.Machine.execCfgFtRereadRead s
  | .cfgFtDarnRead => Sys2Proof.Machine.execCfgFtDarnRead s
  | .mbxWordWrite p n b v => Sys2Proof.Machine.execMbxWordWrite p n b v s
  | .mbxWordRead p n b => Sys2Proof.Machine.execMbxWordRead p n b s
  | .mbxWinWrite p n v => Sys2Proof.Machine.execMbxWinWrite p n v s
  | .mbxWinRead p n => Sys2Proof.Machine.execMbxWinRead p n s
  | .ping n => Sys2Proof.Machine.execPing n s
  | .lintRead n => Sys2Proof.Machine.execLintRead n s
  | .setPolicy n => Sys2Proof.Machine.execSetPolicy n s
  | .powerOff n => Sys2Proof.Machine.execPowerOff n s
  | .restartWarm n => Sys2Proof.Machine.execRestartWarm n s
  | .restartCold n => Sys2Proof.Machine.execRestartCold n s
  | .sensorDump n => Sys2Proof.Machine.execSensorDump n s
  | .info n => Sys2Proof.Machine.execInfo n s
  | .fwBegin n => Sys2Proof.Machine.execFwBegin n s
  | .fwData n => Sys2Proof.Machine.execFwData n s
  | .fwEnd n => Sys2Proof.Machine.execFwEnd n s
  | .fwAbort n => Sys2Proof.Machine.execFwAbort n s
  | .updateSessionTimeout => Sys2Proof.Machine.execUpdateSessionTimeout s
  | .otpSettings n readBackOk => Sys2Proof.Machine.execOtpSettings n readBackOk s
  | .svnCommit n => Sys2Proof.Machine.execSvnCommit n s
  | .nonce n => Sys2Proof.Machine.execNonce n s
  | .debugUnlock n => Sys2Proof.Machine.execDebugUnlock n s
  | .smbReadStatus => Sys2Proof.Machine.execSmbReadStatus s
  | .smbReadTj => Sys2Proof.Machine.execSmbReadTj s
  | .smbReadPower => Sys2Proof.Machine.execSmbReadPower s
  | .smbReadHbmTemp => Sys2Proof.Machine.execSmbReadHbmTemp s
  | .smbReadSetpoint => Sys2Proof.Machine.execSmbReadSetpoint s
  | .smbReadLastCode => Sys2Proof.Machine.execSmbReadLastCode s
  | .smbReadIdentity => Sys2Proof.Machine.execSmbReadIdentity s
  | .smbUnsupported write code => Sys2Proof.Machine.execSmbUnsupported write code s
  | .linkFrameReceive port frame fec => Sys2Proof.Machine.execLinkFrameReceive port frame fec s
  | .portFecLockLoss port => Sys2Proof.Machine.execPortFecLockLoss port s
  | .portTrainingDone port peer reversed => Sys2Proof.Machine.execPortTrainingDone port peer reversed s
  | .packetForward src vc => Sys2Proof.Machine.execPacketForward src vc s
  | .readReq => Sys2Proof.Machine.execReadReq s
  | .write => Sys2Proof.Machine.execWrite s
  | .atomic => Sys2Proof.Machine.execAtomic s
  | .readData => Sys2Proof.Machine.execReadData s
  | .writeAck => Sys2Proof.Machine.execWriteAck s
  | .readRefused => Sys2Proof.Machine.execReadRefused s
  | .fabTimeout txn => Sys2Proof.Machine.execFabTimeout txn s
  | .schedMsg => Sys2Proof.Machine.execSchedMsg s
  | .faultNote => Sys2Proof.Machine.execFaultNote s
  | .mcastData => Sys2Proof.Machine.execMcastData s
  | .collData => Sys2Proof.Machine.execCollData s
  | .credit => Sys2Proof.Machine.execCredit s
  | .count => Sys2Proof.Machine.execCount s
  | .backupDone => Sys2Proof.Machine.execBackupDone s
  | .alive => Sys2Proof.Machine.execAlive s
  | .abort => Sys2Proof.Machine.execAbort s
  | .hbmTempTick temps => Sys2Proof.Machine.execHbmTempTick temps s
  | .vcorePolicyTick r => Sys2Proof.Machine.execVcorePolicyTick r s
  | .vcoreStep => Sys2Proof.Machine.execVcoreStep s
  | .fold cause => Sys2Proof.Machine.execFold cause s
  | .cupboardWritebackDone => Sys2Proof.Machine.execCupboardWritebackDone s
  | .pmbAlert plane r => Sys2Proof.Machine.execPmbAlert plane r s
  | .vauxRise => Sys2Proof.Machine.execVauxRise s
  | .bootRomStart o => Sys2Proof.Machine.execBootRomStart o s
  | .mgtClkRecheck present => Sys2Proof.Machine.execMgtClkRecheck present s
  | .powerGoodRise g => Sys2Proof.Machine.execPowerGoodRise g s
  | .powerGoodTimeout g => Sys2Proof.Machine.execPowerGoodTimeout g s
  | .sequenceRetry => Sys2Proof.Machine.execSequenceRetry s
  | .firmwareLoadDone => Sys2Proof.Machine.execFirmwareLoadDone s
  | .hbmTrainDone stack ok => Sys2Proof.Machine.execHbmTrainDone stack ok s
  | .selfTestDone r => Sys2Proof.Machine.execSelfTestDone r s
  | .jobReady => Sys2Proof.Machine.execJobReady s
  | .powerGoodFall g => Sys2Proof.Machine.execPowerGoodFall g s
  | .pwrFailNFall => Sys2Proof.Machine.execPwrFailNFall s
  | .thermtrip => Sys2Proof.Machine.execThermtrip s
  | .vilothWatchdog => Sys2Proof.Machine.execVilothWatchdog s
  | .rstN lowNs => Sys2Proof.Machine.execRstN lowNs s
  | .flr => Sys2Proof.Machine.execFlr s
  | .perstN kind => Sys2Proof.Machine.execPerstN kind s
  | .resetReady => Sys2Proof.Machine.execResetReady s
  | .refclkMissing clk => Sys2Proof.Machine.execRefclkMissing clk s
  | .lintHubMove => Sys2Proof.Machine.execLintHubMove s
  | .lintFlashWindow => Sys2Proof.Machine.execLintFlashWindow s
  | .bypass => Sys2Proof.Machine.execBypass s
  | .idcode => Sys2Proof.Machine.execIdcode s
  | .samplePreload sampled preload => Sys2Proof.Machine.execSamplePreload sampled preload s
  | .extest => Sys2Proof.Machine.execExtest s
  | .clamp => Sys2Proof.Machine.execClamp s
  | .highz => Sys2Proof.Machine.execHighz s
  | .ideKmRequest r => Sys2Proof.Machine.execIdeKmRequest r s
  | .pciPmStateChange toD3 => Sys2Proof.Machine.execPciPmStateChange toD3 s
  | .pcieLinkUp => Sys2Proof.Machine.execPcieLinkUp s
  | .rstNRelease => Sys2Proof.Machine.execRstNRelease s
  | .vauxFall => Sys2Proof.Machine.execVauxFall s
  | .restartAtPhase2 => Sys2Proof.Machine.execRestartAtPhase2 s
  | .warmWritebackDone => Sys2Proof.Machine.execWarmWritebackDone s
  | .hbmCaParityError stack retryOk => Sys2Proof.Machine.execHbmCaParityError stack retryOk s
  | .pmbusVcoreRead plane r => Sys2Proof.Machine.execPmbusVcoreRead plane r s

end Sys2Proof.Machine
end

