-- ==== Sys2Proof/Safety.lean ====
section
/-! DEFINITION. The terms in which claims about the Twigen are stated: a quiet state, a command that completes, and which
parts of the state a command leaves as they were. -/

namespace Sys2Proof.Machine

/-- Between commands no change to memory waits and no code is on its way to a LAST_CODE field (log 8). -/
def Quiet (s : State) : Prop := s.wlog = [] ∧ s.raised = []

/-- A command answers a next state, and `P` holds of it. -/
def Completes (c : Instr) (s : State) (P : State → Prop) : Prop := ∃ t, exec c s = .next t ∧ P t

/-- The parts of the state. -/
inductive Part where
  | mem
  | free
  | reply
  | cores
  | jobs
  | jobCount
  | ms
  | chans
  | fab
  | hif
  | mbx
  | lint
  | mgt
  | cfg
  | ft
  | pins
  | seq
  | jtag
  deriving DecidableEq, Repr

/-- Two states agree in a part. -/
def Part.same (p : Part) (s t : State) : Prop :=
  match p with
  | .mem => t.mem = s.mem
  | .free => t.free = s.free
  | .reply => t.replySt = s.replySt ∧ t.reply = s.reply
  | .cores => t.cores = s.cores
  | .jobs => t.jobs = s.jobs
  | .jobCount => t.jobCount = s.jobCount
  | .ms => t.ms = s.ms
  | .chans => t.chans = s.chans
  | .fab => t.fab = s.fab
  | .hif => t.hif = s.hif
  | .mbx => t.mbx = s.mbx
  | .lint => t.lint = s.lint
  | .mgt => t.mgt = s.mgt
  | .cfg => t.cfg = s.cfg
  | .ft => t.ft = s.ft
  | .pins => t.pins = s.pins
  | .seq => t.seq = s.seq
  | .jtag => t.jtag = s.jtag

/-- From `s` to `t` the queue and every part but those listed are as they were, and `t` is quiet. -/
def Frame (l : List Part) (s t : State) : Prop := Quiet t ∧ t.pending = s.pending ∧ ∀ p, p ∉ l → p.same s t

/-- Every byte of memory outside `lo` to `hi` - 1 reads as before. -/
def MemOutside (lo hi : Nat) (s t : State) : Prop := ∀ a, a < lo ∨ hi ≤ a → t.mem.get 0 a = s.mem.get 0 a

/-- Bytes to be written from device address `a` up. -/
def bytesFrom (a : Nat) (bs : List Byte) : List (Nat × Byte) := bs.zipIdx.map fun x => (a + x.2, x.1)

/-- The byte at place `p` once the bytes of `ws` have been written at their device addresses, first to last. -/
def storedByte (s : State) (ws : List (Nat × Byte)) (p : Nat) : Byte :=
  match ws.reverse.find? fun x => s.place x.1 == some p with
  | some x => x.2
  | none => s.mem.get 0 p

/-- Memory is what the writes of `ws` make of it: every byte of every place is said. -/
def Stored (s t : State) (ws : List (Nat × Byte)) : Prop := ∀ p, t.mem.get 0 p = storedByte s ws p

/-! ### The vector engine -/

/-- The device address of the instruction that a program begins next (R275). -/
def instrAddr (v : Vec) (x : VRun) : Nat := (v.prog.toNat + 4 * x.next.toNat) % 2 ^ 64

/-- Core `c` runs the program of `x`, whose next instruction can be fetched and is the word `w` (R276). -/
structure VecAt (s : State) (c : CoreRef) (x : VRun) (w : Nat) : Prop where
  run   : (s.core c).vec.run = some x
  idle  : s.darns (.vector c) = false
  fetch : s.denied (.core c) false .fetch (instrAddr (s.core c).vec x) 4 = none
  word  : s.natAt (instrAddr (s.core c).vec x) 4 = w

/-- An engine's registers after an instruction of `x` that goes on at index `to`, with conditions `k` (R306, R308, R311). -/
def Vec.retired (v : Vec) (x : VRun) (k : Conds) (target : DWord) : Vec :=
  { v with
    pc := BitVec.ofNat 32 x.next.toNat
    cond := v.cond ||| BitVec.ofNat 3 k.flags
    run := some { x with next := target, conds := x.conds.plus k, qwait := false } }

/-- Nothing but the vector engine of core `c` has changed, and the line states of the home caches that a fetch or an
access passes. -/
def OnlyVec (s t : State) (c : CoreRef) (v : Vec) : Prop :=
  t.core c = { s.core c with vec := v } ∧ (∀ r, r ≠ c → t.core r = s.core r) ∧ Frame [.cores, .ms] s t ∧
  t.ms = { s.ms with home := t.ms.home }

/-- As `OnlyVec`, with the bytes of `ws` written to memory. -/
def VecStores (s t : State) (c : CoreRef) (v : Vec) (ws : List (Nat × Byte)) : Prop :=
  t.core c = { s.core c with vec := v } ∧ (∀ r, r ≠ c → t.core r = s.core r) ∧ Frame [.cores, .ms, .mem] s t ∧
  t.ms = { s.ms with home := t.ms.home } ∧ Stored s t ws

/-- What scalar register Sn reads as (R269). -/
def sval (v : Vec) (n : Nat) : DWord := if n = 0 then 0 else v.s.get 0 n

/-- Scalar register Sd of the table holds `y` and every other what it held; S0 reads 0 whatever is written (R269). -/
def ScalarIs (v : Vec) (regs : Tab DWord) (d : Nat) (y : DWord) : Prop :=
  ∀ n, n ≠ 0 → regs.get 0 n = if n = d then y else v.s.get 0 n

/-- The row of core `c` ran to its end: nothing but the engine's registers changed, they are `v` with the program going
on at `to` and conditions `k` noted. -/
def Retires (s t : State) (c : CoreRef) (x : VRun) (v : Vec) (k : Conds) (target : DWord) : Prop :=
  OnlyVec s t c (v.retired x k target)

/-- Element `k` of the group at V`n` (R270, R271). -/
def elem (v : Vec) (n k : Nat) : Nat := fld (v.group n v.grp) (v.ew * k) v.ew

/-- Element `k` of operand B: of a group under VV, the low bits of Sb under VS (R284). -/
def elemB (v : Vec) (w k : Nat) : Nat := if wOpc w = 0x02 then fld (sval v (wB w)).toNat 0 v.ew else elem v (wB w) k

/-- Values for the active elements below VL, and none for the others (R281). -/
def onActive {α : Type} (v : Vec) (mk : Nat) (f : Nat → α) : List (Option α) :=
  (upto v.vlN).map fun k => if v.active mk k then some (f k) else none

/-- An access of a vector program passes its checks: a plain device address, aligned to its size, that is not denied (R291,
R293). -/
def accessOk (s : State) (c : CoreRef) (k : Acc) (al a n : Nat) : Prop :=
  plainDev a = true ∧ a % al = 0 ∧ s.denied (.core c) false k a n = none

/-- Bit `b` of the bit string of a register group that begins at V`n` (R270). -/
def groupBit (regs : Tab (BitVec 2048)) (n b : Nat) : Bool := (regs.get 0 (n + b / 2048)).getLsbD (b % 2048)

/-- A group of `g` registers from V`d` holds, in elements of `ew` bits, the values of `ys`; an element that `ys` does not
list, or lists as none, and every other register, holds what it held (R273). -/
def ElemsAre (old new : Tab (BitVec 2048)) (d g ew : Nat) (ys : List (Option Nat)) : Prop :=
  (∀ b, b < 2048 * g → groupBit new d b = match ys[b / ew]? with
    | some (some y) => y.testBit (b % ew)
    | _ => groupBit old d b) ∧
  ∀ n, n < d ∨ d + g ≤ n → new.get 0 n = old.get 0 n

/-- Mask register M`d` holds the bits of `ys` and keeps its bits above them; every other mask register is as it was (R273). -/
def MaskIs (old new : Tab (BitVec 2048)) (d : Nat) (ys : List Bool) : Prop :=
  (∀ k, k < 2048 → (new.get 0 d).getLsbD k = (ys[k]?).getD ((old.get 0 d).getLsbD k)) ∧
  ∀ n, n ≠ d → new.get 0 n = old.get 0 n

/-! ### Streams -/

/-- The head command of a stream is `c`, no later command has been fetched, the stream may begin commands, and its turn has
come: its counters are taken and its predicate is true, or its waits are met, run-ahead allows it, the other stream does not
come first (R236) and its predicate is true (steps 1 to 4 of R231). -/
structure HeadAt (s : State) (i : IfaceId) (st : Strm) (c : BitVec 256) : Prop where
  isOpen : s.open i st = true
  some'  : s.emptyGang i = false
  lone   : ((s.ifc i).strm st).fetched = [c]
  turn   : ((s.ifc i).strm st).taken = some true ∨ (((s.ifc i).strm st).taken = none ∧
    (s.ifc i).waitsMet (cmdWait c) = true ∧ (s.ifc i).ahead st = true ∧ s.yields i st c = false ∧ (s.ifc i).pred c = true)

/-- Token counter Tn once the counters that the head command waits on are taken (step 3 of R231). -/
def tokTaken (x : Iface) (st : Strm) (c : BitVec 256) (n : Nat) : Nat :=
  x.tok n - (if (x.strm st).taken = none ∧ bitOf (cmdWait c) n then 1 else 0)

/-- Token counter Tn once the command has also signalled its SIG counters (R233). -/
def tokDone (x : Iface) (st : Strm) (c : BitVec 256) (n : Nat) : Nat :=
  tokTaken x st c n + (if bitOf (cmdSig c) n then 1 else 0)

/-- No counter that the command signals stands at its end (R237). -/
def SigsFit (x : Iface) (st : Strm) (c : BitVec 256) : Prop := ∀ n, n < 32 → bitOf (cmdSig c) n = true → tokTaken x st c n < 65535

/-- The head command has left the stream; `fl` are then the commands in flight. -/
def Stream.left (t : Stream) (fl : List Flight) : Stream :=
  { t with head := t.head + 1, fetched := [], taken := none, flight := fl }

/-- The flight list with the head command begun, its flight as `u` makes it. No other flight has its index. -/
def Stream.begun (t : Stream) (c : BitVec 256) (now : Nat) (u : Flight → Flight) : List Flight :=
  let new : Flight := { idx := t.head, cmd := c, begunAt := now }
  (t.flight ++ [new]).map fun f => if f.idx = t.head then u f else f

/-- Of all interfaces only `i` has changed, and it is now `y`; cores and jobs keep everything else, but that the job which
holds `i` is changed by `jf`. Parts outside `l` are as they were. -/
def OnlyIfc (l : List Part) (s t : State) (i : IfaceId) (y : Iface) (jf : Job → Job) : Prop :=
  t.ifc i = y ∧ (∀ j, j ≠ i → t.ifc j = s.ifc j) ∧ Frame (.cores :: .jobs :: l) s t ∧
  (∀ r, t.core r = { s.core r with ifc := (t.core r).ifc }) ∧
  ∀ n, match s.job n with
    | none => t.job n = none
    | some j => ∃ g, t.job n = some { (if s.jobNo i = some n then jf j else j) with gangSt := g }

/-- The head command has left its stream with `fl` in flight; its counters are taken and signalled (R231, R233), and
nothing else of its interface has changed but that additions which a repeat of the span keeps may be noted (R239). -/
def Passed (s : State) (i : IfaceId) (st : Strm) (c : BitVec 256) (fl : List Flight) (y : Iface) : Prop :=
  let x := s.ifc i
  (∀ n, n < 32 → y.tok n = tokDone x st c n) ∧
  (x.span = none → y.span = none) ∧ (∀ sp, x.span = some sp → ∃ o, y.span = some { sp with outside := o }) ∧
  y = { x with acc := y.acc, exe := y.exe, tokens := y.tokens, bob := y.bob, span := y.span } ∧
  y.strm st = (x.strm st).left fl ∧ y.strm (otherStrm st) = x.strm (otherStrm st)

/-- A control command has begun and completed at once (R231 to R233): the command-tag timers that match it count it, and no
time (R258). -/
def DoneAtOnce (s : State) (i : IfaceId) (st : Strm) (c : BitVec 256) (y : Iface) : Prop :=
  let t := (s.ifc i).strm st
  Passed s i st c (t.flight.filter fun f => decide (f.idx ≠ t.head)) y ∧
  y.bob = ((s.ifc i).bob.tagBegins (cmdTag c)).tagEnds (cmdTag c) 0

/-- The head command has begun and is in flight, as `u` makes it; its counters are taken (R231), and the command-tag timers
that match it count it (R258). -/
def Begun (s : State) (i : IfaceId) (st : Strm) (c : BitVec 256) (u : Flight → Flight) (y : Iface) : Prop :=
  let x := s.ifc i
  (∀ n, n < 32 → y.tok n = tokTaken x st c n) ∧
  y = { x with acc := y.acc, exe := y.exe, tokens := y.tokens, bob := x.bob.tagBegins (cmdTag c) } ∧
  y.strm st = (x.strm st).left ((x.strm st).begun c s.hif.time.toNat u) ∧ y.strm (otherStrm st) = x.strm (otherStrm st)

/-- A write of `n` bytes from device address `a` has cleared the poison of the lines it covers whole, and of no other (R580). -/
def PoisonCleared (s t : State) (a n : Nat) : Prop :=
  t.ms = { s.ms with home := t.ms.home, poison := t.ms.poison } ∧ t.ft = { s.ft with poison := t.ft.poison } ∧
  ∀ l, t.poisoned l = (s.poisoned l && !(decide (a ≤ 256 * l) && decide (256 * (l + 1) ≤ a + n)))

end Sys2Proof.Machine
end

