-- ==== Sys2Proof/Certificates/Slice0/Obligations.lean ====
section
/-! DEFINITION. The statements for the provers. -/

section Statements

open Sys2Proof Sys2Proof.Machine

/-! ### Scalar instructions of a vector program -/

/-- R303: the integer SR functions, on 64-bit words. -/
def Sys2Proof.scalarInts : List ((CoreRef → Instr) × (DWord → DWord → DWord)) := [
  (.add, fun a b => a + b),
  (.sub, fun a b => a - b),
  (.mul, fun a b => a * b),
  (.andS, fun a b => a &&& b),
  (.orS, fun a b => a ||| b),
  (.xor, fun a b => a ^^^ b),
  (.shl, fun a b => a <<< (b.toNat % 64)),
  (.shr, fun a b => a >>> (b.toNat % 64)),
  (.sra, fun a b => a.sshiftRight (b.toNat % 64)),
  (.slt, fun a b => if a.toInt < b.toInt then 1 else 0),
  (.sltu, fun a b => if a.toNat < b.toNat then 1 else 0)]

/-- R303, R269: an integer SR instruction completes with Sd the function's value on Sa and Sb, a write to S0 discarded, no
condition, and the next instruction to follow; nothing else changes. -/
def Sys2Proof.Says.ScalarIntegerResults : Prop :=
  ∀ s c x w, Quiet s → VecAt s c x w → ∀ p ∈ Sys2Proof.scalarInts, rowOf w c = some (p.1 c) → wMk w = 0 →
    Completes (p.1 c) s fun t => ∃ regs,
      Retires s t c x { (s.core c).vec with s := regs } {} (x.next + 1) ∧
      ScalarIs (s.core c).vec regs (wD w) (p.2 (sval (s.core c).vec (wA w)) (sval (s.core c).vec (wB w)))

/-- R303, R285, R286: the FP64 SR functions: the bits written and the conditions raised, from the values of Sa and Sb. A NaN
operand gives a NaN and no condition; a comparison with one gives 0. -/
def Sys2Proof.scalarFloats : List ((CoreRef → Instr) × (FVal → FVal → Nat × Cnd)) := [
  (.fadd, fun a b => fResult .fp64 [a, b] (a.add b).1 (a.add b).2),
  (.fsub, fun a b => fResult .fp64 [a, b] (a.sub b).1 (a.sub b).2),
  (.fmul, fun a b => fResult .fp64 [a, b] (a.mul b).1 (a.mul b).2),
  (.fdiv, fun a b => ((fResult .fp64 [a, b] (a.div b).1 (a.div b).2.1).1,
    { (fResult .fp64 [a, b] (a.div b).1 (a.div b).2.1).2 with
      ovf := (fResult .fp64 [a, b] (a.div b).1 (a.div b).2.1).2.ovf || (a.div b).2.2 })),
  (.fmin, fun a b => fResult .fp64 [a, b] (a.min b) false),
  (.fmax, fun a b => fResult .fp64 [a, b] (a.max b) false),
  (.fsqrt, fun a _ => fResult .fp64 [a] a.sqrt.1 a.sqrt.2),
  (.flt, fun a b => (b2n (a.lt b), {})),
  (.fle, fun a b => (b2n (a.le b), {})),
  (.feq, fun a b => (b2n (a.eq b), {}))]

/-- R303: an FP64 SR instruction completes with Sd the function's rounded value on Sa and Sb, and its conditions are noted
in VEC_COND and in the program's counts; nothing else changes. -/
def Sys2Proof.Says.ScalarFloatResults : Prop :=
  ∀ s c x w, Quiet s → VecAt s c x w → ∀ p ∈ Sys2Proof.scalarFloats, rowOf w c = some (p.1 c) → wMk w = 0 →
    let r := p.2 (flt64.dec (sval (s.core c).vec (wA w)).toNat) (flt64.dec (sval (s.core c).vec (wB w)).toNat)
    Completes (p.1 c) s fun t => ∃ regs,
      Retires s t c x { (s.core c).vec with s := regs } (condsOf [r.2]) (x.next + 1) ∧
      ScalarIs (s.core c).vec regs (wD w) (BitVec.ofNat 64 r.1)

/-- R303: the scalar conversions: Sd's bits and the conditions, from Sa. FP64 to integer gives 0 and INVALID for a NaN, and
the extreme of its sign and OVERFLOW outside the range. -/
def Sys2Proof.scalarConversions : List ((CoreRef → Instr) × (DWord → Nat × Cnd)) := [
  (.cvtIntToFp64, fun a => flt64.cvt .rne (FVal.ofInt a.toInt)),
  (.cvtFp64ToInt, fun a => match flt64.dec a.toNat with
    | .nan => (0, { inv := true })
    | .inf n => (if n then 2 ^ 63 else 2 ^ 63 - 1, { ovf := true })
    | .fin n m e =>
      if n then
        if 2 ^ 63 < roundInt .rne m e then (2 ^ 63, { ovf := true }) else ((BitVec.ofInt 64 (-(roundInt .rne m e : Int))).toNat, {})
      else if 2 ^ 63 ≤ roundInt .rne m e then (2 ^ 63 - 1, { ovf := true }) else (roundInt .rne m e, {})),
  (.cvtFp32ToFp64, fun a => flt64.cvt .rne (flt32.dec (a.toNat % 2 ^ 32))),
  (.cvtFp64ToFp32, fun a => flt32.cvt .rne (flt64.dec a.toNat))]

/-- R303: a scalar conversion completes with Sd the converted value of Sa; nothing else changes. -/
def Sys2Proof.Says.ScalarConversionResults : Prop :=
  ∀ s c x w, Quiet s → VecAt s c x w → ∀ p ∈ Sys2Proof.scalarConversions, rowOf w c = some (p.1 c) → wMk w = 0 →
    let r := p.2 (sval (s.core c).vec (wA w))
    Completes (p.1 c) s fun t => ∃ regs,
      Retires s t c x { (s.core c).vec with s := regs } (condsOf [r.2]) (x.next + 1) ∧
      ScalarIs (s.core c).vec regs (wD w) (BitVec.ofNat 64 r.1)

/-- R304: the SI functions of Sa and the sign-extended IMM12, and the three shifts by IMM12[5:0]. -/
def Sys2Proof.scalarImms : List ((CoreRef → Instr) × Bool × (DWord → DWord → DWord)) := [
  (.addi, false, fun a b => a + b),
  (.andi, false, fun a b => a &&& b),
  (.ori, false, fun a b => a ||| b),
  (.xori, false, fun a b => a ^^^ b),
  (.slti, false, fun a b => if a.toInt < b.toInt then 1 else 0),
  (.slli, true, fun a b => a <<< (b.toNat % 64)),
  (.srli, true, fun a b => a >>> (b.toNat % 64)),
  (.srai, true, fun a b => a.sshiftRight (b.toNat % 64))]

/-- R304, R280: an SI instruction completes with Sd the function's value on Sa and the immediate; SU completes with Sd =
IMM20 times 2^12, sign-extended. A shift needs IMM12[11:6] = 0. Nothing else changes. -/
def Sys2Proof.Says.ScalarImmediateResults : Prop :=
  ∀ s c x w, Quiet s → VecAt s c x w →
    (∀ p ∈ Sys2Proof.scalarImms, rowOf w c = some (p.1 c) → (p.2.1 = true → fld w 26 6 = 0) →
      Completes (p.1 c) s fun t => ∃ regs,
        Retires s t c x { (s.core c).vec with s := regs } {} (x.next + 1) ∧
        ScalarIs (s.core c).vec regs (wD w)
          (p.2.2 (sval (s.core c).vec (wA w)) ((BitVec.ofNat 12 (fld w 20 12)).signExtend 64))) ∧
    (rowOf w c = some (.scalarUpper c) →
      Completes (.scalarUpper c) s fun t => ∃ regs,
        Retires s t c x { (s.core c).vec with s := regs } {} (x.next + 1) ∧
        ScalarIs (s.core c).vec regs (wD w) ((BitVec.ofNat 20 (fld w 12 20)).signExtend 64 <<< 12))

/-- R282: the branches and the test each makes of Sa and Sb. -/
def Sys2Proof.branchTests : List ((CoreRef → Instr) × (DWord → DWord → Bool)) := [
  (.beq, fun a b => a == b),
  (.bne, fun a b => a != b),
  (.blt, fun a b => decide (a.toInt < b.toInt)),
  (.bge, fun a b => decide (b.toInt ≤ a.toInt)),
  (.bltu, fun a b => decide (a.toNat < b.toNat)),
  (.bgeu, fun a b => decide (b.toNat ≤ a.toNat))]

/-- R282, R303: a branch completes and goes OFF12 instructions on from itself when its test holds, else to the next one; no
register changes. A jump goes OFF20 instructions on from itself, a register jump to instruction Sa as it stood before, and
each writes the index of the next instruction to Sd. -/
def Sys2Proof.Says.BranchAndJumpTargets : Prop :=
  ∀ s c x w, Quiet s → VecAt s c x w →
    (∀ p ∈ Sys2Proof.branchTests, rowOf w c = some (p.1 c) →
      Completes (p.1 c) s fun t => Retires s t c x (s.core c).vec {}
        (if p.2 (sval (s.core c).vec (wBrA w)) (sval (s.core c).vec (wBrB w)) then
          x.next + (BitVec.ofNat 12 (fld w 20 12)).signExtend 64 else x.next + 1)) ∧
    (rowOf w c = some (.jump c) →
      Completes (.jump c) s fun t => ∃ regs,
        Retires s t c x { (s.core c).vec with s := regs } {} (x.next + (BitVec.ofNat 20 (fld w 12 20)).signExtend 64) ∧
        ScalarIs (s.core c).vec regs (wD w) (x.next + 1)) ∧
    (rowOf w c = some (.jumpRegister c) → wMk w = 0 →
      Completes (.jumpRegister c) s fun t => ∃ regs,
        Retires s t c x { (s.core c).vec with s := regs } {} (sval (s.core c).vec (wA w)) ∧
        ScalarIs (s.core c).vec regs (wD w) (x.next + 1))

/-! ### Element, mask and reduction instructions -/

/-- An element instruction of R284: its row, its result and conditions on the values of vd, va and vb in a floating-point
format, its value in an integer format (before it wraps), whether the integer formats are allowed, and whether B must be 0. -/
structure Sys2Proof.ElemRow where
  row  : CoreRef → Instr
  flt  : Fmt → FVal → FVal → FVal → Nat × Cnd
  int  : Int → Int → Int → Int
  ints : Bool
  one  : Bool

/-- R284 to R287: the element instructions. -/
def Sys2Proof.elemRows : List Sys2Proof.ElemRow := [
  ⟨.vadd, fun f _ a b => fResult f [a, b] (a.add b).1 (a.add b).2, fun _ a b => a + b, true, false⟩,
  ⟨.vsub, fun f _ a b => fResult f [a, b] (a.sub b).1 (a.sub b).2, fun _ a b => a - b, true, false⟩,
  ⟨.vmul, fun f _ a b => fResult f [a, b] (a.mul b).1 (a.mul b).2, fun _ a b => a * b, true, false⟩,
  ⟨.vfma, fun f d a b => fResult f [d, a, b] (d.add (a.mul b).1).1 ((a.mul b).2 || (d.add (a.mul b).1).2), fun d _ _ => d, false, false⟩,
  ⟨.vfms, fun f d a b => fResult f [d, a, b] (d.sub (a.mul b).1).1 ((a.mul b).2 || (d.sub (a.mul b).1).2), fun d _ _ => d, false, false⟩,
  ⟨.vdiv, fun f _ a b => ((fResult f [a, b] (a.div b).1 (a.div b).2.1).1,
    { (fResult f [a, b] (a.div b).1 (a.div b).2.1).2 with
      ovf := (fResult f [a, b] (a.div b).1 (a.div b).2.1).2.ovf || (a.div b).2.2 }), fun d _ _ => d, false, false⟩,
  ⟨.vsqrt, fun f _ a _ => fResult f [a] a.sqrt.1 a.sqrt.2, fun d _ _ => d, false, true⟩,
  ⟨.vmin, fun f _ a b => fResult f [a, b] (a.min b) false, fun _ a b => min a b, true, false⟩,
  ⟨.vmax, fun f _ a b => fResult f [a, b] (a.max b) false, fun _ a b => max a b, true, false⟩,
  ⟨.vabs, fun f _ a _ => fResult f [a] a.abs false, fun _ a _ => (a.natAbs : Int), true, true⟩,
  ⟨.vneg, fun f _ a _ => fResult f [a] a.neg false, fun _ a _ => -a, true, true⟩,
  ⟨.vsad, fun f d a b => fResult f [d, a, b] (d.add (a.sub b).1.abs).1 ((a.sub b).2 || (d.add (a.sub b).1.abs).2),
    fun d a b => d + ((a - b).natAbs : Int), true, false⟩,
  ⟨.vexp, fun f _ a _ => fResult f [a] a.exp false, fun d _ _ => d, false, true⟩]

/-- R284: an element's new bits and conditions, from the bits of vd, va and vb. Integer results wrap modulo 2^EW (R287). -/
def Sys2Proof.elemResult (p : Sys2Proof.ElemRow) (f : Fmt) (d a b : Nat) : Nat × Cnd :=
  if f.isInt then
    ((p.int ((BitVec.ofNat f.width d).toInt) ((BitVec.ofNat f.width a).toInt) ((BitVec.ofNat f.width b).toInt)
      % (2 ^ f.width : Nat)).toNat, {})
  else p.flt f (f.dec 0 d) (f.dec 0 a) (f.dec 0 b)

/-- The group operands of an element instruction are aligned and within V0 to V31, and VTYPE.FMT is one that it allows. -/
def Sys2Proof.elemLegal (v : Vec) (w : Nat) (ints one : Bool) : Prop :=
  (v.fmtCode ≤ 3 ∨ (ints = true ∧ (v.fmtCode = 0x0C ∨ v.fmtCode = 0x0D))) ∧
  groupOk (wD w) v.grp = true ∧ groupOk (wA w) v.grp = true ∧
  (if one then wB w = 0 else wOpc w = 0x02 ∨ groupOk (wB w) v.grp = true)

/-- R284, R281, R273: an element instruction completes; every active element of the group at D below VL takes the function's
value on the elements of D, A and B as they stood before, the others stay, and its conditions are those of the active
elements together. No other register, no memory byte and no other part of the machine changes. -/
def Sys2Proof.Says.VectorElementResults : Prop :=
  ∀ s c x w, Quiet s → VecAt s c x w → ∀ p ∈ Sys2Proof.elemRows, rowOf w c = some (p.row c) →
    Sys2Proof.elemLegal (s.core c).vec w p.ints p.one →
    let v := (s.core c).vec
    let r := fun k => Sys2Proof.elemResult p v.fmt (elem v (wD w) k) (elem v (wA w) k) (if p.one then 0 else elemB v w k)
    Completes (p.row c) s fun t => ∃ regs,
      Retires s t c x { v with v := regs } (condsOf ((onActive v (wMk w) fun k => (r k).2).filterMap id)) (x.next + 1) ∧
      ElemsAre v.v regs (wD w) v.grp v.ew (onActive v (wMk w) fun k => (r k).1)

/-- R284: the bitwise and shift instructions on EW bits; a shift is by vb mod EW. -/
def Sys2Proof.bitRows : List ((CoreRef → Instr) × (Nat → Nat → Nat → Nat)) := [
  (.vand, fun _ a b => a &&& b),
  (.vor, fun _ a b => a ||| b),
  (.vxor, fun _ a b => a ^^^ b),
  (.vshl, fun n a b => a * 2 ^ (b % n)),
  (.vshr, fun n a b => a / 2 ^ (b % n)),
  (.vsra, fun n a b => (((BitVec.ofNat n a).toInt / (2 ^ (b % n) : Nat)) % (2 ^ n : Nat)).toNat)]

/-- R284, R281, R273: vmov copies the active elements of A; vmerge picks each element below VL from A where the mask bit is 1
and from B where it is 0; the bitwise and shift instructions act on the bits of the active elements of an integer format.
Each completes, raises no condition and changes nothing but its destination group. -/
def Sys2Proof.Says.VectorBitResults : Prop :=
  ∀ s c x w, Quiet s → VecAt s c x w →
    let v := (s.core c).vec
    groupOk (wD w) v.grp = true → groupOk (wA w) v.grp = true →
    (∀ p ∈ Sys2Proof.bitRows, rowOf w c = some (p.1 c) → (v.fmtCode = 0x0C ∨ v.fmtCode = 0x0D) →
      (wOpc w = 0x02 ∨ groupOk (wB w) v.grp = true) →
      Completes (p.1 c) s fun t => ∃ regs, Retires s t c x { v with v := regs } {} (x.next + 1) ∧
        ElemsAre v.v regs (wD w) v.grp v.ew (onActive v (wMk w) fun k => p.2 v.ew (elem v (wA w) k) (elemB v w k) % 2 ^ v.ew)) ∧
    (rowOf w c = some (.vmov c) → wB w = 0 →
      Completes (.vmov c) s fun t => ∃ regs, Retires s t c x { v with v := regs } {} (x.next + 1) ∧
        ElemsAre v.v regs (wD w) v.grp v.ew (onActive v (wMk w) fun k => elem v (wA w) k)) ∧
    (rowOf w c = some (.vmerge c) → wMk w ≠ 0 → (wOpc w = 0x02 ∨ groupOk (wB w) v.grp = true) →
      Completes (.vmerge c) s fun t => ∃ regs, Retires s t c x { v with v := regs } {} (x.next + 1) ∧
        ElemsAre v.v regs (wD w) v.grp v.ew
          (onActive v 0 fun k => if v.active (wMk w) k then elem v (wA w) k else elemB v w k))

/-- R284, R286: the comparisons: equal, less, and whether a NaN is among the two. -/
def Sys2Proof.cmpRows : List ((CoreRef → Instr) × (FVal → FVal → Bool)) := [
  (.vcmpeq, fun a b => a.eq b),
  (.vcmpne, fun a b => !a.eq b),
  (.vcmplt, fun a b => a.lt b),
  (.vcmple, fun a b => a.eq b || a.lt b)]

/-- R297: the mask functions of two masks, bit by bit. -/
def Sys2Proof.maskRows : List ((CoreRef → Instr) × (Bool → Bool → Bool)) := [
  (.mand, fun a b => a && b),
  (.mor, fun a b => a || b),
  (.mxor, fun a b => a ^^ b),
  (.mandn, fun a b => a && !b)]

/-- Bit `k` of M`n`. -/
def Sys2Proof.mbit (v : Vec) (n k : Nat) : Bool := (v.m.get 0 n).getLsbD k

/-- R284, R297, R273: a comparison writes bit k of M[D], k below VL, with its result where element k is active; the mask
functions write every bit below VL. Bits at VL and above stay, and nothing else changes. mpop and mfirst write Sd with the
number of set bits below VL, and with the lowest of them, or VL where there is none. -/
def Obligations.MaskResults : Prop :=
  ∀ s c x w, Quiet s → VecAt s c x w →
    let v := (s.core c).vec
    let set := fun (row : Instr) (bits : Nat → Bool) =>
      Completes row s fun t => ∃ ms, Retires s t c x { v with m := ms } {} (x.next + 1) ∧
        MaskIs v.m ms (wD w) ((upto v.vlN).map bits)
    (∀ p ∈ Sys2Proof.cmpRows, rowOf w c = some (p.1 c) →
      (v.fmtCode ≤ 3 ∨ v.fmtCode = 0x0C ∨ v.fmtCode = 0x0D) → wD w < 8 → groupOk (wA w) v.grp = true →
      (wOpc w = 0x02 ∨ groupOk (wB w) v.grp = true) →
      set (p.1 c) fun k => if v.active (wMk w) k then p.2 (v.fmt.dec 0 (elem v (wA w) k)) (v.fmt.dec 0 (elemB v w k))
        else Sys2Proof.mbit v (wD w) k) ∧
    (wMk w = 0 → wA w < 8 → wB w < 8 →
      (∀ p ∈ Sys2Proof.maskRows, rowOf w c = some (p.1 c) → wD w < 8 →
        set (p.1 c) fun k => p.2 (Sys2Proof.mbit v (wA w) k) (Sys2Proof.mbit v (wB w) k)) ∧
      (rowOf w c = some (.mnot c) → wD w < 8 → wB w = 0 → set (.mnot c) fun k => !Sys2Proof.mbit v (wA w) k) ∧
      (rowOf w c = some (.mset c) → wD w < 8 → wA w = 0 → wB w = 0 → set (.mset c) fun _ => true) ∧
      (rowOf w c = some (.mpop c) →
        Completes (.mpop c) s fun t => ∃ regs, Retires s t c x { v with s := regs } {} (x.next + 1) ∧
          ScalarIs v regs (wD w) (BitVec.ofNat 64 ((upto v.vlN).countP (Sys2Proof.mbit v (wA w))))) ∧
      (rowOf w c = some (.mfirst c) →
        Completes (.mfirst c) s fun t => ∃ regs, Retires s t c x { v with s := regs } {} (x.next + 1) ∧
          ScalarIs v regs (wD w) (BitVec.ofNat 64 (((upto v.vlN).find? (Sys2Proof.mbit v (wA w))).getD v.vlN))))

/-- R295: the reductions: whether they take pairs, the float result from Sd's value and the active pairs, and the integer one. -/
def Sys2Proof.redRows : List ((CoreRef → Instr) × Bool × (Fmt → FVal → List (FVal × FVal) → Nat × Cnd) × (Int → List (Int × Int) → Int)) := [
  (.vredsum, false, fun f d l => f.result 0 (sumNums (d :: l.map (·.1))).1 (sumNums (d :: l.map (·.1))).2,
    fun d l => (l.map (·.1)).foldl (· + ·) d),
  (.vredmax, false, fun f d l => f.result 0 ((l.map (·.1)).foldl FVal.max d) false, fun d l => (l.map (·.1)).foldl max d),
  (.vredmin, false, fun f d l => f.result 0 ((l.map (·.1)).foldl FVal.min d) false, fun d l => (l.map (·.1)).foldl min d),
  (.vredsad, true, fun f d l => redFloat .sad f [d] l, fun d l => (l.map fun x => ((x.1 - x.2).natAbs : Int)).foldl (· + ·) d)]

/-- R295, R274: a reduction over VL elements, VL above 0, completes with Sd the reduction of its own value and the active
elements: the exact sum rounded once, the largest or the smallest, in the format of VTYPE with the upper bits zero, or for an
integer format a signed 64-bit integer that wraps. With VL = 0 nothing but the program's place changes. -/
def Sys2Proof.Says.ReductionResults : Prop :=
  ∀ s c x w, Quiet s → VecAt s c x w → ∀ p ∈ Sys2Proof.redRows, rowOf w c = some (p.1 c) →
    let v := (s.core c).vec
    (v.fmtCode ≤ 3 ∨ v.fmtCode = 0x0C ∨ v.fmtCode = 0x0D) → groupOk (wA w) v.grp = true →
    (p.2.1 = true → groupOk (wB w) v.grp = true) →
    let on : List (Nat × Nat) := (onActive v (wMk w) fun k => (elem v (wA w) k, if p.2.1 then elem v (wB w) k else 0)).filterMap id
    let d := (sval v (wD w)).toNat
    (v.vlN = 0 → Completes (p.1 c) s fun t => Retires s t c x v {} (x.next + 1)) ∧
    (0 < v.vlN → v.fmt.isInt = true → Completes (p.1 c) s fun t => ∃ regs, Retires s t c x { v with s := regs } {} (x.next + 1) ∧
      ScalarIs v regs (wD w) (BitVec.ofInt 64 (p.2.2.2 (BitVec.ofNat 64 d).toInt
        (on.map fun y => ((BitVec.ofNat v.fmt.width y.1).toInt, (BitVec.ofNat v.fmt.width y.2).toInt))))) ∧
    (0 < v.vlN → v.fmt.isInt = false →
      let r := p.2.2.1 v.fmt (v.fmt.dec 0 (d % 2 ^ v.ew)) (on.map fun y => (v.fmt.dec 0 y.1, v.fmt.dec 0 y.2))
      Completes (p.1 c) s fun t => ∃ regs, Retires s t c x { v with s := regs } (condsOf [r.2]) (x.next + 1) ∧
        ScalarIs v regs (wD w) (BitVec.ofNat 64 r.1))

/-- R296: where the segment of element `k` begins, and where it ends (the index after its last element). -/
def Sys2Proof.segFirst (v : Vec) (mk k : Nat) : Nat :=
  (((upto (k + 1)).filter fun j => j == 0 || (decide (mk ≠ 0) && Sys2Proof.mbit v mk j)).getLast?).getD 0
def Sys2Proof.segEnd (v : Vec) (mk k : Nat) : Nat :=
  ((rangeFrom (k + 1) (v.vlN - (k + 1))).find? fun j => decide (mk ≠ 0) && Sys2Proof.mbit v mk j).getD v.vlN

/-- R296: the segment instructions. -/
def Sys2Proof.segRows : List ((CoreRef → Instr) × RedKind) := [(.vsegsum, .sum), (.vsegmax, .max), (.vsegmin, .min)]

/-- R296, R297: a segment instruction completes; every element below VL takes the total (from +0, rounded once), the largest
or the smallest value of the elements of its own segment. Element 0 starts a segment, and so does an element whose bit of
M[MK] is 1 when MK is not 0; no element is masked, and nothing but the destination group and the conditions changes. -/
def Sys2Proof.Says.SegmentResults : Prop :=
  ∀ s c x w, Quiet s → VecAt s c x w → ∀ p ∈ Sys2Proof.segRows, rowOf w c = some (p.1 c) →
    let v := (s.core c).vec
    (v.fmtCode ≤ 3 ∨ v.fmtCode = 0x0C ∨ v.fmtCode = 0x0D) → groupOk (wD w) v.grp = true → groupOk (wA w) v.grp = true →
    let seg := fun k => (rangeFrom (Sys2Proof.segFirst v (wMk w) k)
      (Sys2Proof.segEnd v (wMk w) k - Sys2Proof.segFirst v (wMk w) k)).map (elem v (wA w))
    let val := fun k => if v.fmt.isInt then
        ofSigned v.fmt.width (redInt p.2 [] ((seg k).map fun a => (toSigned v.fmt.width a, 0)))
      else (redFloat p.2 v.fmt (if p.2 = .sum then [FVal.zero] else []) ((seg k).map fun a => (v.fmt.dec 0 a, FVal.zero))).1
    let cnd := fun k => if v.fmt.isInt then {} else
      (redFloat p.2 v.fmt (if p.2 = .sum then [FVal.zero] else []) ((seg k).map fun a => (v.fmt.dec 0 a, FVal.zero))).2
    Completes (p.1 c) s fun t => ∃ regs, Retires s t c x { v with v := regs }
        (condsOf (((upto v.vlN).filter fun k => Sys2Proof.segFirst v (wMk w) k == k).map cnd)) (x.next + 1) ∧
      ElemsAre v.v regs (wD w) v.grp v.ew (onActive v 0 val)

/-- R284, R298: vext completes with Sd the element of A that Sb numbers, zero-extended, 0 for an index at or above VL; with
VL = 0 Sd stays (R274), and with a masked-off element too (the model's reading, DEDUCED, log 44). vinterp completes with
every active element the value of its table slot's image at that element, and nothing else changes. -/
def Sys2Proof.Says.ExtractAndInterpolate : Prop :=
  ∀ s c x w, Quiet s → VecAt s c x w →
    let v := (s.core c).vec
    let i := (sval v (wB w)).toNat
    groupOk (wA w) v.grp = true →
    (rowOf w c = some (.vext c) →
      ((v.vlN = 0 ∨ (i < v.vlN ∧ v.active (wMk w) i = false)) →
        Completes (.vext c) s fun t => Retires s t c x v {} (x.next + 1)) ∧
      (0 < v.vlN → (i < v.vlN → v.active (wMk w) i = true) →
        Completes (.vext c) s fun t => ∃ regs, Retires s t c x { v with s := regs } {} (x.next + 1) ∧
          ScalarIs v regs (wD w) (if i < v.vlN then BitVec.ofNat 64 (elem v (wA w) i) else 0))) ∧
    (rowOf w c = some (.vinterp c) → v.fmtCode = 1 → groupOk (wD w) v.grp = true → wB w < 4 →
      (v.tbl.get {} (wB w)).valid = true →
      let r := fun k => tableEval flt32 (v.tbl.get {} (wB w)).image (flt32.dec (elem v (wA w) k))
      Completes (.vinterp c) s fun t => ∃ regs,
        Retires s t c x { v with v := regs } (((onActive v (wMk w) fun k => (r k).2).filterMap id).foldl Conds.plus {}) (x.next + 1) ∧
        ElemsAre v.v regs (wD w) v.grp v.ew (onActive v (wMk w) fun k => flt32.enc (r k).1))

/-- R300: registers of vcvt's destination group. -/
def Sys2Proof.cvtRegs (v : Vec) (f : Fmt) : Nat := if v.grp * f.width < v.ew then 1 else v.grp * f.width / v.ew

/-- R300, R299: vcvt completes with each active element of A converted to the format FN - 0x40 in the destination group, each
rounded as CVT_CTL says with the draw of index CVT_IDX + k; CVT_IDX advances by VL whatever the mask holds. Conditions into an
integer format are integer overflows (R308). -/
def Sys2Proof.Says.ConvertResults : Prop :=
  ∀ s c x w, Quiet s → VecAt s c x w → rowOf w c = some (.vcvt c) →
    let v := (s.core c).vec
    let f := fmtOf (wFn w - 0x40)
    let n := Sys2Proof.cvtRegs v f
    (v.fmtCode ≤ 5 ∨ v.fmtCode = 0x0C ∨ v.fmtCode = 0x0D) → n ≤ 8 → groupOk (wD w) n = true → groupOk (wA w) v.grp = true →
    (wD w = wA w ∧ n = v.grp ∨ wD w + n ≤ wA w ∨ wA w + v.grp ≤ wD w) →
    let seed := ((s.jobOf x.owner).map Job.seed).getD 0
    let r := fun k => f.cvt 0 (rndOf v.rnd v.grad seed x.iter.toNat (v.cvtCtl.toNat % 2 ^ 32) ((v.cvtIdx.toNat + k) % 2 ^ 48))
      (v.fmt.dec 0 (elem v (wA w) k))
    let k := condsOf ((onActive v (wMk w) fun k => (r k).2).filterMap id)
    Completes (.vcvt c) s fun t => ∃ regs,
      Retires s t c x { v with v := regs, cvtIdx := v.cvtIdx + BitVec.ofNat 48 v.vlN }
        (if f.isInt then { k with ovf := 0, iovf := k.ovf } else k) (x.next + 1) ∧
      ElemsAre v.v regs (wD w) n f.width (onActive v (wMk w) fun k => (r k).1)

/-- R301: what a block of vpack holds: element numbers, and for each active one how it rounds and its value. -/
def Sys2Proof.packIn (s : State) (v : Vec) (x : VRun) (w b : Nat) : List (Nat × Rnd × FVal) :=
  let seed := ((s.jobOf x.owner).map Job.seed).getD 0
  ((rangeFrom (32 * b) (min 32 (v.vlN - 32 * b))).filter (v.active (wMk w))).map fun k =>
    (k, rndOf v.rnd v.grad seed x.iter.toNat (v.cvtCtl.toNat % 2 ^ 32) ((v.cvtIdx.toNat + k) % 2 ^ 48), v.fmt.dec 0 (elem v (wA w) k))

/-- R301: the converted block: its scale byte, supplied under SCALE_MODE 1, and its active elements in order. -/
def Sys2Proof.packOut (s : State) (v : Vec) (x : VRun) (w b : Nat) : MxBlock :=
  let l := Sys2Proof.packIn s v x w b
  mxConvert (fmtOf (wFn w - 0x50)) (if v.supplied then some (fld (v.group (wB w) 1) (8 * b) 8) else none)
    (l.map (·.2.1)) (l.map (·.2.2))

/-- R301, R299: vpack completes: block by block of 32 elements, the active elements of A are converted together into the MX
format, each active element of the array at D takes its element of the block, a last block is padded to 32 elements with zero
bits (R79), and the low bytes of V[B] take the scale bytes; a block without active elements keeps its elements and its scale
byte, and CVT_IDX advances by VL. vunpack completes with each active element
of D the converted value of the array element of A under its block's scale byte. Nothing else changes. -/
def Sys2Proof.Says.PackAndUnpack : Prop :=
  ∀ s c x w, Quiet s → VecAt s c x w →
    let v := (s.core c).vec
    v.fmtCode ≤ 3 →
    let apart := fun (d n a m : Nat) => d = a ∧ n = m ∨ d + n ≤ a ∨ a + m ≤ d
    (rowOf w c = some (.vpack c) →
      let f := fmtOf (wFn w - 0x50)
      let n := v.arrayRegs f.width
      groupOk (wD w) n = true → groupOk (wA w) v.grp = true → apart (wD w) n (wA w) v.grp → apart (wB w) 1 (wA w) v.grp →
      (v.supplied = true → apart (wD w) n (wB w) 1) →
      let blocks := upto ((v.vlN + 31) / 32)
      let vals := fun k => (((Sys2Proof.packIn s v x w (k / 32)).map (·.1)).zip (Sys2Proof.packOut s v x w (k / 32)).elems).find?
        fun y => y.1 == k
      Completes (.vpack c) s fun t => ∃ mid regs,
        Retires s t c x { v with v := regs, cvtIdx := v.cvtIdx + BitVec.ofNat 48 v.vlN }
          { ovf := (blocks.filter fun b => !(Sys2Proof.packIn s v x w b).isEmpty && (Sys2Proof.packOut s v x w b).ovf).length }
          (x.next + 1) ∧
        ElemsAre v.v mid (wD w) n f.width ((upto (32 * ((v.vlN + 31) / 32))).map fun k =>
          if k < v.vlN then (vals k).map (·.2) else if (Sys2Proof.packIn s v x w (k / 32)).isEmpty then none else some 0) ∧
        ElemsAre mid regs (wB w) 1 8 (blocks.map fun b =>
          if (Sys2Proof.packIn s v x w b).isEmpty then none else some (Sys2Proof.packOut s v x w b).scale)) ∧
    (rowOf w c = some (.vunpack c) →
      let f := fmtOf (wFn w - 0x60)
      let n := v.arrayRegs f.width
      groupOk (wD w) v.grp = true → groupOk (wA w) n = true → apart (wD w) v.grp (wA w) n → apart (wD w) v.grp (wB w) 1 →
      let seed := ((s.jobOf x.owner).map Job.seed).getD 0
      let r := fun k => v.fmt.cvt 0
        (rndOf v.rnd v.grad seed x.iter.toNat (v.cvtCtl.toNat % 2 ^ 32) ((v.cvtIdx.toNat + k) % 2 ^ 48))
        (mxVal f (fld (v.group (wB w) 1) (8 * (k / 32)) 8) (fld (v.group (wA w) n) (f.width * k) f.width))
      Completes (.vunpack c) s fun t => ∃ regs,
        Retires s t c x { v with v := regs, cvtIdx := v.cvtIdx + BitVec.ofNat 48 v.vlN }
          (condsOf ((onActive v (wMk w) fun k => (r k).2).filterMap id)) (x.next + 1) ∧
        ElemsAre v.v regs (wD w) v.grp v.ew (onActive v (wMk w) fun k => (r k).1))

/-! ### System instructions -/

/-- R272, R298, R299, R305: the system instructions complete: setvl sets VTYPE and VL = min(Sa, VLMAX) and writes Sd;
cvtset sets CVT_CTL and CVT_IDX; psetp notes the predicate write; vcond reads VEC_COND and clears it; vlen writes 2,048; vtbl
loads a slot whose image keeps R132. Nothing else changes. -/
def Obligations.SystemInstructions : Prop :=
  ∀ s c x w, Quiet s → VecAt s c x w →
    let v := (s.core c).vec
    (rowOf w c = some (.setvl c) → wB w < 16 → fld w 24 1 = 0 →
      let f := fmtOf (wB w)
      let g := 2 ^ fld w 22 2
      let n := min (sval v (wA w)).toNat (2048 * g / f.width)
      Completes (.setvl c) s fun t => ∃ regs,
        Retires s t c x { v with s := regs, vl := BitVec.ofNat 13 n, vtype := BitVec.ofNat 7 (wB w + 32 * fld w 22 2) } {} (x.next + 1) ∧
        ScalarIs v regs (wD w) (BitVec.ofNat 64 n)) ∧
    (rowOf w c = some (.cvtset c) → wD w = 0 → wMk w = 0 → (sval v (wA w)).toNat < 2 ^ 35 →
      Completes (.cvtset c) s fun t =>
        Retires s t c x { v with cvtCtl := sval v (wA w), cvtIdx := (sval v (wB w)).setWidth 48 } {} (x.next + 1)) ∧
    (rowOf w c = some (.psetp c) → wD w < 16 →
      Completes (.psetp c) s fun t =>
        Retires s t c { x with preds := x.preds ++ [(wD w, decide (sval v (wA w) ≠ 0))] } v {} (x.next + 1)) ∧
    (rowOf w c = some (.vcond c) →
      Completes (.vcond c) s fun t => ∃ regs,
        Retires s t c x { v with s := regs, cond := 0 } {} (x.next + 1) ∧ ScalarIs v regs (wD w) (v.cond.setWidth 64)) ∧
    (rowOf w c = some (.vlen c) →
      Completes (.vlen c) s fun t => ∃ regs,
        Retires s t c x { v with s := regs } {} (x.next + 1) ∧ ScalarIs v regs (wD w) 2048) ∧
    (rowOf w c = some (.vtbl c) → wD w < 4 → accessOk s c .read 1 (sval v (wA w)).toNat 4128 →
      tableGood (leWords (s.bytesAt (sval v (wA w)).toNat 4128)) = true →
      Completes (.vtbl c) s fun t => Retires s t c x
        { v with tbl := v.tbl.set {} (wD w) { valid := true, deriv := false, image := leWords (s.bytesAt (sval v (wA w)).toNat 4128) } }
        {} (x.next + 1))

/-! ### Memory instructions of a vector program -/

/-- R290: the address of element `k` of vld and vst (strided), and of vldx and vstx (a run of 32-bit offsets at B). -/
def Sys2Proof.stridedAddr (v : Vec) (w k : Nat) : Nat :=
  (sval v (wA w) + BitVec.ofNat 64 k * (if wB w = 0 then BitVec.ofNat 64 (v.ew / 8) else sval v (wB w))).toNat
def Sys2Proof.indexedAddr (v : Vec) (w k : Nat) : Nat :=
  (sval v (wA w) + BitVec.ofNat 64 (fld (v.group (wB w) v.runRegs) (32 * k) 32)).toNat

/-- R280: the address of a scalar load or store. -/
def Sys2Proof.scalarAddr (v : Vec) (w : Nat) : Nat :=
  (sval v (wA w) + (BitVec.ofNat 12 (fld w 20 12)).signExtend 64).toNat

/-- R289, R290, R280: the loads complete: with each active element the little-endian number of its EW / 8 bytes in memory, for
elements of whole bytes whose addresses pass their checks; and sld with Sd the zero-extended value of 1, 2, 4 or 8 bytes. They
write no memory and nothing else changes. -/
def Sys2Proof.Says.VectorLoads : Prop :=
  ∀ s c x w, Quiet s → VecAt s c x w →
    let v := (s.core c).vec
    let load := fun (row : Instr) (addr : Nat → Nat) =>
      (∀ k < v.vlN, v.active (wMk w) k = true → accessOk s c .read (v.ew / 8) (addr k) (v.ew / 8)) →
      Completes row s fun t => ∃ regs, Retires s t c x { v with v := regs } {} (x.next + 1) ∧
        ElemsAre v.v regs (wD w) v.grp v.ew (onActive v (wMk w) fun k => s.natAt (addr k) (v.ew / 8))
    (groupOk (wD w) v.grp = true → 8 ≤ v.ew →
      (rowOf w c = some (.vld c) → load (.vld c) (Sys2Proof.stridedAddr v w)) ∧
      (rowOf w c = some (.vldx c) → v.runOk w = true → overlapBad (wD w) v.grp (wB w) v.runRegs = false →
        load (.vldx c) (Sys2Proof.indexedAddr v w))) ∧
    (rowOf w c = some (.sld c) → accessOk s c .read (2 ^ wFn3 w) (Sys2Proof.scalarAddr v w) (2 ^ wFn3 w) →
      Completes (.sld c) s fun t => ∃ regs, Retires s t c x { v with s := regs } {} (x.next + 1) ∧
        ScalarIs v regs (wD w) (BitVec.ofNat 64 (s.natAt (Sys2Proof.scalarAddr v w) (2 ^ wFn3 w))))

/-- R289, R290, R292, R280: the stores complete, for elements of whole bytes whose addresses all pass their checks: memory
is what writing the active elements in ascending order makes of it, so where two name the same bytes the higher index wins;
sst writes the low 1, 2, 4 or 8 bytes of Sd. No register but the program's place changes, and no other byte of memory. -/
def Sys2Proof.Says.VectorStores : Prop :=
  ∀ s c x w, Quiet s → VecAt s c x w →
    let v := (s.core c).vec
    let store := fun (row : Instr) (addr : Nat → Nat) =>
      (∀ k < v.vlN, v.active (wMk w) k = true → accessOk s c .write (v.ew / 8) (addr k) (v.ew / 8)) →
      Completes row s fun t => VecStores s t c (v.retired x {} (x.next + 1))
        (((upto v.vlN).filter (v.active (wMk w))).flatMap fun k => bytesFrom (addr k) (leBytes (v.ew / 8) (elem v (wD w) k)))
    (groupOk (wD w) v.grp = true → 8 ≤ v.ew →
      (rowOf w c = some (.vst c) → store (.vst c) (Sys2Proof.stridedAddr v w)) ∧
      (rowOf w c = some (.vstx c) → v.runOk w = true → store (.vstx c) (Sys2Proof.indexedAddr v w))) ∧
    (rowOf w c = some (.sst c) → accessOk s c .write (2 ^ wFn3 w) (Sys2Proof.scalarAddr v w) (2 ^ wFn3 w) →
      Completes (.sst c) s fun t => VecStores s t c (v.retired x {} (x.next + 1))
        (bytesFrom (Sys2Proof.scalarAddr v w) (leBytes (2 ^ wFn3 w) (sval v (wD w)).toNat)))

/-- R291: whether byte `b` of a packed array holds a bit of an active element. -/
def Sys2Proof.packedHolds (v : Vec) (w b : Nat) : Bool :=
  (upto 8).any fun j => decide ((8 * b + j) / v.ew < v.vlN) && v.active (wMk w) ((8 * b + j) / v.ew)

/-- R291: byte `b` of a packed array as vst writes it: bits of active elements from V[D], of masked-off elements as they stand
in memory, and zero past the last element. -/
def Sys2Proof.packedByte (s : State) (v : Vec) (w a b : Nat) : Byte :=
  (upto 8).foldl (fun (y : Byte) j =>
    let k := (8 * b + j) / v.ew
    let bit := if v.vlN ≤ k then false else if v.active (wMk w) k then (elem v (wD w) k).testBit ((8 * b + j) % v.ew)
      else (s.byteAt (a + b)).getLsbD j
    y ||| (if bit then BitVec.ofNat 8 (2 ^ j) else 0)) 0

/-- R291: the contiguous packed arrays of 4- and 6-bit elements: vld takes each active element from its bits of the byte
string at Sa, and vst writes the bytes that hold active elements, and no other byte of memory. -/
def Sys2Proof.Says.PackedArrays : Prop :=
  ∀ s c x w, Quiet s → VecAt s c x w →
    let v := (s.core c).vec
    let a := (sval v (wA w)).toNat
    let on := (upto ((v.vlN * v.ew + 7) / 8)).filter (Sys2Proof.packedHolds v w)
    v.ew < 8 → groupOk (wD w) v.grp = true → wB w = 0 → a < 2 ^ 61 →
    (rowOf w c = some (.vld c) → (∀ b ∈ on, accessOk s c .read 1 (a + b) 1) →
      Completes (.vld c) s fun t => ∃ regs, Retires s t c x { v with v := regs } {} (x.next + 1) ∧
        ElemsAre v.v regs (wD w) v.grp v.ew
          (onActive v (wMk w) fun k => fld (s.natAt a ((v.vlN * v.ew + 7) / 8)) (v.ew * k) v.ew)) ∧
    (rowOf w c = some (.vst c) → (∀ b ∈ on, accessOk s c .write 1 (a + b) 1) →
      Completes (.vst c) s fun t => VecStores s t c (v.retired x {} (x.next + 1))
        (on.map fun b => (a + b, Sys2Proof.packedByte s v w a b)))

/-! ### Data queues, the start and the end of a vector program -/

/-- Data queue `q` of a core. -/
def Sys2Proof.dqOf (k : Core) (q : Nat) : List QEnt := k.dq.get [] q

/-- No command of the core's access stream waits for entries of queue `q`. -/
def Sys2Proof.noTaker (s : State) (c : CoreRef) (q : Nat) : Prop :=
  ∀ f ∈ (s.ifc (.core c)).acc.flight, f.qsrc = some q → f.qneed = 0

/-- Core `c` after an instruction that moves queue entries: its engine is `v`, queue `q` holds `l`, every other queue what it
held, and of its interface only the flights of the access stream have changed, as `mv` says. -/
def Sys2Proof.queueMoved (s t : State) (c : CoreRef) (v : Vec) (q : Nat) (l : List QEnt) (mv : Flight → Flight) : Prop :=
  let k := s.core c
  (∃ d, t.core c = { k with vec := v, dq := d, ifc := { k.ifc with acc := { k.ifc.acc with flight := k.ifc.acc.flight.map mv } } }) ∧
  (∀ n, Sys2Proof.dqOf (t.core c) n = if n = q then l else Sys2Proof.dqOf k n) ∧
  (∀ r, r ≠ c → t.core r = s.core r) ∧ Frame [.cores, .ms] s t ∧ t.ms = { s.ms with home := t.ms.home }

/-- R294, R249: vqpop of queue 0 or 1 of a core's own program, whose bytes stand in the queue, takes them in order into the
active elements, releases the entries whose last byte it takes, and notes where in the next entry it stands and whether the
last byte lay in a last entry. vqpush to queue 2 or 3, unmasked and with room, appends the elements' bytes: every entry that
they fill enters the queue, and the rest stays in the program's buffer. That a filled entry enters its queue at once, as one
that does not end its group, is the model's choice (DEDUCED, log 44): R294 says only when it enters. -/
def Obligations.VectorQueueInstructions : Prop :=
  ∀ s c x w, Quiet s → VecAt s c x w → x.gang = false →
    let v := (s.core c).vec
    let n := (v.vlN * v.ew + 7) / 8
    let q := wA w
    0 < n → groupOk (wD w) v.grp = true →
    (rowOf w c = some (.vqpop c) → q < 2 →
      let off := if q = 0 then x.off0 else x.off1
      let l := Sys2Proof.dqOf (s.core c) q
      let bytes := (l.take 64).flatMap (·.data)
      (∀ e ∈ l, e.data.length = 512) → off + n ≤ 512 * (l.take 64).length →
      let whole := (off + n) / 512
      let last := (((l.take 64)[(off + n - 1) / 512]?).map (·.last)).getD true
      let x' := if q = 0 then { x with off0 := (off + n) % 512, pop0 := some last } else { x with off1 := (off + n) % 512, pop1 := some last }
      Completes (.vqpop c) s fun t => ∃ regs,
        Sys2Proof.queueMoved s t c ({ v with v := regs }.retired x' {} (x.next + 1)) q (l.drop whole) (fun f => f.moved q whole) ∧
        ElemsAre v.v regs (wD w) v.grp v.ew
          (onActive v (wMk w) fun k => fld (leNat ((bytes.drop off).take n)) (v.ew * k) v.ew)) ∧
    (rowOf w c = some (.vqpush c) → q = 2 ∨ q = 3 → wMk w = 0 →
      let l := Sys2Proof.dqOf (s.core c) q
      let bs := (if q = 2 then x.push2 else x.push3) ++ leBytes n (packElems v.ew 0 ((upto v.vlN).map fun k => elem v (wD w) k))
      let m := bs.length / 512
      l.length + m ≤ 64 → Sys2Proof.noTaker s c q →
      let x' := if q = 2 then { x with push2 := bs.drop (512 * m), any2 := true } else { x with push3 := bs.drop (512 * m), any3 := true }
      Completes (.vqpush c) s fun t => Sys2Proof.queueMoved s t c (v.retired x' {} (x.next + 1)) q
        (l ++ (upto m).map fun k => { data := (bs.drop (512 * k)).take 512, last := false }) id)

/-- R294: vqpop of queue 0 or 1 by a core's own program completes whenever the queue's first 64 entries (only these stand to
be read, DEDUCED, log 44) hold the bytes that it takes, and at once where it takes none: the program goes on, having taken
them, and memory is as it was. -/
def Sys2Proof.Says.QueuePopCompletes : Prop :=
  ∀ s c x w, Quiet s → VecAt s c x w → rowOf w c = some (.vqpop c) → x.gang = false → wA w < 2 →
    let v := (s.core c).vec
    let n := (v.vlN * v.ew + 7) / 8
    let off := if wA w = 0 then x.off0 else x.off1
    groupOk (wD w) v.grp = true → (n = 0 ∨ off + n ≤ 512 * ((Sys2Proof.dqOf (s.core c) (wA w)).take 64).length) →
    ∃ t regs x', exec (.vqpop c) s = .next t ∧ (t.core c).vec = { v with v := regs }.retired x' {} (x.next + 1) ∧
      x' = (if n = 0 then x else if wA w = 0 then { x with off0 := (off + n) % 512, pop0 := x'.pop0 }
        else { x with off1 := (off + n) % 512, pop1 := x'.pop1 }) ∧
      (∀ k, k < wD w ∨ wD w + v.grp ≤ k → regs.get 0 k = v.v.get 0 k) ∧ t.mem = s.mem ∧ ∀ r, r ≠ c → t.core r = s.core r

/-- R294: vqpush to queue 2 or 3 by a core's own program completes, under any mask, whenever the queue has room for the
entries that it fills, and at once where it pushes nothing: the entries have entered the queue, as ones that do not end their
group (DEDUCED, log 44), the rest of its bytes stands in the program's buffer, and the program goes on. -/
def Sys2Proof.Says.QueuePushCompletes : Prop :=
  ∀ s c x w, Quiet s → VecAt s c x w → rowOf w c = some (.vqpush c) → x.gang = false → (wA w = 2 ∨ wA w = 3) →
    let v := (s.core c).vec
    let n := (v.vlN * v.ew + 7) / 8
    let q := wA w
    let old := (if q = 2 then x.push2 else x.push3).length
    let l := Sys2Proof.dqOf (s.core c) q
    groupOk (wD w) v.grp = true → (n = 0 ∨ l.length + (old + n) / 512 ≤ 64) → Sys2Proof.noTaker s c q →
    ∃ t x', exec (.vqpush c) s = .next t ∧ (t.core c).vec = v.retired x' {} (x.next + 1) ∧
      (n = 0 → x' = x ∧ Sys2Proof.dqOf (t.core c) q = l) ∧
      (0 < n → (if q = 2 then x'.push2 else x'.push3).length = (old + n) % 512 ∧ (if q = 2 then x'.any2 else x'.any3) = true ∧
        ∃ es, Sys2Proof.dqOf (t.core c) q = l ++ es ∧ es.length = (old + n) / 512 ∧ ∀ e ∈ es, e.data.length = 512 ∧ e.last = false) ∧
      t.mem = s.mem ∧ ∀ r, r ≠ c → t.core r = s.core r

/-- R294: how `vend` leaves a queue that the program has pushed into: the rest of its buffer, padded with zero bytes, is the
last entry; where the bytes fill whole entries, the newest of them is. -/
def Sys2Proof.groupEnded (any : Bool) (bs : List Byte) (l : List QEnt) : List QEnt :=
  if any = false then l
  else if bs = [] then l.dropLast ++ (l.getLast?.map fun e => { e with last := true }).toList
  else l ++ [{ data := bs ++ List.replicate (512 - bs.length) 0, last := true }]

/-- R275: the state in which a core's engine begins a program: S1 to S5, everything else of the program's state zero. -/
def Sys2Proof.launched (v : Vec) (x : VRun) (prog argA len first member count : Nat) (y : Vec) : Prop :=
  y.run = some x ∧ y.prog = BitVec.ofNat 64 prog ∧ y.v = ⟨[]⟩ ∧ y.m = ⟨[]⟩ ∧ y.tbl = ⟨[]⟩ ∧ y.vl = 0 ∧ y.vtype = 0 ∧
  y.cvtCtl = 0 ∧ y.cvtIdx = 0 ∧ y.cond = 0 ∧ y.halted = false ∧ y.pc = v.pc ∧ y.faultAddr = v.faultAddr ∧
  y.lastCode = v.lastCode ∧
  ∀ n, n ≠ 0 → y.s.get 0 n = BitVec.ofNat 64 (match n with
    | 1 => argA
    | 2 => len
    | 3 => first
    | 4 => member
    | 5 => count
    | _ => 0)

/-- R253: a member's engine is free for a sub-command of interface `i`, and nothing stands before it in the member's Bobbin. -/
def Sys2Proof.subFree (s : State) (i : IfaceId) (r : CoreRef) : Prop :=
  (s.core r).vec.run = none ∧ (s.core r).subs = [] ∧ ∀ t ∈ (s.core r).mng.tiles, t.phase = .input → t.owner ≠ i

/-- R253, R275, R278: a VRUN begins: on a core, whose engine is free, the engine starts at PROG with S1 = ARG_A, S2 = ARG_B,
S3 = 0, S4 = 0 and S5 = 1; on a gang, every member that has a part and is free starts with the length and the first element of
its part, its member index and the member count, and the command waits for as many parts. The sub-command of a member whose
engine is busy stands at the end of the member's Bobbin. -/
def Sys2Proof.Says.VrunBegins : Prop :=
  ∀ s i c, Quiet s → HeadAt s i .exe c → cmdOp c = 0x30 →
    let ps := s.vrunParts i (cmdWord c 7)
    let iter := ((s.jobOf i).map (·.iter)).getD 0
    let idx := (s.ifc i).exe.head
    let run := fun (k : Nat) => ({ owner := i, idx := idx, tag := BitVec.ofNat 16 (cmdTag c), gang := isGang i, place := k, iter := iter } : VRun)
    (∀ p ∈ ps, Sys2Proof.subFree s i p.core ∨ (isGang i = true ∧ (s.core p.core).vec.run.isSome = true)) →
    (ps.map (·.core)).Nodup → ps ≠ [] →
    Completes (.vrun i) s fun t => ∃ y,
      t.ifc i = y ∧ Begun s i .exe c (fun f => { f with fin := false, parts := if isGang i then ps.length else 0 }) y ∧
      (∀ k p, ps[k]? = some p →
        (Sys2Proof.subFree s i p.core → (t.core p.core).subs = [] ∧ Sys2Proof.launched (s.core p.core).vec (run k)
          (cmdAddr c) (cmdDst c) p.len p.first p.member p.count (t.core p.core).vec) ∧
        ((s.core p.core).vec.run.isSome = true → (t.core p.core).vec = (s.core p.core).vec ∧
          (t.core p.core).subs = (s.core p.core).subs ++ [⟨run k, BitVec.ofNat 64 (cmdAddr c), BitVec.ofNat 64 (cmdDst c),
            p.len, p.first, p.member, p.count⟩])) ∧
      (∀ r, (∀ p ∈ ps, p.core ≠ r) → (t.core r).vec = (s.core r).vec ∧ (t.core r).subs = (s.core r).subs) ∧
      (∀ r, (t.core r).mng = (s.core r).mng ∧ (t.core r).dq = (s.core r).dq ∧ (t.core r).iron = (s.core r).iron) ∧
      (∀ r, i = .core r → ps = [{ core := r, len := cmdWord c 7, first := 0, member := 0, count := 1 }]) ∧
      Frame [.cores, .jobs] s t

/-- R276, R241, R294, R308: vend ends a core's program: the engine is free, and the VRUN has finished with the program's
counts and its predicate writes, which take effect when it completes. The rest of the entry in which a queue's popping ended
is discarded; what remains in a push buffer, padded with zero bytes, enters its queue, which has room for it, as a last
entry, and where nothing remains the newest entry becomes the last. That the newest entry can still become the last one,
because entries enter as not last, is the model's reading (DEDUCED, log 44). -/
def Sys2Proof.Says.ProgramEnds : Prop :=
  ∀ s c x w, Quiet s → VecAt s c x w → rowOf w c = some (.vend c) → fld w 7 18 = 0 → x.owner = .core c → x.gang = false →
    x.pop0 ≠ some false → x.pop1 ≠ some false → (s.flightOf (.core c) .exe x.idx).isSome = true →
    let k := s.core c
    (x.push2 ≠ [] → (Sys2Proof.dqOf k 2).length < 64) → (x.any2 = true → Sys2Proof.noTaker s c 2) →
    (x.push3 ≠ [] → (Sys2Proof.dqOf k 3).length < 64) → (x.any3 = true → Sys2Proof.noTaker s c 3) → k.subs = [] →
    let gone := fun (q off : Nat) => if off = 0 then 0 else ((Sys2Proof.dqOf k q).take 1).length
    let mv := fun (f : Flight) =>
      let f := if x.off0 = 0 then f else f.moved 0 (gone 0 x.off0)
      if x.off1 = 0 then f else f.moved 1 (gone 1 x.off1)
    Completes (.vend c) s fun t =>
      (∃ d, t.core c = { k with
        dq := d
        vec := { k.vec with pc := BitVec.ofNat 32 x.next.toNat, run := none }
        ifc := { k.ifc with
          acc := { k.ifc.acc with flight := k.ifc.acc.flight.map mv }
          exe := { k.ifc.exe with flight := k.ifc.exe.flight.map fun f =>
            if f.idx = x.idx then { f with fin := true, conds := f.conds.plus x.conds, preds := x.preds } else f } } }) ∧
      Sys2Proof.dqOf (t.core c) 0 = (Sys2Proof.dqOf k 0).drop (gone 0 x.off0) ∧
      Sys2Proof.dqOf (t.core c) 1 = (Sys2Proof.dqOf k 1).drop (gone 1 x.off1) ∧
      Sys2Proof.dqOf (t.core c) 2 = Sys2Proof.groupEnded x.any2 x.push2 (Sys2Proof.dqOf k 2) ∧
      Sys2Proof.dqOf (t.core c) 3 = Sys2Proof.groupEnded x.any3 x.push3 (Sys2Proof.dqOf k 3) ∧
      (∀ r, r ≠ c → t.core r = s.core r) ∧ Frame [.cores, .ms] s t ∧ t.ms = { s.ms with home := t.ms.home }

/-- R306, R307: a restart of the instruction that a core's engine runs changes nothing but VEC_PC, which names it; on an idle
engine it changes nothing. -/
def Sys2Proof.Says.InstructionRestarts : Prop :=
  ∀ s c, Quiet s →
    Completes (.vecInstructionRestart c) s fun t => OnlyVec s t c (match (s.core c).vec.run with
      | some x => { (s.core c).vec with pc := BitVec.ofNat 32 x.next.toNat }
      | none => (s.core c).vec)

/-- R283, R309, R256: an instruction that no row has, or that its row calls illegal, does not commit: the engine stops with
VEC_PC at it and VEC_ILLEGAL as its last code, no register or byte of memory changes, the VRUN leaves the flight list
uncompleted, and the interface halts naming it. The instances named are a reserved word, fields that must be 0, and a
misaligned group. -/
def Sys2Proof.Says.IllegalInstructionStops : Prop :=
  ∀ s c x w, Quiet s → VecAt s c x w → x.owner = .core c → x.conds = {} → (s.ifc (.core c)).halted = false →
    (∀ f ∈ (s.ifc (.core c)).exe.flight, f.conds = {}) →
    ∀ row ∈ [Instr.vadd c, .vmov c, .vld c, .add c, .mand c, .setvl c, .vend c],
    (rowOf w c = none ∨ (rowOf w c = some row ∧
      ((row = .vadd c ∧ groupOk (wD w) (s.core c).vec.grp = false) ∨ (row = .vmov c ∧ wB w ≠ 0) ∨
        (row = .vld c ∧ groupOk (wD w) (s.core c).vec.grp = false) ∨ (row = .add c ∧ wMk w ≠ 0) ∨ (row = .mand c ∧ 8 ≤ wA w) ∨
        (row = .setvl c ∧ 16 ≤ wB w) ∨ (row = .vend c ∧ fld w 7 18 ≠ 0)))) →
    Completes row s fun t =>
      let v := (s.core c).vec
      (t.core c).vec = { v with pc := BitVec.ofNat 32 x.next.toNat, halted := true, run := none, lastCode := 0x0780#16 } ∧
      (t.ifc (.core c)).halted = true ∧ (t.ifc (.core c)).bob.lastCode = 0x0780#16 ∧
      (t.ifc (.core c)).bob.haltIdx = BitVec.ofNat 32 x.idx ∧
      (t.ifc (.core c)).exe.flight = (s.ifc (.core c)).exe.flight.filter (fun f => decide (f.idx ≠ x.idx)) ∧
      (t.ifc (.core c)).tokens = (s.ifc (.core c)).tokens ∧ (t.ifc (.core c)).preds = (s.ifc (.core c)).preds ∧
      t.mem = s.mem ∧ ∀ r, r ≠ c → t.core r = s.core r

/-! ### Control commands of a stream -/

/-- R224, R226: the control commands that begin and complete at once, with the test of their 32 bytes. -/
def Sys2Proof.atOnce : List ((IfaceId → Strm → Instr) × (BitVec 256 → Bool)) := [
  (.nop, fun c => cmdOp c == 0x00),
  (.wait, fun c => cmdOp c == 0x01 && cmdForm c == 0),
  (.signal, fun c => cmdOp c == 0x02 && cmdForm c == 0)]

/-- R231 to R233: NOP, WAIT and SIGNAL at the head of a stream, their turn come, take the counters of WAIT, complete and add
one to the counters of SIG; nothing else changes. A FENCE does the same when nothing before it in the stream is in flight,
and else begins and stays in flight. -/
def Sys2Proof.Says.ControlCommands : Prop :=
  ∀ s i st c, Quiet s → HeadAt s i st c → SigsFit (s.ifc i) st c →
    (∀ p ∈ Sys2Proof.atOnce, p.2 c = true → Completes (p.1 i st) s fun t => ∃ y, DoneAtOnce s i st c y ∧ OnlyIfc [] s t i y id) ∧
    (cmdOp c = 0x03 → ((s.ifc i).strm st).flight = [] →
      Completes (.fence i st) s fun t => ∃ y, DoneAtOnce s i st c y ∧ OnlyIfc [] s t i y id) ∧
    (cmdOp c = 0x03 → (∀ f ∈ ((s.ifc i).strm st).flight, cmdOp f.cmd ≠ 0x03) → ((s.ifc i).strm st).flight ≠ [] →
      Completes (.fence i st) s fun t => ∃ y, Begun s i st c id y ∧ OnlyIfc [] s t i y id)

/-- R243: a head command whose predicate is false, its waits met, is skipped: it leaves its stream and signals its SIG
counters, but has no other effect, whatever control command or transfer it is. -/
def Sys2Proof.Says.SkippedCommands : Prop :=
  ∀ s i st c, Quiet s → s.open i st = true → ((s.ifc i).strm st).fetched = [c] → ((s.ifc i).strm st).taken = none →
    (s.ifc i).waitsMet (cmdWait c) = true → (s.ifc i).ahead st = true → s.yields i st c = false →
    (s.ifc i).pred c = false → SigsFit (s.ifc i) st c →
    ∀ p ∈ Sys2Proof.atOnce ++ [(.fence, fun c => cmdOp c == 0x03), (fun i _ => .load i, fun c => cmdOp c == 0x10 && cmdXop c == 0),
      (fun i _ => .store i, fun c => cmdOp c == 0x11 && cmdXop c == 0), (.genAcquire, fun c => cmdOp c == 0x01 && cmdForm c == 1)],
      p.2 c = true → (cmdOp c = 0x10 ∨ cmdOp c = 0x11 → st = .acc) →
      (((s.ifc i).strm st).flight.all fun f => cmdOp f.cmd != 0x03 && !f.isAcquire) = true →
      Completes (p.1 i st) s fun t => ∃ y, Passed s i st c ((s.ifc i).strm st).flight y ∧
        y.bob = (s.ifc i).bob ∧ OnlyIfc [] s t i y id

/-- R206, R207, R208: a generation acquire of a generation that is present, not retiring and below 65,535 references
completes with one reference more in its slot; in a span the slot is noted for a repeat. A release outside a span of a
generation with a reference completes with one fewer; in a span the release is kept for the commit. An acquire of a
generation above the current one begins and stays in flight. No earlier acquire of the stream waits. -/
def Obligations.GenerationReferences : Prop :=
  ∀ s i st c e, Quiet s → HeadAt s i st c → SigsFit (s.ifc i) st c → s.genEnt i (cmdTarget c) = some e →
    (∀ f ∈ ((s.ifc i).strm st).flight, f.isAcquire = false) →
    (∀ sl, cmdOp c = 0x01 → cmdForm c = 1 → e.slotWith (fun g => g == BitVec.ofNat 32 (cmdGen c)) = some sl →
      e.retiring sl = false → e.refs sl < 65535 →
      Completes (.genAcquire i st) s fun t => ∃ y z,
        DoneAtOnce s i st c y ∧ z = y.span.map (fun sp => { sp with acquired := sp.acquired ++ [(cmdTarget c, sl)] }) ∧
        OnlyIfc [] s t i { y with span := z }
          fun j => { j with gens := setNth j.gens (cmdTarget c) (e.setRefs sl (e.refs sl + 1)) }) ∧
    (∀ sl, cmdOp c = 0x02 → cmdForm c = 1 → e.slotWith (fun g => g == BitVec.ofNat 32 (cmdGen c)) = some sl →
      0 < e.refs sl →
      ((s.ifc i).span = none → Completes (.genRelease i st) s fun t => ∃ y, DoneAtOnce s i st c y ∧
        OnlyIfc [] s t i y fun j => { j with gens := setNth j.gens (cmdTarget c) (e.setRefs sl (e.refs sl - 1)) }) ∧
      ((s.ifc i).span.isSome = true → Completes (.genRelease i st) s fun t => ∃ y z,
        DoneAtOnce s i st c y ∧
        z = y.span.map (fun sp => { sp with released := sp.released ++ [(cmdTarget c, BitVec.ofNat 32 (cmdGen c))] }) ∧
        OnlyIfc [] s t i { y with span := z } id)) ∧
    (cmdOp c = 0x01 → cmdForm c = 1 → e.slotWith (fun g => g == BitVec.ofNat 32 (cmdGen c)) = none → e.current.toNat < cmdGen c →
      Completes (.genAcquire i st) s fun t => ∃ y, Begun s i st c id y ∧ OnlyIfc [] s t i y id)

/-- R206: a generation acquire that waits in flight completes once its generation is present, not retiring and below 65,535
references: its slot has one reference more, a span notes the slot, the command-tag timers take the time since it began, its
SIG counters are signalled and it leaves the flight list. Nothing else stands in the stream. -/
def Sys2Proof.Says.AcquireWaits : Prop :=
  ∀ s i st f e sl, Quiet s → ((s.ifc i).strm st).flight = [f] → ((s.ifc i).strm st).fetched = [] → f.isAcquire = true →
    f.preds = [] → (s.ifc i).halted = false →
    s.genEnt i (cmdTarget f.cmd) = some e → e.slotWith (fun g => g == BitVec.ofNat 32 (cmdGen f.cmd)) = some sl →
    e.retiring sl = false → e.refs sl < 65535 →
    (∀ n, n < 32 → bitOf (cmdSig f.cmd) n = true → (s.ifc i).tok n < 65535) →
    Completes (.genAcquire i st) s fun t => ∃ y,
      (∀ n, n < 32 → y.tok n = (s.ifc i).tok n + (if bitOf (cmdSig f.cmd) n then 1 else 0)) ∧
      y.bob = (s.ifc i).bob.tagEnds (cmdTag f.cmd) (s.hif.time.toNat - f.begunAt) ∧
      (y.strm st).flight = [] ∧ y.strm (otherStrm st) = (s.ifc i).strm (otherStrm st) ∧
      ((s.ifc i).span = none → y.span = none) ∧
      (∀ sp, (s.ifc i).span = some sp → ∃ z, y.span = some z ∧ z.acquired = sp.acquired ++ [(cmdTarget f.cmd, sl)]) ∧
      OnlyIfc [] s t i y fun j => { j with gens := setNth j.gens (cmdTarget f.cmd) (e.setRefs sl (e.refs sl + 1)) }

/-- R226, R233, R238, R239: a remote SIGNAL completes as a control command and adds one to the token counter it names of a
top-level interface of its job, its own included. -/
def Sys2Proof.Says.RemoteSignals : Prop :=
  ∀ s i st c tgt, Quiet s → HeadAt s i st c → SigsFit (s.ifc i) st c → cmdOp c = 0x02 → cmdForm c = 2 →
    s.remoteTarget i c = some tgt → (s.ifc tgt).tok (cmdToken c) < 65535 →
    (tgt = i → tokDone (s.ifc i) st c (cmdToken c) < 65535) →
    Completes (.remoteSignal i st) s fun t => Frame [.cores, .jobs] s t ∧
      (∀ n, n < 32 → (t.ifc i).tok n = tokDone (s.ifc i) st c n + (if tgt = i ∧ n = cmdToken c then 1 else 0)) ∧
      ((t.ifc i).strm st).head = ((s.ifc i).strm st).head + 1 ∧
      (tgt ≠ i → ∀ n, n < 32 → (t.ifc tgt).tok n = (s.ifc tgt).tok n + (if n = cmdToken c then 1 else 0)) ∧
      (∀ j, j ≠ i → j ≠ tgt → t.ifc j = s.ifc j) ∧
      ∀ j, (t.ifc j).preds = (s.ifc j).preds ∧ (t.ifc j).halted = (s.ifc j).halted

/-- R422, R100: a SIGNAL of form 3 completes as a control command and counts one contribution of the job: at BC_NEED of them
ITER advances by one and the count restarts, else the count advances by one. -/
def Sys2Proof.Says.BackwardContributions : Prop :=
  ∀ s i st c n j, Quiet s → HeadAt s i st c → SigsFit (s.ifc i) st c → cmdOp c = 0x02 → cmdForm c = 3 →
    s.jobNo i = some n → s.job n = some j →
    Completes (.backwardComplete i st) s fun t => ∃ y, DoneAtOnce s i st c y ∧
      OnlyIfc [] s t i y fun j => if j.bcCount.toNat + 1 = j.bcNeed then { j with bcCount := 0, iter := j.iter + 1 }
        else { j with bcCount := j.bcCount + 1 }

/-! ### Layer spans -/

/-- R152: both streams stand at LAYER_BEGIN of one descriptor at `a`, nothing of the interface is in flight. -/
def Sys2Proof.atLayerBegin (s : State) (i : IfaceId) (ca cx : BitVec 256) : Prop :=
  HeadAt s i .acc ca ∧ HeadAt s i .exe cx ∧ cmdOp ca = 0x04 ∧ cmdOp cx = 0x04 ∧ cmdAddr ca = cmdAddr cx ∧
  (s.ifc i).quiet = true ∧ (∀ n, (s.ifc i).tok n < 65000)

/-- The layer descriptor of a span, which the scheduler may read and which is well formed (R159). -/
def Sys2Proof.layerReadable (s : State) (i : IfaceId) (a : Nat) (d : BitVec 256) : Prop :=
  plainDev a = true ∧ a % 32 = 0 ∧ s.denied i false .read a 32 = none ∧ d = BitVec.ofNat 256 (s.natAt a 32) ∧ layerBad d = false ∧
  s.denied i false .read (layerState d) 32 = none

/-- R152, R153, R160, R161: LAYER_BEGIN takes effect once both streams have come to it: the span runs at the rung of its state
record, or at the rung of a pending request that it may take, which the record then holds as applied; the snapshot holds the
interface's tokens, predicates, tile counter and both positions. This is said of a layer without patches. -/
def Sys2Proof.Says.LayerBeginTakesEffect : Prop :=
  ∀ s i ca cx d, Quiet s → Sys2Proof.atLayerBegin s i ca cx → Sys2Proof.layerReadable s i (cmdAddr ca) d → layerPatches d = 0 →
    let r := layerState d
    let w0 := s.natAt r 4
    let w1 := s.natAt (r + 4) 4
    let asked := fld w1 8 8 ≠ recApplied w0
    (asked → fld w1 0 3 ≤ layerMaxRung d ∧ fld w1 3 5 = 0 ∧ fld w1 16 16 = 0 ∧ s.denied i false .write r 4 = none) →
    Completes (.layerBegin i) s fun t => ∃ sp,
      (t.ifc i).span = some sp ∧ sp.addr.toNat = cmdAddr ca ∧ sp.desc = d ∧ sp.repeats = 0 ∧ sp.got = [] ∧
      sp.rung = (if fld w1 8 8 = recApplied w0 then recRung w0 else fld w1 0 3) ∧
      sp.snap.tokens = (t.ifc i).tokens ∧ sp.snap.preds = (s.ifc i).preds ∧ sp.snap.seq = (s.ifc i).seq ∧
      sp.snap.crease = (s.ifc i).crease ∧ sp.snap.posA = (s.ifc i).acc.head ∧ sp.snap.posX = (s.ifc i).exe.head ∧
      (t.ifc i).acc.head = (s.ifc i).acc.head + 1 ∧ (t.ifc i).exe.head = (s.ifc i).exe.head + 1 ∧
      (t.ifc i).preds = (s.ifc i).preds ∧ (t.ifc i).halted = false ∧
      (∀ j, j ≠ i → t.ifc j = s.ifc j) ∧ Frame [.cores, .jobs, .mem, .ms] s t ∧ t.ms = { s.ms with home := t.ms.home } ∧
      Stored s t (if fld w1 8 8 = recApplied w0 then [] else
        bytesFrom r (leBytes 4 (fld w1 0 3 + fld w1 8 8 * 2 ^ 8 + fld w0 16 4 * 2 ^ 16)))

/-- R163, R164: LAYER_BEGIN at a rung other than the one at which the layer's patches were last applied in the job writes the
rung's word of every patch at its address, and notes the rung. -/
def Sys2Proof.Says.LayerPatchesApplied : Prop :=
  ∀ s i ca cx d n j, Quiet s → Sys2Proof.atLayerBegin s i ca cx → Sys2Proof.layerReadable s i (cmdAddr ca) d →
    s.jobNo i = some n → s.job n = some j →
    fld (s.natAt (layerState d + 4) 4) 8 8 = recApplied (s.natAt (layerState d) 4) →
    let rung := recRung (s.natAt (layerState d) 4)
    let recs := (upto (layerPatches d)).map fun k => s.natAt (layerPatchAddr d + 32 * k) 32
    0 < layerPatches d → j.rungs.get 0 (layerId d) ≠ rung →
    s.denied i false .read (layerPatchAddr d) (32 * layerPatches d) = none →
    (∀ p ∈ recs, plainDev (dwordAt p 0) = true ∧ dwordAt p 0 % 4 = 0 ∧ s.denied i false .write (dwordAt p 0) 4 = none) →
    Completes (.layerBegin i) s fun t =>
      (∃ sp, (t.ifc i).span = some sp ∧ sp.rung = rung ∧ sp.desc = d) ∧
      Stored s t (recs.flatMap fun p => bytesFrom (dwordAt p 0) (leBytes 4 (wordAt p (2 + rung)))) ∧
      (∃ k, t.job n = some k ∧ k.rungs.get 0 (layerId d) = rung ∧ k.gens = j.gens ∧ k.iter = j.iter) ∧
      Frame [.cores, .jobs, .mem, .ms] s t ∧ t.ms = { s.ms with home := t.ms.home }

/-- R154, R231: LAYER_END at the head of a stream, its turn come, begins: the span notes it, and it stays in flight until the
commit. -/
def Sys2Proof.Says.LayerEndWaits : Prop :=
  ∀ s i st c sp, Quiet s → HeadAt s i st c → cmdOp c = 0x05 → (s.ifc i).span = some sp →
    Completes (.layerEnd i st) s fun t => ∃ y, Begun s i st c id y ∧
      OnlyIfc [] s t i { y with span := some (match st with
        | .acc => { sp with endA := true }
        | .exe => { sp with endX := true }) } id

/-- R168: the job of a core interface holds the codes of the span's status beside its own, and nothing else of any job has
changed. -/
def Sys2Proof.jobsAtCommit (s t : State) (c : CoreRef) (sp : Span) : Prop :=
  ∀ n, t.job n = if s.jobNo (.core c) = some n then
      (s.job n).map fun j => { j with code := sp.status.foldl mergeCode j.code }
    else s.job n

/-- R154, R158, R160, R168: a span whose two LAYER_END are in flight and whose other commands have all completed, without
INVALID, overflow or a disagreeing Crease sample, commits on a core interface: its state record holds the rung and the
repeats and the four counts of the span, the staged norm and conversion-error sums of the core are added to their slots, the
codes of its status, the notices of the attempt that commits, reach the job (the model's choice, log 55; R168 gives no such
field), and the span is over; both LAYER_END complete. -/
def Sys2Proof.Says.SpanCommits : Prop :=
  ∀ s c sp fa fx, Quiet s → (s.ifc (.core c)).span = some sp → s.atCommit (.core c) sp = true →
    (s.ifc (.core c)).acc.flight = [fa] → (s.ifc (.core c)).exe.flight = [fx] → fa.preds = [] → fx.preds = [] →
    (∀ n, (s.ifc (.core c)).tok n < 65000) →
    (∀ d ∈ sp.got, d.conds.inv = 0 ∧ d.overflows = false ∧ d.intOverflow = false) → sp.groupInv = false →
    sp.disagree = 0 → sp.released = [] →
    let r := layerState sp.desc
    let mx := 0xFFFFFFFF
    r % 32 = 0 → plainDev r = true →
    s.denied (.core c) false .read r 32 = none → s.denied (.core c) false .write r 4 = none →
    s.denied (.core c) false .write (r + 8) 24 = none →
    let m := (s.core c).mng
    Completes (.spanCommit (.core c)) s fun t =>
      (t.ifc (.core c)).span = none ∧
      (t.ifc (.core c)).acc = { (s.ifc (.core c)).acc with flight := [] } ∧
      (t.ifc (.core c)).exe = { (s.ifc (.core c)).exe with flight := [] } ∧
      (∀ n, n < 32 → (t.ifc (.core c)).tok n = (s.ifc (.core c)).tok n + (if bitOf (cmdSig fa.cmd) n then 1 else 0) +
        (if bitOf (cmdSig fx.cmd) n then 1 else 0)) ∧
      (t.ifc (.core c)).halted = (s.ifc (.core c)).halted ∧
      Stored s t (
        bytesFrom r (leBytes 4 (sp.rung + recApplied (s.natAt r 4) * 2 ^ 8 + sp.repeats * 2 ^ 16)) ++
        bytesFrom (r + 12) (leBytes 4 (min mx (s.natAt (r + 12) 4 + sp.sampled))) ++
        bytesFrom (r + 16) (leBytes 4 (min mx (s.natAt (r + 16) 4 + sp.disagree))) ++
        bytesFrom (r + 20) (leBytes 4 (min mx (s.natAt (r + 20) 4 + sp.got.countP fun d => decide (0 < d.scaled)))) ++
        bytesFrom (r + 24) (leBytes 4 (worse (BitVec.ofNat 32 (s.natAt (r + 24) 4)) sp.worst).toNat) ++
        bytesFrom (r + 28) (leBytes 4 (min mx (s.natAt (r + 28) 4 + sp.skipped)))) ∧
      (∀ k, (t.core c).mng.norm.get 0 k =
        if m.stNorm.keys.contains k then add64 (m.norm.get 0 k) (m.stNorm.get 0 k) else m.norm.get 0 k) ∧
      (∀ k, (t.core c).mng.cerr.get {} k =
        if m.stCerr.keys.contains k then (m.cerr.get {} k).add (m.stCerr.get {} k) else m.cerr.get {} k) ∧
      (t.core c).mng = { m with norm := (t.core c).mng.norm, cerr := (t.core c).mng.cerr, stNorm := ⟨[]⟩, stCerr := ⟨[]⟩ } ∧
      (∀ q, q ≠ c → t.core q = s.core q) ∧ Sys2Proof.jobsAtCommit s t c sp ∧
      Frame [.cores, .jobs, .mem, .ms] s t ∧ t.ms = { s.ms with home := t.ms.home }

/-- R167, R153, R166: a span that an overflow has stopped, its commands in flight completed, repeats on a core interface at
the next rung that its overflows ask for, MAX_RUNG allowing: the interface stands again as the snapshot holds it, the tokens
that came from outside the span added, at the command after LAYER_BEGIN with nothing fetched; its queues are empty and its
staged sums dropped; the state record holds the new rung and one repeat more. This is said of a layer without patches. -/
def Sys2Proof.Says.SpanRepeats : Prop :=
  ∀ s c sp, Quiet s → (s.ifc (.core c)).span = some sp → s.atRepeat (.core c) sp = true → sp.newRung ≤ layerMaxRung sp.desc →
    layerPatches sp.desc = 0 → sp.acquired = [] →
    let r := layerState sp.desc
    r % 32 = 0 → plainDev r = true →
    s.denied (.core c) false .read r 32 = none → s.denied (.core c) false .write r 12 = none →
    Completes (.layerRepeat (.core c)) s fun t =>
      let x := s.ifc (.core c)
      let y := t.ifc (.core c)
      (∃ z, y.span = some z ∧ z.rung = sp.newRung ∧ z.repeats = sp.repeats + 1 ∧ z.got = [] ∧ z.stopped = false ∧
        z.endA = false ∧ z.endX = false ∧ z.snap = sp.snap ∧ z.desc = sp.desc) ∧
      (∀ n, n < 32 → y.tok n = min 65535 ((sp.snap.tokens.get 0 n).toNat + sp.outside.get 0 n)) ∧
      y.preds = sp.snap.preds ∧ y.seq = sp.snap.seq ∧ y.crease = sp.snap.crease ∧ y.store = [] ∧
      y.acc = { x.acc with head := sp.snap.posA + 1, fetched := [], taken := none, flight := [], broken := false } ∧
      y.exe = { x.exe with head := sp.snap.posX + 1, fetched := [], taken := none, flight := [], broken := false } ∧
      (t.core c).dq = ⟨[]⟩ ∧ (t.core c).mng.stNorm = ⟨[]⟩ ∧ (t.core c).mng.stCerr = ⟨[]⟩ ∧
      (t.core c).mng.norm = (s.core c).mng.norm ∧ (t.core c).vec = (s.core c).vec ∧
      Stored s t (bytesFrom r (leBytes 4 (sp.newRung + recApplied (s.natAt r 4) * 2 ^ 8 + fld (s.natAt r 4) 16 4 * 2 ^ 16)) ++
        bytesFrom (r + 8) (leBytes 4 (min 0xFFFFFFFF (s.natAt (r + 8) 4 + 1)))) ∧
      Frame [.cores, .jobs, .mem, .ms, .lint, .hif] s t ∧ t.ms = { s.ms with home := t.ms.home }

/-! ### Fetching and completing commands -/

/-- R220, R222: a COMMAND_FETCH of a top-level interface that has not halted, with a command left in the stream, a free entry
in the Bobbin and an allowed address, adds the 32 bytes at base + 32 times their index to the fetched commands; where others
stand before it, nothing else happens to it, and where it is the head it must be well formed to stand there unhindered. -/
def Sys2Proof.Says.CommandsFetched : Prop :=
  ∀ s i st, Quiet s → let x := s.ifc i
    let q := x.strm st
    let idx := q.head + q.fetched.length
    let a := q.base.toNat + 32 * idx
    let c := BitVec.ofNat 256 (s.natAt a 32)
    x.top = true → x.halted = false → idx < q.count → q.fetched.length + q.flight.length < 512 →
    s.denied i false .fetch a 32 = none →
    (q.fetched = [] → s.cmdBad i st c = false ∧ s.spanBreaks i st c = false ∧ x.bob.breaks st idx (cmdTag c) = false) →
    Completes (.commandFetch i st) s fun t =>
      t.ifc i = x.setStrm st (if q.fetched = [] then { q with fetched := [c], limit := x.bob.runahead, taken := none }
        else { q with fetched := q.fetched ++ [c] }) ∧
      (∀ j, j ≠ i → t.ifc j = s.ifc j) ∧ Frame [.cores, .jobs, .ms] s t ∧ t.ms = { s.ms with home := t.ms.home }

/-- R554: the Lint event of a code that a block raises now, with its arguments. -/
def Sys2Proof.eventOf (s : State) (src : Src) (code : BitVec 16) (key : Word) (args : List Nat) : LintRec :=
  { code := code, source := src.code, time := s.mgt.time, key := key, loc := s.loc src, args := args.map (BitVec.ofNat 32) }

/-- R229, R230, R256, R476: a command whose 32 bytes carry a reserved encoding halts its interface with BAD_COMMAND as it
reaches the head, before anything of it happens: the interface keeps its state, its Bobbin registers name the command, its
job keeps the halt for its record, and a Lint event holds the common arguments. -/
def Sys2Proof.Says.BadCommandHalts : Prop :=
  ∀ s i st n j, Quiet s → let x := s.ifc i
    let q := x.strm st
    let a := q.base.toNat + 32 * q.head
    let c := BitVec.ofNat 256 (s.natAt a 32)
    x.top = true → x.halted = false → q.fetched = [] → q.head < q.count → q.flight.length < 512 →
    s.denied i false .fetch a 32 = none → s.cmdBad i st c = true → s.jobNo i = some n → s.job n = some j → j.halt = none →
    Completes (.commandFetch i st) s fun t =>
      (t.ifc i).halted = true ∧ (t.ifc i).tokens = x.tokens ∧ (t.ifc i).preds = x.preds ∧
      ((t.ifc i).strm st).head = q.head ∧ ((t.ifc i).strm st).flight = q.flight ∧
      (t.ifc i).bob.lastCode = 0x0681#16 ∧ (t.ifc i).bob.haltIdx = BitVec.ofNat 32 q.head ∧
      (t.ifc i).bob.haltInfo = BitVec.ofNat 32 (strmNo st + cmdTag c * 2 ^ 16) ∧
      (t.job n).bind (·.halt) = some (0x0681#16, BitVec.ofNat 32 q.head, some i, st) ∧
      t.mem = s.mem ∧ t.lint = s.lint.event true (Sys2Proof.eventOf s (.bob i) 0x0681#16 (s.keyOf i)
        [s.ifaceNo i, strmNo st, q.head, cmdTag c])

/-- R233, R241, R258, R166: a command whose engine has finished, that waits for no part, request or queue entry, and that
has raised no condition completes on an interface of one device: its predicate writes are made, its time is noted by the
command-tag timers, its SIG counters are signalled, and it leaves the flight list. GANG_COMMAND_COMPLETE does this for the
commands that a gang splits, COMMAND_COMPLETE for all others. -/
def Sys2Proof.Says.CommandsComplete : Prop :=
  ∀ s i st idx f, Quiet s → s.flightOf i st idx = some f → s.ended i f = true → s.isHem i = false → f.gen = none →
    f.conds = {} → f.scaled = 0 → (∀ n, n < 32 → bitOf (cmdSig f.cmd) n = true → (s.ifc i).tok n < 65535) →
    Completes (if isGang i && isSplit f.cmd then .gangCommandComplete i st idx else .commandComplete i st idx) s fun t =>
      let x := s.ifc i
      let y := t.ifc i
      (∀ n, n < 32 → y.tok n = x.tok n + (if bitOf (cmdSig f.cmd) n then 1 else 0)) ∧
      y.preds = (x.writePreds f.allPreds).preds ∧
      y.strm st = { x.strm st with flight := (x.strm st).flight.filter fun g => decide (g.idx ≠ idx) } ∧
      y.strm (otherStrm st) = x.strm (otherStrm st) ∧
      y.bob = x.bob.tagEnds (cmdTag f.cmd) (s.hif.time.toNat - f.begunAt) ∧
      y.halted = x.halted ∧ y.seq = x.seq ∧ y.store = x.store ∧
      (∀ j, j ≠ i → t.ifc j = s.ifc j) ∧ Frame [.cores, .jobs] s t

/-- R173, R138, R476: a command outside a span that completes with INVALID among its conditions halts its interface with
NAN_INVALID where the job's NAN_HALT is 1, after its tokens are signalled; without INVALID and with OVERFLOW it reports
OVERFLOW_KEPT and the interface goes on. -/
def Sys2Proof.Says.NumericConditionsReported : Prop :=
  ∀ s i st idx f, Quiet s → s.flightOf i st idx = some f → s.ended i f = true → s.isHem i = false → isGang i = false →
    f.gen = none → (s.ifc i).span = none → (s.ifc i).halted = false → cmdOp f.cmd ≠ 0x50 →
    (∀ n, n < 32 → bitOf (cmdSig f.cmd) n = true → (s.ifc i).tok n < 65535) →
    let args := [0xFFFFFFFF, 0, (f.seq.map BitVec.toNat).getD 0xFFFFFFFF, f.idx, cmdTag f.cmd, s.ifaceNo i, strmNo st]
    let sched := Src.sched (s.schedOf i)
    let toks := fun (t : State) => ∀ n, n < 32 → (t.ifc i).tok n = (s.ifc i).tok n + (if bitOf (cmdSig f.cmd) n then 1 else 0)
    (0 < f.conds.inv → f.conds.ovf = 0 → f.conds.iovf = 0 → s.nanHalt i = true →
      Completes (.commandComplete i st idx) s fun t => (t.ifc i).halted = true ∧ (t.ifc i).bob.lastCode = 0x0480#16 ∧
        (t.ifc i).bob.haltIdx = BitVec.ofNat 32 f.idx ∧ toks t ∧
        t.lint = s.lint.event true (Sys2Proof.eventOf s sched 0x0480#16 (s.keyOf i) args)) ∧
    (f.conds.inv = 0 → 0 < f.conds.ovf →
      Completes (.commandComplete i st idx) s fun t => (t.ifc i).halted = false ∧ toks t ∧
        t.lint = s.lint.event true (Sys2Proof.eventOf s sched 0x0482#16 (s.keyOf i) args))

/-! ### Transfers -/

/-- R227, R228, R368: a LOAD or STORE between plain device addresses of memory, whose two ranges are allowed. -/
def Sys2Proof.plainCopy (s : State) (i : IfaceId) (c : BitVec 256) : Prop :=
  cmdXop c = 0 ∧ 0 < cmdLen c ∧ plainDev (cmdAddr c) = true ∧ plainDev (cmdDst c) = true ∧
  inRegs (cmdAddr c) = false ∧ inRegs (cmdDst c) = false ∧ s.engineCore i ≠ none ∧
  s.denied i false .read (cmdAddr c) (cmdLen c) = none ∧ s.denied i false .write (cmdDst c) (cmdLen c) = none

/-- R227, R231, R580: a LOAD or STORE between memory ranges begins: the LEN bytes at DST become those that stood at SRC, no
other byte of memory changes, the poison of the lines that DST covers whole is cleared, and the command is in flight, its
engine finished. A transfer of LEN 0 begins and does nothing. -/
def Sys2Proof.Says.CopiesMove : Prop :=
  ∀ s i c, Quiet s → HeadAt s i .acc c → s.engineFree i = true → ∀ p ∈ [(Instr.load i, 0x10), (Instr.store i, 0x11)], cmdOp c = p.2 →
    (Sys2Proof.plainCopy s i c →
      Completes p.1 s fun t => ∃ y, Begun s i .acc c (fun f => { f with fin := true }) y ∧
        OnlyIfc [.mem, .ms, .ft] s t i y id ∧ Stored s t (bytesFrom (cmdDst c) (s.bytesAt (cmdAddr c) (cmdLen c))) ∧
        PoisonCleared s t (cmdDst c) (cmdLen c)) ∧
    (cmdXop c = 0 → cmdLen c = 0 →
      Completes p.1 s fun t => ∃ y, Begun s i .acc c (fun f => { f with fin := true }) y ∧ OnlyIfc [] s t i y id)

/-- No LOAD of the stream still has a Press table slot to fill (R134). -/
def Sys2Proof.noFills (q : Stream) : Prop := ∀ f ∈ q.flight, f.image = false

/-- R132, R134, R192, R229: a LOAD of 4,128 bytes into Press table slot n of a core, its range allowed and its header keeping
R132, begins. Where no tile of the interface that names the slot has rows left to write, it fills the slot with the image as a
forward or a derivative table; where one has, the LOAD holds the image back and notes those tiles. Nothing else changes. -/
def Sys2Proof.Says.TableLoads : Prop :=
  ∀ s r c, Quiet s → HeadAt s (.core r) .acc c → s.engineFree (.core r) = true → cmdOp c = 0x10 → cmdLen c = 4128 →
    plainDev (cmdAddr c) = true → inRegs (cmdAddr c) = false → s.denied (.core r) false .read (cmdAddr c) 4128 = none →
    Sys2Proof.noFills (s.ifc (.core r)).acc → (∀ u ∈ (s.core r).mng.tiles, u.tblFrom = none) →
    let bs := s.bytesAt (cmdAddr c) 4128
    let n := fld (cmdDst c) 0 4
    let m := (s.core r).mng
    let before := s.tilesNaming (.core r) n
    tableGood (leWords bs) = true →
    ∀ p ∈ [(Instr.loadForwardTable (.core r), 1, false), (Instr.loadDerivativeTable (.core r), 2, true)], cmdXop c = p.2.1 →
    Completes p.1 s fun t => ∃ y,
      (before = [] → Begun s (.core r) .acc c (fun f => { f with fin := true }) y ∧
        t.core r = { s.core r with
          ifc := y, mng := { m with tbl := m.tbl.set {} n { valid := true, deriv := p.2.2, image := leWords bs } } }) ∧
      (before ≠ [] → Begun s (.core r) .acc c (fun f => { f with image := true, buf := bs, after := before }) y ∧
        t.core r = { s.core r with ifc := y }) ∧
      (∀ q, q ≠ r → t.core q = s.core q) ∧ Frame [.cores, .ms] s t ∧ t.ms = { s.ms with home := t.ms.home }

/-- R372, R373: the atomics: the row, the range of XOP, and the new element from the old and the operand. -/
def Sys2Proof.atomicRows (i : IfaceId) : List (Instr × Nat × Nat × (Fmt → Nat → Nat → Nat × Cnd)) := [
  (.atomicAdd i, 1, 4, fun f a b => if f = .int32 then ((a + b) % 2 ^ 32, {})
    else f.result 0 ((f.dec 0 a).add (f.dec 0 b)).1 ((f.dec 0 a).add (f.dec 0 b)).2),
  (.atomicMin i, 5, 8, fun f a b => ((f.cvt 0 .rne ((f.dec 0 a).min (f.dec 0 b))).1, {})),
  (.atomicMax i, 9, 12, fun f a b => ((f.cvt 0 .rne ((f.dec 0 a).max (f.dec 0 b))).1, {}))]

/-- R372, R373: an atomic STORE to HBM or to the Cupboard on this device, aligned and allowed, begins: each element at DST
becomes the sum, the smaller or the larger of itself and the element of SRC, sums rounded once; the conditions of the
elements are those of the command; no other byte of memory changes. -/
def Sys2Proof.Says.AtomicsCombine : Prop :=
  ∀ s i c, Quiet s → HeadAt s i .acc c → s.engineFree i = true → ∀ p ∈ Sys2Proof.atomicRows i, cmdOp c = 0x11 → p.2.1 ≤ cmdXop c → cmdXop c ≤ p.2.2.1 →
    let z := atomicSize (cmdXop c)
    let f := atomicFmt (cmdXop c)
    let n := cmdLen c / z
    0 < cmdLen c → cmdLen c % z = 0 → plainDev (cmdAddr c) = true → plainDev (cmdDst c) = true → inRegs (cmdAddr c) = false →
    cmdAddr c % z = 0 → cmdDst c % z = 0 →
    (cmdDst c + cmdLen c ≤ hbmEnd ∨ (cupbBase ≤ cmdDst c ∧ cmdDst c + cmdLen c ≤ cupbBase + 2 ^ 34)) → s.engineCore i ≠ none →
    s.denied i false .read (cmdAddr c) (cmdLen c) = none → s.denied i false .atomic (cmdDst c) (cmdLen c) = none →
    let r := fun k => p.2.2.2 f (s.natAt (cmdDst c + k * z) z) (s.natAt (cmdAddr c + k * z) z)
    Completes p.1 s fun t => ∃ y,
      Begun s i .acc c (fun g => { g with fin := true, conds :=
        { inv := (upto n).countP (fun k => (r k).2.inv), ovf := (upto n).countP (fun k => (r k).2.ovf), iovf := 0 } }) y ∧
      OnlyIfc [.mem, .ms] s t i y id ∧ t.ms = { s.ms with home := t.ms.home } ∧
      Stored s t ((upto n).flatMap fun k => bytesFrom (cmdDst c + k * z) (leBytes z (r k).1))

/-- Bytes `a` to `a + n - 1` and bytes `b` to `b + m - 1` stand at no common place. -/
def Sys2Proof.apart (s : State) (a n b m : Nat) : Prop :=
  ∀ k < n, ∀ j < m, s.place (a + k) = none ∨ s.place (a + k) ≠ s.place (b + j)

/-- R375, R376: a GATHER or SCATTER descriptor at the command's address that is allowed and well formed, with plain BASE and
DATA, and no poisoned line in the machine. -/
def Sys2Proof.gatherReadable (s : State) (i : IfaceId) (c : BitVec 256) (scatter : Bool) (d : Nat) : Prop :=
  s.engineCore i ≠ none ∧ d = s.natAt (cmdAddr c) 64 ∧ s.denied i false .read (cmdAddr c) 64 = none ∧
  gatherBad (isGang i) scatter d = false ∧ plainDev (gBase d) = true ∧ plainDev (gData d) = true ∧ s.ms.poison = ⟨[]⟩ ∧
  ∀ k < gCount d, s.denied i false .read (gIndex d + k * gIdxSize d) (gIdxSize d) = none

/-- Index `k` of a gather descriptor. -/
def Sys2Proof.gatherIdx (s : State) (d k : Nat) : Nat := s.natAt (gIndex d + k * gIdxSize d) (gIdxSize d)

/-- R376: a GATHER with plain BASE and DATA, every access it makes allowed, begins: element k of DATA becomes the element of
BASE that index k names, or zero for an index at or above LIMIT. A SCATTER writes, in ascending order, element k of DATA to
the element of BASE that index k names, and skips an index at or above LIMIT. No other byte of memory changes. This is said of
data that do not overlap what is read. -/
def Sys2Proof.Says.GatherAndScatter : Prop :=
  ∀ s i c d, Quiet s → HeadAt s i .acc c → s.engineFree i = true →
    let n := gSize d
    let j := Sys2Proof.gatherIdx s d
    let ks := upto (gCount d)
    (cmdOp c = 0x12 → Sys2Proof.gatherReadable s i c false d →
      (∀ k < gCount d, j k < gLimit d → s.denied i false .read (gBase d + j k * n) n = none) →
      (∀ k < gCount d, s.denied i false .write (gData d + k * n) n = none) →
      Sys2Proof.apart s (gData d) (gCount d * n) (gIndex d) (gCount d * gIdxSize d) →
      (∀ k < gCount d, j k < gLimit d → Sys2Proof.apart s (gData d) (gCount d * n) (gBase d + j k * n) n) →
      Completes (.gather i) s fun t => ∃ y, Begun s i .acc c (fun f => { f with fin := true }) y ∧
        OnlyIfc [.mem, .ms] s t i y id ∧ t.ms = { s.ms with home := t.ms.home } ∧
        Stored s t (ks.flatMap fun k => bytesFrom (gData d + k * n)
          (if j k < gLimit d then s.bytesAt (gBase d + j k * n) n else List.replicate n 0))) ∧
    (cmdOp c = 0x13 → Sys2Proof.gatherReadable s i c true d → gOp d = 0 →
      (∀ k < gCount d, j k < gLimit d → s.denied i false .write (gBase d + j k * n) n = none ∧
        s.denied i false .read (gData d + k * n) n = none ∧
        Sys2Proof.apart s (gBase d + j k * n) n (gIndex d) (gCount d * gIdxSize d) ∧
        Sys2Proof.apart s (gBase d + j k * n) n (gData d) (gCount d * n)) →
      Completes (.scatter i) s fun t => ∃ y, Begun s i .acc c (fun f => { f with fin := true, conds := {} }) y ∧
        OnlyIfc [.mem, .ms] s t i y id ∧ t.ms = { s.ms with home := t.ms.home } ∧
        Stored s t ((ks.filter fun k => decide (j k < gLimit d)).flatMap fun k =>
          bytesFrom (gBase d + j k * n) (s.bytesAt (gData d + k * n) n)))

/-- R366, R368, R383, R256, R258: a LOAD between plain addresses whose SRC range is denied has begun, and halts its interface
before any byte moves: the window fault is recorded in the memory registers with its address, reason and access, and the command
is not in flight. -/
def Sys2Proof.Says.DeniedAccessHalts : Prop :=
  ∀ s r c e, Quiet s → HeadAt s (.core r) .acc c → s.engineFree (.core r) = true → cmdOp c = 0x10 → cmdXop c = 0 → 0 < cmdLen c →
    plainDev (cmdAddr c) = true → inRegs (cmdAddr c) = false → s.denied (.core r) false .read (cmdAddr c) (cmdLen c) = some e →
    Completes (.load (.core r)) s fun t => (t.ifc (.core r)).halted = true ∧ t.mem = s.mem ∧
      (t.ifc (.core r)).acc.flight = (s.ifc (.core r)).acc.flight ∧ (t.ifc (.core r)).acc.head = (s.ifc (.core r)).acc.head + 1 ∧
      (t.ifc (.core r)).bob.lastCode = e.code ∧
      (e.code = 0x0980#16 → t.ms = { s.ms with
        faultAddr := BitVec.ofNat 64 e.addr
        faultInfo := BitVec.ofNat 32 (e.reason + 16 * e.kind.code + 256 * s.logNo r) }) ∧
      (e.code ≠ 0x0980#16 → t.ms = s.ms) ∧
      ∀ q, q ≠ r → t.core q = s.core q

/-- R152, R369, R370, R355: a speculative fetch of an HBM address that the interface may read, in no STREAM window, and that
is named by a command which has not begun and stands behind no LAYER_BEGIN, brings its line into the home cache where that
caches, in place of the least recently used line of a full set, and changes nothing else; one that is not allowed, or whose stack
has failed (R581), is squashed. -/
def Sys2Proof.Says.SpeculativeFetches : Prop :=
  ∀ s i (addr : DWord), Quiet s →
    let a := addr.toNat / 256
    let h := s.ms.home
    let may := ((s.ifc i).fetchable.any (s.warms i addr.toNat) || s.nextLine addr.toNat) = true ∧ addr.toNat < 2 ^ 39 ∧
      s.stackFailed (addr.toNat / 2 ^ 36) = false ∧
      reasonAt (s.winsOf i) (s.gangsAbove i) .read addr.toNat = 0 ∧ s.streams i addr.toNat = false
    Completes (.speculativeFetch i addr) s fun t => Frame [.ms] s t ∧ t.ms = { s.ms with home := t.ms.home } ∧
      ∀ l, t.ms.home.lines.get 0 l =
        if may ∧ s.caches a = true then
          if l = a then h.lines.get 0 l ||| 1
          else if h.lines.get 0 a = 0 ∧ h.victim (16 - s.ways (a / 2 ^ 29)) a = some l then 0 else h.lines.get 0 l
        else h.lines.get 0 l

/-! ### The Mangle and the Press -/

/-- R78, R79, R116: the value at row `r`, column `c` of an operand in memory. -/
def Sys2Proof.operandAt (s : State) (f : Fmt) (addr scale stride r c : Nat) : FVal :=
  if f.isMx then
    mxVal f (s.byteAt (scale + r * (stride / (4 * f.width)) + c / 32)).toNat
      (fld (s.natAt (addr + r * stride + 4 * f.width * (c / 32)) (4 * f.width)) (f.width * (c % 32)) f.width)
  else f.dec 0 (s.natAt (addr + r * stride + c * (f.width / 8)) (f.width / 8))

/-- R110, R111: the terms that output (i, j) of a tile sums, in ascending order: A from memory, and W from the weight buffer,
or from memory where the dataflow is output-stationary. -/
def Sys2Proof.tileTerms (s : State) (t : Tile) (buf : WBuf) (i j : Nat) : List (FVal × FVal) :=
  let d := t.desc
  let a := Sys2Proof.operandAt s (TDesc.fA d) (TDesc.aAddr d) (TDesc.aScale d) (TDesc.aStride d)
  let w := fun k n => buf.vals.get .zero (128 * k + n)
  match t.df with
  | 0 => (upto t.kN).map fun k => (a (t.m0 + i) (t.k0 + k), w k j)
  | 1 => (upto t.nN).map fun n => (a (t.m0 + i) (t.n0 + n), w j n)
  | _ => (upto t.mN).map fun m => (a (t.m0 + m) (t.k0 + i),
      Sys2Proof.operandAt s (TDesc.fW d) (TDesc.wAddr d) (TDesc.wScale d) (TDesc.wStride d) (t.m0 + m) (t.n0 + j))

/-- R117, R120: what output (i, j) starts from: the identity of the operation, or the value at CIN. -/
def Sys2Proof.tileInit (s : State) (t : Tile) (i j : Nat) : FVal :=
  let d := t.desc
  if TDesc.accMode d = 1 then (TDesc.accFlt d).dec (s.natAt (TDesc.cinAddr d + ((t.region'.rows t.df).1 + i) * TDesc.outStride d +
    TDesc.accSize d * ((t.region'.cols t.df).1 + j)) (TDesc.accSize d))
  else opIdentity (TDesc.op d)

/-- A tile whose operands stand in memory, that begins from its own initial value, and whose held weights are there (R112). -/
def Sys2Proof.tileReady (s : State) (r : CoreRef) (t : Tile) : Prop :=
  let d := t.desc
  let m := (s.core r).mng
  t.raw = none ∧ t.sampled = false ∧ t.slot = none ∧ t.qA = [] ∧ t.qW = [] ∧ t.shadAcc = [] ∧ t.phase = .input ∧
  t.checked = false ∧ t.loaded = false ∧ t.kN ≤ 128 ∧ t.nN ≤ 128 ∧ (s.core r).subs = [] ∧
  queueRef (TDesc.aAddr d) = none ∧ queueRef (TDesc.wAddr d) = none ∧ TDesc.accMode d ≠ 2 ∧
  m.held = none ∧ (s.ifc t.owner).halted = false ∧ s.darns (.mangle r) = false ∧
  (t.df ≠ 2 → TDesc.wHeld d = true →
    (m.wbuf.get {} (TDesc.wbuf d)).valid = true ∧ (m.wbuf.get {} (TDesc.wbuf d)).tag.toNat = TDesc.wtag d)

/-- R110 to R112, R120, R123: `m` is the Mangle of core `r` once `t`, alone in it, has taken slot 0: its weights stand in
their buffer, every output is the reduction of its terms in the accumulator format, and the tile stands in its bank. -/
def Sys2Proof.taken (s : State) (r : CoreRef) (t : Tile) (m : Mangle) : Prop :=
  let d := t.desc
  let old := (s.core r).mng
  let load := decide (t.df ≠ 2) && !TDesc.wHeld d && decide ((t.region'.red t.df).2 ≠ 0)
  let f := TDesc.accFlt d
  let rows := (t.region'.rows t.df).2
  let cols := (t.region'.cols t.df).2
  ∃ (u : Tile) (b : WBuf),
    m = { old with tiles := [u], wbuf := if load = true then old.wbuf.set {} (TDesc.wbuf d) b else old.wbuf } ∧
    u = { t with phase := .array, slot := some 0, chain := 1, loaded := load, bank := none, acc := u.acc, conds := u.conds, early := u.early, wts := u.wts } ∧
    b.valid = true ∧ b.tag = BitVec.ofNat 16 (TDesc.wtag d) ∧
    (∀ k < 128, ∀ n < 128, b.vals.get .zero (128 * k + n) = if k < t.kN ∧ n < t.nN then
      Sys2Proof.operandAt s (TDesc.fW d) (TDesc.wAddr d) (TDesc.wScale d) (TDesc.wStride d) (t.k0 + k) (t.n0 + n) else .zero) ∧
    u.acc.length = rows ∧
    (∀ i < rows, (nth u.acc i []).length = cols ∧ ∀ j < cols, nth (nth u.acc i []) j 0 = BitVec.ofNat 64 (f.enc
      (cellFold f (TDesc.op d) (Sys2Proof.tileTerms s t (if load = true then b else old.wbuf.get {} (TDesc.wbuf d)) i j)
        (Sys2Proof.tileInit s t i j) {}).1))

/-- R111, R188: the Mangle commands and their opcodes. -/
def Sys2Proof.mangleRows (i : IfaceId) : List (Instr × Nat) := [(.mma i, 0x20), (.mmaT i, 0x21), (.mmaOs i, 0x22), (.semi i, 0x23)]

/-- R114, R231: a tile descriptor at the command's address, allowed and well formed, of output extents that are not zero,
without handles, whose table is there, with no LOAD to come, and whose ranges are all allowed. -/
def Sys2Proof.tileReadable (s : State) (r : CoreRef) (c : BitVec 256) (d : TDesc) : Prop :=
  let df := dflowOf (cmdOp c) d
  let w := TDesc.whole d
  let gate := TDesc.gated d ((s.core r).mng.tbl.get {} (TDesc.tbl d))
  d = BitVec.ofNat 1024 (s.natAt (cmdAddr c) 128) ∧ s.denied (.core r) false .read (cmdAddr c) 128 = none ∧
  tileBad (cmdOp c) false (s.splitsOf (.core r)) gate d = false ∧ w.noOutput df = false ∧
  (∀ k ∈ handleFields df gate d, isHandle (TDesc.addr d k) = false) ∧
  (TDesc.tbl d ≠ 0 → ((s.core r).mng.tbl.get {} (TDesc.tbl d)).valid = true) ∧
  Sys2Proof.noFills (s.ifc (.core r)).acc ∧ s.deniedAny (.core r) (tileRanges df d w w (!TDesc.hold d) true gate) = none

/-- R110 to R123, R126: MMA, MMA_T, MMA_OS and SEMI on a core whose Mangle is empty, outside a span: the command is in flight
and waits for one tile, its entry stands at the accumulator store, and the tile has taken its slot with its sums formed. No
memory changes. TILE_SLOT_TAKE does the last for a tile alone at a Mangle's input. -/
def Obligations.TilesBegin : Prop :=
  ∀ s r, Quiet s →
    (∀ c d, HeadAt s (.core r) .exe c → (s.core r).mng.tiles = [] → (s.ifc (.core r)).span = none →
      ∀ p ∈ Sys2Proof.mangleRows (.core r), cmdOp c = p.2 → Sys2Proof.tileReadable s r c d →
      let new : Tile := ({ core := r, reg := TDesc.whole d, raw := none, presser := r, pr := TDesc.whole d } : Leaf).tile (.core r)
        (s.ifc (.core r)).exe.head (cmdOp c) d (((s.jobOf (.core r)).map (·.iter)).getD 0) (s.frozenRows (dflowOf (cmdOp c) d) d)
        ((s.core r).mng.tbl.get {} (TDesc.tbl d)) none false
      Sys2Proof.tileReady s r new →
      Completes p.1 s fun t => ∃ y m,
        Begun s (.core r) .exe c (fun f => { f with
          fin := true, parts := 1, seq := some (BitVec.ofNat 12 (TDesc.seq d)), rung := rungOf (TDesc.fmtOut d)
          isInt := (TDesc.fOut d).isInt }) y ∧
        Sys2Proof.taken s r new m ∧
        t.core r = { s.core r with
          mng := m
          ifc := { y with store := y.store ++ [{
            idx := (s.ifc (.core r)).exe.head, seq := BitVec.ofNat 12 (TDesc.seq d), kind := .tile, lead := r }] } } ∧
        (∀ q, q ≠ r → t.core q = s.core q) ∧ Frame [.cores, .ms] s t ∧ t.ms = { s.ms with home := t.ms.home }) ∧
    (∀ u, (s.core r).mng.tiles = [u] → Sys2Proof.tileReady s r u →
      Completes (.tileSlotTake r) s fun t => ∃ m, Sys2Proof.taken s r u m ∧ t.core r = { s.core r with mng := m } ∧
        (∀ q, q ≠ r → t.core q = s.core q) ∧ Frame [.cores, .ms] s t ∧ t.ms = { s.ms with home := t.ms.home })

/-- R121, R126, R127: the check of a tile that stands alone at a core's accumulator store and in its bank: where its number
is the interface's, the interface's counter advances modulo 4,096 and the tile goes on to the Press, or ends and holds its
bank; where it is not, both numbers are recorded, and the interface halts with TAG_SKEW before the tile is drained. -/
def Sys2Proof.Says.TileNumbersChecked : Prop :=
  ∀ s r u e, Quiet s → let x := s.ifc (.core r)
    let k := s.core r
    x.halted = false → x.store = [e] → e.kind = .tile → e.lead = r → k.mng.tiles = [u] →
    u.owner = .core r → u.idx = e.idx → u.phase = .array → u.raw = none → (TDesc.hold u.desc = true → u.wts = []) →
    u.tblFrom = none → k.mng.normWait = [] → Sys2Proof.noFills x.acc →
    (x.seq = e.seq →
      Completes (.tileSeqCheck (.core r)) s fun t => Frame [.cores] s t ∧ (∀ q, q ≠ r → t.core q = s.core q) ∧
        t.core r = { k with
          ifc := { x with seq := x.seq + 1, store := [] }
          mng := if TDesc.hold u.desc = true then { k.mng with
              tiles := [{ u with checked := true, phase := .done, slot := none }]
              held := some { owner := .core r, seq := BitVec.ofNat 12 (TDesc.seq u.desc), slot := u.slot.getD 0,
                             rows := (TDesc.shape u.df u.desc).1, cols := (TDesc.shape u.df u.desc).2.1, fp64 := TDesc.acc64 u.desc, chain := u.chain, acc := u.acc } }
            else { k.mng with tiles := [{ u with checked := true, phase := .press }] } }) ∧
    (x.seq ≠ e.seq →
      Completes (.tileSeqCheck (.core r)) s fun t =>
        (t.core r).mng = { k.mng with skew := BitVec.ofNat 32 (x.seq.toNat + e.seq.toNat * 2 ^ 16), lastCode := 0x0680#16 } ∧
        (t.ifc (.core r)).halted = true ∧ (t.ifc (.core r)).bob.lastCode = 0x0680#16 ∧
        (t.ifc (.core r)).bob.haltIdx = BitVec.ofNat 32 e.idx ∧ (t.ifc (.core r)).seq = x.seq ∧ t.mem = s.mem)

/-- R129 to R136: the value that the Press delivers for output (i, j) of a tile without a table: its sum scaled, with its bias
added, clipped, each step rounded in the accumulator format; and the bits it converts to in a format without block scales. -/
def Sys2Proof.pressed (s : State) (u : Tile) (i j : Nat) : Nat :=
  let d := u.desc
  let f := TDesc.accFlt d
  let n := TDesc.accSize d
  let v := (f.round .rne ((f.dec (nth (nth u.acc i []) j 0).toNat).scale (TDesc.scaleExp d))).1
  let c0 := (u.region'.cols u.df).1
  let v := if TDesc.biasEn d then (f.round .rne (v.add (f.dec (s.natAt (TDesc.biasAddr d + n * (c0 + j)) n))).1).1 else v
  let v := clipVal f d 0 v
  if TDesc.fOut d = TDesc.accFmt d then f.enc v
  else ((TDesc.fOut d).cvt 0 (u.rnd (((s.jobOf u.owner).map Job.seed).getD 0) ((u.region'.rows u.df).1 + i) (c0 + j)) v).1

/-- R129, R136, R138, R199: PRESS_ROW of a tile alone in a core's Press, without table, taps and block scales, whose output is
memory: the next row is written at its place in the output array, or passed over where it is frozen; no other byte of memory
changes; after its last row the tile is done and its slot free. -/
def Sys2Proof.Says.PressRowsWritten : Prop :=
  ∀ s r u, Quiet s → (s.core r).mng.tiles = [u] → u.phase = .press → u.raw = none → s.darns (.mangle r) = false →
    let d := u.desc
    let rows := (u.region'.rows u.df).2
    let cols := u.region'.cols u.df
    let i := (u.region'.rows u.df).1 + u.row
    TDesc.tbl d = 0 → (TDesc.fOut d).isMx = false → TDesc.normEn d = false → TDesc.cerrEn d = false → u.sampled = false →
    queueRef (TDesc.outAddr d) = none → u.wts = [] → u.row < rows → u.peers = [] → u.home = none → u.rowsQ = [] → u.full = false →
    (s.ifc u.owner).mayHandle u.idx = true → (s.core r).mng.normWait = [] → Sys2Proof.noFills (s.ifc u.owner).acc →
    let z := (TDesc.fOut d).width / 8
    let a := TDesc.outAddr d + i * TDesc.outStride d + z * cols.1
    Completes (.pressRow r) s fun t => ∃ v : Tile,
      t.core r = { s.core r with mng := { (s.core r).mng with tiles := [v] } } ∧
      v = { u with
        row := u.row + 1, pconds := v.pconds, early := v.early
        phase := if u.row + 1 = rows then .done else .press
        slot := if u.row + 1 = rows then none else u.slot } ∧
      (∀ q, q ≠ r → t.core q = s.core q) ∧
      (u.isFrozen i = true → Frame [.cores, .ms] s t ∧ t.ms = { s.ms with home := t.ms.home } ∧ v.pconds = u.pconds) ∧
      (u.isFrozen i = false → Frame [.cores, .mem, .ms, .ft] s t ∧
        Stored s t ((upto cols.2).flatMap fun j => bytesFrom (a + z * j) (leBytes z (Sys2Proof.pressed s u u.row j))) ∧
        PoisonCleared s t a (z * cols.2))

/-- R138, R232: TILE_COMPLETE takes a finished tile out of its Mangle; with the only tile that a core's command waited for, and
no condition, the command completes. -/
def Sys2Proof.Says.TilesComplete : Prop :=
  ∀ s r u f, Quiet s → let i := IfaceId.core r
    (s.core r).mng.tiles = [u] → u.phase = .done → u.owner = i → u.conds = {} → u.pconds = {} → u.attempt = 0 →
    s.flightOf i .exe u.idx = some f → f.parts = 1 → f.fin = true → f.reqs = 0 → f.qneed = 0 → f.qend = 0 → f.gen = none →
    f.conds = {} → f.scaled = 0 → f.allPreds = [] → s.darns (.access i f.idx) = false → (s.ifc i).mayHandle u.idx = true →
    (∀ n, n < 32 → bitOf (cmdSig f.cmd) n = true → (s.ifc i).tok n < 65535) →
    Completes (.tileComplete r) s fun t =>
      (t.core r).mng = { (s.core r).mng with tiles := [] } ∧
      (∀ n, n < 32 → (t.ifc i).tok n = (s.ifc i).tok n + (if bitOf (cmdSig f.cmd) n then 1 else 0)) ∧
      (t.ifc i).exe = { (s.ifc i).exe with flight := (s.ifc i).exe.flight.filter fun g => decide (g.idx ≠ u.idx) } ∧
      (t.ifc i).acc = (s.ifc i).acc ∧ (t.ifc i).preds = (s.ifc i).preds ∧ (t.ifc i).halted = (s.ifc i).halted ∧
      (∀ q, q ≠ r → t.core q = s.core q) ∧ Frame [.cores, .jobs] s t

/-- R170: careful mode: an attempt whose conversion alone overflowed, with every supplied scale byte still able to grow, runs
again from row 0 with one attempt more; its figures start again and nothing else changes. -/
def Sys2Proof.Says.CarefulRetries : Prop :=
  ∀ s r u j, Quiet s → (s.core r).mng.tiles = [u] → u.phase = .press → s.darns (.mangle r) = false → u.row = u.outRows →
    u.raw = none → u.home = none → (s.ifc u.owner).mayHandle u.idx = true →
    s.jobOf u.owner = some j → bitOf j.numCtrl.toNat 0 = true → (TDesc.fOut u.desc).isMx = true → TDesc.supplied u.desc = true →
    0 < u.pconds.ovf → u.early = false → u.attempt < 8 → (∀ l ∈ u.sup, ∀ b ∈ l, b + u.attempt + 1 ≤ 0xFE) →
    Completes (.carefulRetry r) s fun t => Frame [.cores] s t ∧ (∀ q, q ≠ r → t.core q = s.core q) ∧
      t.core r = { s.core r with mng := { (s.core r).mng with tiles := [{ u with
        attempt := u.attempt + 1, row := 0, pconds := {}, taps := [], rowsQ := [], ct := 0, ctCnt := 0, ctExcl := 0, outs := []
        shads := [] }] } }

/-- R177: the decision on a core's pending sample counts it in the span of its interface: a sample whose converted values are
finite and equal their shadows agrees; one with a place where a value that is not finite differs from its shadow disagrees,
and the worst ratio becomes that of +∞; the span keeps the first tile that has disagreed (R556). The sample is then gone. -/
def Sys2Proof.Says.CreaseSamplesDecided : Prop :=
  ∀ s r p sp, Quiet s → (s.core r).mng.sample = some p → p.owner = .core r → (s.ifc (.core r)).span = some sp →
    let ps := p.outs.flatten.zip p.shad.flatten
    let after := fun (sp' : Span) => { s.core r with
      mng := { (s.core r).mng with sample := none }, ifc := { s.ifc (.core r) with span := some sp' } }
    ((∀ x ∈ ps, x.1.isFinite = true ∧ x.1 = x.2) →
      Completes (.creaseSampleDecide r) s fun t => Frame [.cores] s t ∧ (∀ q, q ≠ r → t.core q = s.core q) ∧
        t.core r = after { sp with sampled := sp.sampled + 1, worst := worse sp.worst 0 }) ∧
    ((∃ x ∈ ps, (x.1.isFinite && x.2.isFinite) = false ∧ x.1 ≠ x.2) →
      Completes (.creaseSampleDecide r) s fun t => Frame [.cores] s t ∧ (∀ q, q ≠ r → t.core q = s.core q) ∧
        t.core r = after { sp with
          sampled := sp.sampled + 1, disagree := sp.disagree + 1, worst := worse sp.worst 0x7F800000
          odd := if sp.odd.isNone then some { Delivery.ofSpan p.idx with tag := p.tag, seq := some p.seq } else sp.odd })

/-! ### The optimiser step -/

/-- R182: the FP32 steps for one element: the new moments, the new weight and the applied update of a master-mode OPTSTEP, from
the gradient, the moments and the weight, the update exponent and the rounding of the scaled update. -/
def Sys2Proof.optStepped (d : ODesc) (u : Int) (rn : Rnd) (g m v w : FVal) : FVal × FVal × FVal × FVal :=
  let f := fun (x : FVal × Bool) => (flt32.round .rne x.1).1
  let k := ODesc.coef d
  let one := FVal.fin false 1 0
  let m := f ((f ((k 0).mul m)).add (f ((f (one.sub (k 0))).mul g)))
  let v := f ((f ((k 1).mul v)).add (f ((f (one.sub (k 1))).mul (f (g.mul g)))))
  let den := f ((f (f (v.mul (k 6))).sqrt).add (k 2))
  let num := f ((k 3).mul (f (m.mul (k 5))))
  let dl := f ((f ((num.div den).1, false)).add (f ((k 4).mul w)))
  let su := f (dl.scale u, false)
  let ap := f (((ODesc.fU d).dec 0 ((ODesc.fU d).cvt 0 rn su).1).scale (-u), false)
  (m, v, f (w.sub ap), ap)

/-- R181: an OPTSTEP descriptor at the command's address, allowed and well formed, with elements, in master mode, of weights
in a scalar format at plain addresses, whose ranges are all allowed. -/
def Sys2Proof.optReadable (s : State) (r : CoreRef) (c : BitVec 256) (d : ODesc) : Prop :=
  let n := ODesc.elems d
  d = BitVec.ofNat 1024 (s.natAt (cmdAddr c) 128) ∧ s.denied (.core r) false .read (cmdAddr c) 128 = none ∧ optBad d = false ∧
  0 < n ∧ ODesc.mode d = 0 ∧ (ODesc.fW d).isMx = false ∧ isHandle (ODesc.wAddr d) = false ∧
  s.deniedAny (.core r) (tensorRanges [.read] (ODesc.fG d) (ODesc.gAddr d) 0 0 n) = none ∧
  s.deniedAny (.core r) (optRanges d ⟨ODesc.wAddr d, ODesc.wAddr d, ODesc.wScale d, none⟩ 0 n) = none ∧
  s.denied (.core r) false .read (ODesc.nrec d) 32 = none ∧ s.denied (.core r) false .write (ODesc.nrec d) 32 = none ∧
  s.ms.poison = ⟨[]⟩

/-- R179 to R184: an OPTSTEP on a core begins with its work done: every element's master weight, weight and moments become what
the FP32 steps give, the weight rounded to WFMT, the moments in blocks of 32 under computed scales with Sprinkle rounding; the
norm record holds the sums of squares of the new weights and of the updates, the core's norm slot, which becomes +0, and the
update exponent. No other byte of memory and no other register changes. With CHECK, a gradient value that is not finite
raises OPT_NONFINITE and nothing is written. -/
def Obligations.OptimizerStep : Prop :=
  ∀ s r c d, Quiet s → HeadAt s (.core r) .acc c → s.engineFree (.core r) = true → cmdOp c = 0x50 → Sys2Proof.optReadable s r c d →
    let i := IfaceId.core r
    let n := ODesc.elems d
    let mf := ODesc.momFmt d
    let seed := ((s.jobOf i).map Job.seed).getD 0
    let iter := ((s.jobOf i).map (·.iter.toNat)).getD 0
    let spr := fun k e => Rnd.spr (sprinkle seed iter (ODesc.tid d k) ((ODesc.idxBase d + e) % 2 ^ 48))
    let g := Sys2Proof.operandAt s (ODesc.fG d) (ODesc.gAddr d) 0 0 0
    let grads := (upto n).map g
    let bad := (ODesc.check d && grads.any fun x => !x.isFinite) = true
    (¬bad →
      let u := updExp (flt64.dec (s.natAt (ODesc.nrec d + 16) 8)) n (ODesc.uInit d)
      let e := fun k => Sys2Proof.optStepped d u (spr 0 k) (g k) (Sys2Proof.operandAt s mf (ODesc.mAddr d) (ODesc.mScale d) 0 0 k)
        (Sys2Proof.operandAt s mf (ODesc.vAddr d) (ODesc.vScale d) 0 0 k) (Sys2Proof.operandAt s .fp32 (ODesc.mst d) 0 0 0 k)
      let z := (ODesc.fW d).width / 8
      let blocks := upto ((n + 31) / 32)
      let block := fun (t : Nat) (x : Nat → FVal) b =>
        let ks := rangeFrom (32 * b) (min 32 (n - 32 * b))
        mxConvert mf none (ks.map (spr t)) (ks.map x)
      let moment := fun t x a sc =>
        bytesFrom a (blocks.flatMap fun b => packBytes mf.width 32 (block t x b).elems) ++
        bytesFrom sc (blocks.map fun b => BitVec.ofNat 8 (block t x b).scale)
      let squares := fun (x : Nat → FVal) => (upto n).foldl (fun a k => addTo64 a ((x k).mul (x k)).1) (0 : DWord)
      let norm := (s.core r).mng.norm
      let slot := ODesc.normSlot d
      Completes (.optstep i) s fun t => ∃ (y : Iface) (k : Conds) (nm : Tab DWord),
        Begun s i .acc c (fun f => { f with fin := true, gen := none, conds := k }) y ∧
        t.core r = { s.core r with ifc := y, mng := { (s.core r).mng with norm := nm } } ∧
        (∀ j, nm.get 0 j = if j = slot then 0 else norm.get 0 j) ∧
        (∀ q, q ≠ r → t.core q = s.core q) ∧ Frame [.cores, .ms, .mem] s t ∧ t.ms = { s.ms with home := t.ms.home } ∧
        Stored s t (
          bytesFrom (ODesc.mst d) ((upto n).flatMap fun k => leBytes 4 (flt32.enc (e k).2.2.1)) ++
          bytesFrom (ODesc.wAddr d) ((upto n).flatMap fun k => leBytes z ((ODesc.fW d).cvt 0 .rne (e k).2.2.1).1) ++
          moment 2 (fun k => (e k).1) (ODesc.mAddr d) (ODesc.mScale d) ++
          moment 3 (fun k => (e k).2.1) (ODesc.vAddr d) (ODesc.vScale d) ++
          bytesFrom (ODesc.nrec d) (leBytes 8 (squares fun k => (e k).2.2.1).toNat ++
            leBytes 8 (addTo64 0 (flt64.dec (norm.get 0 slot).toNat)).toNat ++
            leBytes 8 (squares fun k => (e k).2.2.2).toNat ++ leBytes 8 (ofSigned 8 u)))) ∧
    (bad →
      Completes (.optstep i) s fun t => ∃ y,
        Begun s i .acc c (fun f => { f with fin := true }) y ∧
        t.ifc i = { y with bob := { y.bob with lastCode := 0x0484#16 } } ∧ t.mem = s.mem ∧
        t.lint = s.lint.event true (Sys2Proof.eventOf s (.bob i) 0x0484#16 (s.keyOf i) []) ∧
        ∀ q, q ≠ r → t.core q = s.core q)

/-! ### The Iron solver -/

/-- The matrix that a solve's descriptor names: its row pointers, its counted entries, its columns and, for a solve, its
values (R324, R341). -/
def Sys2Proof.ironPtr (s : State) (d : SDesc) : List Nat := s.wordsAt (SDesc.rowPtr d) (SDesc.ptrRows d + 1)
def Sys2Proof.ironCnt (s : State) (d : SDesc) : Nat := nth (Sys2Proof.ironPtr s d) (SDesc.ptrRows d) 0
def Sys2Proof.ironCols (s : State) (d : SDesc) : List Nat := s.wordsAt (SDesc.colIdx d) (Sys2Proof.ironCnt s d)
def Sys2Proof.ironMat (s : State) (d : SDesc) : Mat :=
  buildMat d (Sys2Proof.ironPtr s d) (Sys2Proof.ironCols s d)
    (if SDesc.solves d then s.qInts (SDesc.w d) (SDesc.val d) (SDesc.perEnt d * Sys2Proof.ironCnt s d) else [])

/-- A solver descriptor at the command's address, allowed and well formed, of a matrix without a bad row, whose ranges are all
allowed; no solve of the interface and none on the core runs, and no sub-command of the interface waits there (R253, R324, R341,
R368). -/
def Sys2Proof.ironReady (s : State) (r : CoreRef) (c : BitVec 256) (d : SDesc) : Prop :=
  let i := IfaceId.core r
  let m := Sys2Proof.ironMat s d
  d = BitVec.ofNat 2048 (s.natAt (cmdAddr c) 256) ∧ s.denied i false .read (cmdAddr c) 256 = none ∧
  solveBad (cmdOp c == 0x41) d = false ∧ SDesc.n d ≠ 0 ∧ (s.ifc i).solve = none ∧ (s.core r).iron.state ≠ 1 ∧
  (s.core r).subsWait i = false ∧
  s.deniedAny i [(.read, SDesc.rowPtr d, 4 * (SDesc.ptrRows d + 1))] = none ∧
  s.deniedAny i (matRanges d (Sys2Proof.ironCnt s d)) = none ∧
  badRow (SDesc.perEnt d) (SDesc.ptrRows d) (Sys2Proof.ironPtr s d) (Sys2Proof.ironCols s d) = none ∧
  s.deniedAny i (restRanges d (SDesc.factSize d m) (SDesc.perEnt d * Sys2Proof.ironCnt s d)) = none

/-- A solver command has begun on a core, and its Iron has come to outcome `o` with fingerprint `h`: it is busy until the end
of the solve writes what the outcome says. -/
def Sys2Proof.ironBusy (s t : State) (r : CoreRef) (c : BitVec 256) (d : SDesc) (o : SolveOut) (h : DWord) : Prop :=
  let i := IfaceId.core r
  ∃ y, Begun s i .exe c id y ∧
    t.core r = { s.core r with
      ifc := { y with solve := some {
        idx := (s.ifc i).exe.head, addr := BitVec.ofNat 64 (cmdAddr c), adj := cmdOp c == 0x41, desc := d
        iter := ((s.jobOf i).map (·.iter)).getD 0, out := o } }
      iron := { (s.core r).iron with
        state := 1, phase := 1, adj := cmdOp c == 0x41, desc := BitVec.ofNat 64 (cmdAddr c)
        iter := BitVec.ofNat 32 o.iters, res := o.resNorm.getD (s.core r).iron.res, fprint := h
        last := BitVec.ofNat 3 o.phase } } ∧
    ∀ q, q ≠ r → t.core q = s.core q

/-- R212, R213, R325 to R338, R341: SOLVE and ADJOINT in its three modes begin on a core whose Iron is free. One that solves a
matrix without an empty row runs its phases on the descriptor, the matrix and b to an outcome, and writes nothing in memory
but its work and factor areas; the pattern gradient alone reads lambda and finds it good, or IRN_INVALID at its first NaN. -/
def Obligations.IronSolves : Prop :=
  ∀ s r c d, Quiet s → HeadAt s (.core r) .exe c → Sys2Proof.ironReady s r c d →
    let i := IfaceId.core r
    let m := Sys2Proof.ironMat s d
    (∀ p ∈ [(Instr.solve i, 0x40, 0), (.adjoint i, 0x41, 0), (.adjointPattern i, 0x41, 1)],
      cmdOp c = p.2.1 → SDesc.adjMode d = p.2.2 → m.emptyRow = none →
      Completes p.1 s fun t =>
        Sys2Proof.ironBusy s t r c d (s.solveGo d m (hashPat m.pat) (cmdOp c == 0x41)
            (SDesc.xRnd d (((s.jobOf i).map Job.seed).getD 0) (((s.jobOf i).map (·.iter.toNat)).getD 0)) [(0, SDesc.n d)]).1
          (hashPat (m.pat.filter fun e => decide ((if SDesc.bcsr d then 4 else 1) * e.1 < SDesc.n d))) ∧
        Frame [.cores, .ms, .mem, .ft, .free] s t ∧
        ∀ p, (∀ k < SDesc.slots d * SDesc.slotSize d, s.place (SDesc.work d + k) ≠ some p) →
          (SDesc.precond d ≠ 0 → SDesc.reuse d = false → ∀ k < SDesc.factSize d m, s.place (SDesc.fact d + k) ≠ some p) →
          t.mem.get 0 p = s.mem.get 0 p) ∧
    (cmdOp c = 0x41 → SDesc.adjMode d = 2 →
      let lam := s.vecAt (SDesc.xFmt d) (SDesc.tagX d) (SDesc.x d) (SDesc.n d)
      Completes (.patternGradient i) s fun t => Frame [.cores, .ms] s t ∧ t.ms = { s.ms with home := t.ms.home } ∧
        ((∀ x ∈ lam, x.isNan = false) →
          Sys2Proof.ironBusy s t r c d { codes := [0x0800#16], reason := 0, phase := 2, nnz := m.nnz } (s.core r).iron.fprint) ∧
        ∀ k, (∀ n < k, (nth lam n .zero).isNan = false) → k < lam.length → (nth lam k .zero).isNan = true →
          Sys2Proof.ironBusy s t r c d { codes := [0x0883#16], reason := 3, phase := 2, nnz := m.nnz, index := some k } (s.core r).iron.fprint)

/-- R336: the words of a status record. -/
def Sys2Proof.ironStatus (o : SolveOut) (code : BitVec 16) (pg : Bool) (res bn vec at' idx first : Nat) : List Byte :=
  bytesOf [code.toNat + o.reason * 2 ^ 16 + b2n o.warmUsed * 2 ^ 19 + b2n (decide (o.warmReason ≠ 0)) * 2 ^ 20 +
      b2n (decide (o.pivCount ≠ 0)) * 2 ^ 21 + b2n pg * 2 ^ 22 + b2n o.factReused * 2 ^ 23 + o.warmReason * 2 ^ 24,
    o.iters, res % 2 ^ 32, res / 2 ^ 32, bn % 2 ^ 32, bn / 2 ^ 32, vec, at', idx, o.pivCount, first, 0, 0, 0, 0, 0]

/-- R331: the bytes of the header of a solve's warm-start record, with VALID. -/
def Sys2Proof.warmHeader (d : SDesc) (o : SolveOut) : List Byte :=
  bytesOf ([1 + b2n (SDesc.bcsr d) * 2 + b2n (SDesc.q64 d) * 4 + ofSigned 8 (SDesc.tagX d) * 2 ^ 8, SDesc.n d, o.nnz, 0,
    o.hash.toNat % 2 ^ 32, o.hash.toNat / 2 ^ 32] ++ List.replicate 10 0)

/-- R213, R332, R335, R336: the end of a solve whose one code is no error, on a core: x is written in X_FMT, or the pattern
gradient in PG_FMT with Sprinkle rounding, or both in this order; then, with WARM, x in QFMT and the header of the warm-start
record, which is valid; then the status record, whose open fields hold any value; the Iron is idle; and the command has
finished, to set its two predicates when it completes. -/
def Obligations.SolvesEnd : Prop :=
  ∀ s r v code, Quiet s → let i := IfaceId.core r
    let d : SDesc := v.desc
    let o := v.out
    (s.ifc i).solve = some v → s.darns (.iron r) = false → SDesc.n d ≠ 0 → o.codes = [code] → codeClass code ≠ 2 →
    (SDesc.solves d = true → o.resNorm.isSome = true ∧ o.bNorm.isSome = true) →
    let seed := ((s.jobOf i).map Job.seed).getD 0
    let xs := if SDesc.solves d then bytesFrom (SDesc.x d) (o.x.zipIdx.flatMap fun (n, k) =>
        let f := fmtOf (SDesc.xFmt d)
        let rn := rndOf (SDesc.rnd d) (SDesc.grad d) seed v.iter.toNat (SDesc.xTid d) (k % 2 ^ 48)
        leBytes (f.width / 8) (f.cvt (SDesc.tagX d) rn (qVal (SDesc.w d) (SDesc.tagX d) n)).1) else []
    let lam := if SDesc.solves d then o.x.map (qVal (SDesc.w d) (SDesc.tagX d))
      else s.vecAt (SDesc.xFmt d) (SDesc.tagX d) (SDesc.x d) (SDesc.n d)
    let xf := s.vecAt (SDesc.xfFmt d) (SDesc.tagX d) (SDesc.xf d) (SDesc.n d)
    let pgs := if SDesc.pattern d then bytesFrom (SDesc.pg d) ((s.patternEnts d o.nnz).zipIdx.flatMap fun (e, p) =>
        let f := fmtOf (SDesc.pgFmt d)
        leBytes (f.width / 8) (f.cvt 0 (.spr (sprinkle seed v.iter.toNat (SDesc.tid d) (p % 2 ^ 48)))
          ((nth lam e.i .zero).mul (nth xf e.j .zero)).1.neg).1) else []
    let warm := if SDesc.solves d = true ∧ SDesc.warm d ≠ 0 then
        bytesFrom (SDesc.warmAddr d + 64) (o.x.flatMap fun n => leBytes (SDesc.w d / 8) (ofSigned (SDesc.w d) n)) ++
          bytesFrom (SDesc.warmAddr d) (Sys2Proof.warmHeader d o) else []
    (SDesc.pattern d = true → SDesc.solves d = true → s.ms.poison = ⟨[]⟩ ∧
      ∀ a n, (a, n) ∈ [(SDesc.xf d, SDesc.n d * fmtBytes (SDesc.xfFmt d)), (SDesc.rowPtr d, 4 * (SDesc.ptrRows d + 1)),
        (SDesc.colIdx d, 4 * Sys2Proof.ironCnt s d)] → ∀ k < n, ∀ w ∈ xs, s.place w.1 = none ∨ s.place w.1 ≠ s.place (a + k)) →
    Completes (.solveEnd i) s fun t => ∃ res bn vec at' idx first,
      (t.core r).iron = { (s.core r).iron with state := 0, phase := 0, lastCode := code } ∧
      (t.ifc i).solve = none ∧ (t.ifc i).tokens = (s.ifc i).tokens ∧ (t.ifc i).preds = (s.ifc i).preds ∧
      (t.ifc i).exe.flight = (s.ifc i).exe.flight.map (fun f => if f.idx = v.idx then { f with
        fin := true
        preds := (SDesc.predOk d, true) :: if SDesc.solves d then [(SDesc.predConv d, decide (o.reason = 0) || decide (o.reason = 4))]
          else [] } else f) ∧
      (∀ x, o.resNorm = some x → res = x.toNat) ∧ (∀ x, o.bNorm = some x → bn = x.toNat) ∧
      (∀ x, o.breach = some x → vec = x.1 ∧ at' = x.2) ∧ (∀ x, o.index = some x → idx = x) ∧
      (∀ x, o.pivFirst = some x → first = x) ∧
      Stored s t (xs ++ pgs ++ warm ++ bytesFrom (SDesc.stat d) (Sys2Proof.ironStatus o code (SDesc.pattern d) res bn vec at' idx first)) ∧
      ∀ q, q ≠ r → t.core q = s.core q

/-! ### The collective units -/

/-- R429, R448: the collective operations, by OP. -/
def Sys2Proof.collRows (i : IfaceId) : List (Instr × Nat) :=
  [(.allReduce i, 0), (.reduceScatter i, 1), (.allGather i, 2), (.allToAll i, 3)]

/-- R417 to R419, R425 to R427: a COLL whose channel has room, whose descriptor is allowed and well formed, whose participants
the route table serves, and none of whose ranges a window forbids, begins: it is in flight, and its channel holds its
operation behind the others with the channel's next sequence number. Nothing else changes. -/
def Obligations.CollectivesBegin : Prop :=
  ∀ s i c (d : CDesc) node, Quiet s → HeadAt s i .acc c → cmdOp c = 0x60 → s.ownNode = some node →
    let ch := fld (cmdWord c 5) 0 4
    let x := s.chan ch
    let tp : Topo := { dim := s.dims, node := if CDesc.role d = 2 then CDesc.partner d else node }
    s.engineCore i ≠ none → x.ops.length < 16 →
    d = BitVec.ofNat 1024 (s.natAt (cmdAddr c) 128) → s.denied i false .read (cmdAddr c) 128 = none →
    s.collBad tp (((s.jobOf i).map Job.bcNeed).getD 0) d = false →
    (CDesc.role d ≠ 2 → ∀ n ∈ tp.others d, s.physOfNode n ≠ none) → (CDesc.role d ≠ 0 → s.physOfNode (CDesc.partner d) ≠ none) →
    (∀ a ∈ tp.ranges d, ∀ e, s.denied i false a.1 a.2.1 a.2.2 = some e → e.code ≠ 0x0980#16) →
    ∀ p ∈ Sys2Proof.collRows i, CDesc.op d = p.2 →
    Completes p.1 s fun t => ∃ y, Begun s i .acc c id y ∧ OnlyIfc [.ms, .chans] s t i y id ∧ t.ms = { s.ms with home := t.ms.home } ∧
      t.chan ch = { x with
        seq := x.seq + 1
        job := s.jobNo i
        ops := x.ops ++ [{
          seq := x.seq, owner := i, idx := (s.ifc i).acc.head, tag := BitVec.ofNat 16 (cmdTag c), desc := d
          node := BitVec.ofNat 14 node
          state := if CDesc.trig d = true ∧ CDesc.length d ≠ 0 then .armed else .waiting
          armIter := ((s.jobOf i).map (·.iter)).getD 0, armedAt := s.hif.time.toNat, prog := s.hif.time.toNat
          late := decide (CDesc.role d = 1 ∧ CDesc.deadline d = 0) }] } ∧
      ∀ k, k ≠ ch → t.chan k = s.chan k

/-- An operation of a reduction in a scalar format along the X ring, without a backup worker. -/
def Sys2Proof.plainRing (d : CDesc) : Prop :=
  CDesc.op d ≤ 2 ∧ CDesc.scope d = 2 ∧ CDesc.role d = 0 ∧ CDesc.mx d = false ∧ CDesc.trig d = false ∧ 0 < CDesc.count d

/-- The channels with one replaced. -/
def Sys2Proof.onlyChan (s t : State) (ch : Nat) (x : Chan) : Prop := t.chan ch = x ∧ ∀ k, k ≠ ch → t.chan k = s.chan k

/-- R417: how often the channels of the unit of a channel have been served once it has served this one. -/
def Sys2Proof.servedTurn (s : State) (ch : Nat) : Nat :=
  1 + (unitChans ch).foldl (fun m k => Nat.max m (s.chan k).turn) 0

/-- R417, R423, R430, R438, R440: COLL_MOVE_DATA of the one waiting operation of a channel along an X ring in a scalar
format, every stack at full rate. With a ring of one device, DST takes the bytes of SRC. With a longer ring, a reduction
sends the units of the part before its own, as they stand in SRC, to the next device of the ring, here in one packet. That
the first packet goes out at the start, and that a packet is a turn of the unit, are the model's reading (DEDUCED, log 70),
and that partials are rounded onto the agreed grid is log 20. Block-scaled partials and other rings are not said here. -/
def Sys2Proof.Says.CollectivesMoveData : Prop :=
  ∀ s (ch : Fin 16) o, Quiet s → (s.chan ch).ops = [o] → o.state = .waiting → Sys2Proof.plainRing o.desc → o.stalled = [] →
    o.out = ⟨[]⟩ → o.spill = [] → o.ahead = [] → o.early = 0 → o.hotOff = [] → o.taken = none → s.ms.hbm = 0 → s.ms.critical = 0 →
    let d : CDesc := o.desc
    let tp : Topo := { dim := s.dims, node := o.node.toNat }
    let n := tp.ring d
    let ub := CDesc.unitBytes d
    let o' := { o with
      state := .moving, iter := ((s.jobOf o.owner).map (·.iter)).getD 0, movedAt := s.hif.time.toNat, prog := s.hif.time.toNat
      owed := tp.owed d }
    (n = 1 → (∀ u < CDesc.count d, s.denied o.owner false .read (CDesc.src d + u * ub) ub = none) →
      s.denied o.owner false .write (CDesc.dst d) (CDesc.count d * ub) = none →
      Completes (.collMoveData ch) s fun t => Frame [.chans, .mem, .ms, .ft] s t ∧
        Stored s t (bytesFrom (CDesc.dst d) (s.bytesAt (CDesc.src d) (CDesc.count d * ub))) ∧
        PoisonCleared s t (CDesc.dst d) (CDesc.count d * ub) ∧
        Sys2Proof.onlyChan s t ch { s.chan ch with ops := [o'], turn := Sys2Proof.servedTurn s ch }) ∧
    (2 ≤ n → CDesc.op d ≠ 2 →
      let part := tp.part d ((tp.me.x + (n - 1)) % n)
      ∀ p, s.physOfNode (tp.atX ((tp.me.x + 1) % n)) = some p → 0 < part.2 → part.2 * ub ≤ 4032 →
      (∀ u, part.1 ≤ u → u < part.1 + part.2 → s.denied o.owner false .read (CDesc.src d + u * ub) ub = none) →
      Completes (.collMoveData ch) s fun t => Frame [.chans, .fab, .ms] s t ∧ t.ms = { s.ms with home := t.ms.home } ∧
        t.fab = { s.fab with inject := s.fab.inject ++ [mkPacket 0x30 p s.physNode (s.keyOf o.owner).toNat 0 0 0 false
          [ch + 1 * 2 ^ 4 + 1 * 2 ^ 8, o.seq.toNat, CDesc.digest d, part.1, part.2, 0, 0, 0, 0]
          (s.bytesAt (CDesc.src d + part.1 * ub) (part.2 * ub))] } ∧
        Sys2Proof.onlyChan s t ch { s.chan ch with
          ops := [{ o' with out := o.out.set 0 (8 * p + 1) 1 }], turn := Sys2Proof.servedTurn s ch })

/-- R456: the status record of an operation. -/
def Sys2Proof.collStatus (s : State) (o : COp) : List Byte :=
  bytesOf [o.code.toNat + b2n (o.taken == some true) * 2 ^ 16 + b2n o.handed * 2 ^ 17 + b2n o.spilled * 2 ^ 18, o.seq.toNat,
    o.iter.toNat, o.escBlk, o.escDet, o.firstEsc.toNat, o.dropped, 0, o.hoFirst.toNat % 2 ^ 32, o.hoFirst.toNat / 2 ^ 32,
    (s.hif.time.toNat - o.movedAt) % 2 ^ 32, (s.hif.time.toNat - o.movedAt) / 2 ^ 32 % 2 ^ 32, 0, 0, 0, 0]

/-- R420, R456: COLL_COMPLETE of the oldest operation, a reduction that owes and waits for nothing: its status record is
written, it leaves its channel, and its command has finished with its conditions. -/
def Sys2Proof.Says.CollectivesComplete : Prop :=
  ∀ s (ch : Fin 16) o rest r, Quiet s → (s.chan ch).ops = o :: rest → o.owner = .core r → o.state = .moving → o.stalled = [] →
    o.out = ⟨[]⟩ → o.owed = 0 → o.unacked = 0 → o.spill = [] → o.handed = false → CDesc.op o.desc ≤ 2 → CDesc.role o.desc ≠ 2 →
    s.darns (.coll ch) = false → s.denied o.owner false .write (CDesc.stat o.desc) 64 = none →
    Completes (.collComplete ch) s fun t => Frame [.cores, .chans, .mem, .ms] s t ∧ t.ms = { s.ms with home := t.ms.home } ∧
      Stored s t (bytesFrom (CDesc.stat o.desc) (Sys2Proof.collStatus s o)) ∧
      Sys2Proof.onlyChan s t ch { s.chan ch with ops := rest } ∧
      t.core r = { s.core r with ifc := { s.ifc (.core r) with acc := { (s.ifc (.core r)).acc with
        flight := (s.ifc (.core r)).acc.flight.map fun f => if f.idx = o.idx then { f with fin := true, conds := o.conds } else f } } } ∧
      ∀ q, q ≠ r → t.core q = s.core q

/-- A control packet of an operation to a device (R439). -/
def Sys2Proof.collControl (s : State) (ch : Nat) (o : COp) (ctype phys w7 : Nat) : Packet :=
  mkPacket 0x31 phys s.physNode (s.keyOf o.owner).toNat 0 ctype 0 false [ch, o.seq.toNat, CDesc.digest o.desc, w7] []

/-- R455: the one operation of a channel, of core `r`, has failed with a code: its command has left its stream, its interface
is halted, and of memory only DST and the status record have changed. -/
def Sys2Proof.collFailed (s t : State) (ch : Nat) (o : COp) (r : CoreRef) (code : BitVec 16) : Prop :=
  let i := IfaceId.core r
  (t.ifc i).halted = true ∧ (t.ifc i).bob.lastCode = code ∧ (t.ifc i).bob.haltIdx = BitVec.ofNat 32 o.idx ∧
  (t.ifc i).acc.flight = (s.ifc i).acc.flight.filter (fun f => decide (f.idx ≠ o.idx)) ∧ (t.ifc i).tokens = (s.ifc i).tokens ∧
  Sys2Proof.onlyChan s t ch { s.chan ch with
    ops := [{ o with state := .failed, code := mergeCode o.code code, stalled := [], early := 0, spill := [], ahead := [] }], lastCode := code } ∧
  (∀ p, (∀ k < (({ dim := s.dims, node := o.node.toNat } : Topo).dstBytes o.desc), s.place (CDesc.dst o.desc + k) ≠ some p) →
    (∀ k < 64, s.place (CDesc.stat o.desc + k) ≠ some p) → t.mem.get 0 p = s.mem.get 0 p) ∧
  ∀ q, q ≠ r → t.core q = s.core q

/-- R446, R454, R455: while the timers count, DEADLINE_US passes: an armed primary whose own trigger has not fired is late, and with its backup's copy
complete takes it, raises COLL_BACKUP_TAKEN and tells the backup worker. COLL_ALIVE_TIMER: the armed operation of a channel
sends ALIVE to every other participant. COLL_WATCHDOG: the moving operation fails with COLL_STALL, and ABORT goes to them. -/
def Sys2Proof.Says.CollectiveTimers : Prop :=
  ∀ s (ch : Fin 16) o r, Quiet s → (s.chan ch).ops = [o] → o.owner = .core r → (s.ifc (.core r)).halted = false → s.pins.peClk = true →
    let d : CDesc := o.desc
    let tp : Topo := { dim := s.dims, node := o.node.toNat }
    (o.state = .armed → CDesc.role d = 1 → o.taken = none → o.late = false → CDesc.length d ≠ 0 → CDesc.trig d = true →
      ((s.jobOf o.owner).map (·.iter)).getD 0 = o.armIter →
      (o.bkUnits < (tp.srcUnits d).2 →
        Completes (.backupDeadline ch) s fun t => Frame [.chans] s t ∧
          Sys2Proof.onlyChan s t ch { s.chan ch with ops := [{ o with late := true }] }) ∧
      ∀ p, (tp.srcUnits d).2 ≤ o.bkUnits → s.physOfNode (CDesc.partner d) = some p →
        Completes (.backupDeadline ch) s fun t =>
          Sys2Proof.onlyChan s t ch { s.chan ch with
            ops := [{ o with late := true, taken := some true, code := mergeCode o.code 0x0B41#16 }], lastCode := 0x0B41#16 } ∧
          t.fab = { s.fab with inject := s.fab.inject ++ [Sys2Proof.collControl s ch o 2 p 1] } ∧ t.mem = s.mem ∧ t.cores = s.cores ∧
          t.lint = s.lint.event true (Sys2Proof.eventOf s (.coll ch) 0x0B41#16 (s.keyOf o.owner) [ch, o.seq.toNat, 0, 0])) ∧
    (CDesc.role d ≠ 2 → (∀ n ∈ tp.others d, s.physOfNode n ≠ none) →
      let tell := fun (ct w : Nat) => (tp.others d).map fun n => Sys2Proof.collControl s ch o ct ((s.physOfNode n).getD 0) w
      (o.state = .armed →
        Completes (.collAliveTimer ch) s fun t => Frame [.fab] s t ∧ t.fab = { s.fab with inject := s.fab.inject ++ tell 3 0 }) ∧
      (o.state = .moving →
        Completes (.collWatchdog ch) s fun t => Sys2Proof.collFailed s t ch o r 0x0B80#16 ∧
          t.fab.inject = s.fab.inject ++ tell 4 0x0B80))

/-- Packet `p` is the only one of class 3 that has come, and belongs to the one live operation `o` of its channel. -/
def Sys2Proof.packetFor (s : State) (p : Packet) (o : COp) : Prop :=
  s.ejected 3 = [p] ∧ ((s.chan p.chan).job.bind s.job).map (fun j => j.key.toNat) = some (hKey p.hdr) ∧ (s.chan p.chan).ops = [o] ∧
  o.seq.toNat = p.word 5 ∧ o.state ≠ .failed ∧ p.word 6 = CDesc.digest o.desc ∧ s.ft.darning = []

/-- The packet has been taken from what has come, and `l` has been injected. -/
def Sys2Proof.packetTaken (s t : State) (l : List Packet) : Prop :=
  ∃ e : Tab (List Packet), t.fab = { s.fab with eject := e, inject := s.fab.inject ++ l } ∧ e.get [] 3 = [] ∧
    ∀ k, k ≠ 3 → e.get [] k = s.fab.eject.get [] k

/-- Memory once a packet of an operation has lain in a slot of its staging area, whose contents the spec leaves open (R441), and
the bytes of `ws` have been written: a byte that is not of the slots, or that `ws` writes, is what `ws` makes of it. -/
def Sys2Proof.storedPastSlots (s t : State) (d : CDesc) (ws : List (Nat × Byte)) : Prop :=
  ∀ q, (∀ k < CDesc.minStage d s.dims.2.2, s.place (CDesc.stage d + k) ≠ some q) ∨ (∃ w ∈ ws, s.place w.1 = some q) →
    t.mem.get 0 q = storedByte s ws q

/-- R417, R421, R430 to R432, R440, R441, R449: COLL_DATA along an X ring in a scalar format, and of an all-to-all. The last
partial of a reduce-scatter along an X ring in a scalar format is summed with the own units, each rounded once, and the sums
are written in DST; a packet of rows of an all-to-all is written at its source's rows of DST. One credit for each packet
consumed goes back to its sender (the model's choice, log 21), and the unit has served its channel, which was one turn of it
(log 70). That every partial is rounded onto the agreed grid is log 20, and where a packet's slot lies is free (log 35).
Block-scaled partials (R432) and other rings are not said here. -/
def Obligations.CollectiveDataConsumed : Prop :=
  ∀ s p o peer, Quiet s → Sys2Proof.packetFor s p o → hKind p.hdr = 0x30 → o.state = .moving → s.peerOf o (hSrc p.hdr) = some peer →
    s.ms.hbm = 0 → s.ms.critical = 0 → o.stalled = [] → o.spill = [] → o.ahead = [] → o.hotOff = [] →
    let d : CDesc := o.desc
    let tp : Topo := { dim := s.dims, node := o.node.toNat }
    let n := p.word 8 % 2 ^ 12
    let turn := Sys2Proof.servedTurn s p.chan
    let back := mkPacket 0x31 (hSrc p.hdr) s.physNode (hKey p.hdr) 0 0 0 false [p.chan, p.word 5, p.word 6, p.stage + 2 ^ 8] []
    0 < n → CDesc.role d = 0 →
    (Sys2Proof.plainRing d → CDesc.op d = 1 → p.stage = 1 → p.hop + 1 = tp.ring d → 2 ≤ tp.ring d →
      let ub := CDesc.unitBytes d
      let own := tp.own d
      let a := CDesc.dst d + (p.word 7 - own.1) * ub
      p.payload.length = n * ub → own.1 ≤ p.word 7 → p.word 7 + n ≤ own.1 + own.2 →
      (∀ k < n, s.denied o.owner false .read (CDesc.src d + (p.word 7 + k) * ub) ub = none) →
      s.denied o.owner false .write a (n * ub) = none →
      (∀ j < CDesc.minStage d s.dims.2.2, ∀ k < n * ub,
        s.place (CDesc.stage d + j) = none ∨ s.place (CDesc.stage d + j) ≠ s.place (CDesc.src d + p.word 7 * ub + k)) →
      let sum := fun k => ((CDesc.fmt d).cvt 0 .rne (sumNums
        [(CDesc.fmt d).dec 0 (leNat ((p.payload.drop (k * ub)).take ub)),
          (CDesc.fmt d).dec 0 (s.natAt (CDesc.src d + (p.word 7 + k) * ub) ub)]).1).1
      Completes .collData s fun t => ∃ (k : Conds) (got : Tab Bool),
        (∀ u, got.get false u = (o.got.get false u || (decide (p.word 7 ≤ u) && decide (u < p.word 7 + n)))) ∧
        Frame [.chans, .fab, .mem, .ms, .ft, .free] s t ∧ Sys2Proof.packetTaken s t [back] ∧
        Sys2Proof.storedPastSlots s t d (bytesFrom a ((upto n).flatMap fun k => leBytes ub (sum k))) ∧ PoisonCleared s t a (n * ub) ∧
        Sys2Proof.onlyChan s t p.chan { s.chan p.chan with
          ops := [{ o with owed := o.owed - n, got := got, conds := k, prog := s.hif.time.toNat }], turn := turn }) ∧
    (CDesc.op d = 3 → p.stage = 4 →
      let z := (coordOf s.dims peer).z
      let rb := CDesc.rowBytes d
      let a := CDesc.dst d + (z * CDesc.cap d + p.word 7) * rb
      0 < rb → p.payload.length = n * rb → p.word 7 + n ≤ CDesc.cap d → s.denied o.owner false .write a (n * rb) = none →
      Completes .collData s fun t => Frame [.chans, .fab, .mem, .ms, .ft, .free] s t ∧ Sys2Proof.packetTaken s t [back] ∧
        Sys2Proof.storedPastSlots s t d (bytesFrom a p.payload) ∧ PoisonCleared s t a (n * rb) ∧
        Sys2Proof.onlyChan s t p.chan { s.chan p.chan with
          ops := [{ o with rows := o.rows.upd 0 z (· + n), prog := s.hif.time.toNat }], turn := turn })

/-- R439, R440, R445, R449, R454, R455: the control packets of a live operation: CREDIT gives credits back, and what
waited for them stays for the channel's turn (R417, log 70); COUNT announces the
rows of its sender, and its credit goes back (the model's choice, log 68); BACKUP_DONE tells a backup
worker its primary's decision, and drops what it has not sent; ALIVE counts as progress; ABORT fails the
operation with COLL_ABORTED, and nothing is sent for it. -/
def Sys2Proof.Says.CollectiveControlPackets : Prop :=
  ∀ s p o, Quiet s → Sys2Proof.packetFor s p o → hKind p.hdr = 0x31 →
    let d : CDesc := o.desc
    let now := s.hif.time.toNat
    let back := mkPacket 0x31 (hSrc p.hdr) s.physNode (hKey p.hdr) 0 0 0 false [p.chan, p.word 5, p.word 6, 4 + 2 ^ 8] []
    let kept := fun (t : State) (l : List Packet) (o' : COp) => Frame [.chans, .fab] s t ∧ Sys2Proof.packetTaken s t l ∧
      Sys2Proof.onlyChan s t p.chan { s.chan p.chan with ops := [o'] }
    (p.ctype = 0 → Completes .credit s fun t =>
      kept t [] { o with out := o.out.upd 0 (8 * hSrc p.hdr + p.word 7 % 8) (· - fld (p.word 7) 8 7) }) ∧
    (∀ peer, p.ctype = 1 → s.peerOf o (hSrc p.hdr) = some peer → Completes .count s fun t =>
      kept t [back] { o with counts := o.counts.set none (coordOf s.dims peer).z (some (p.word 7)), prog := now }) ∧
    (p.ctype = 2 → CDesc.role d = 2 → Completes .backupDone s fun t =>
      kept t [] { o with taken := some (bitOf (p.word 7) 0), stalled := [], early := 0, prog := now }) ∧
    (p.ctype = 3 → Completes .alive s fun t => kept t [] { o with prog := now }) ∧
    (∀ r, p.ctype = 4 → o.owner = .core r → (s.ifc (.core r)).halted = false → Completes .abort s fun t =>
      Sys2Proof.collFailed s t p.chan o r 0x0B81#16 ∧ t.fab.inject = s.fab.inject ∧ t.ejected 3 = [])

/-! ### Jobs -/

/-- R476: the completion record written at `a`: word 0 holds the state and the code. -/
def Sys2Proof.recordAt (s : State) (a st : Nat) (code : BitVec 16) (index iface iter start : Nat) : List (Nat × Byte) :=
  let now := s.hif.time.toNat
  bytesFrom (a + 192) (bytesOf ([st + code.toNat * 2 ^ 16, index, iface, iter, start % 2 ^ 32, start / 2 ^ 32,
    (now - start) % 2 ^ 32, (now - start) / 2 ^ 32 % 2 ^ 32] ++ List.replicate 8 0))

/-- R64, R218, R469, R471 to R474, R476: JOB_START on a ready device takes the entry at HEAD. Where every check of its
descriptor and tables holds, the copies of its hem gangs have come, and none that was told for it differs (R61), the job is bound under the next number: its
cores are as the job finds them, empty, its own, and its core interfaces have the streams of their entries. Where the descriptor's own fields are bad, a rejection record with
HIF_JOB_BAD is written, DONE advances too, and there is no job. -/
def Obligations.JobsStart : Prop :=
  ∀ s (ring : Fin 8), Quiet s → let r := s.ring ring
    let entry := r.base.toNat + r.head.toNat % r.entries * 256
    let d := s.natAt entry 192
    let j := s.jobFrom ring entry d
    let n := s.jobCount
    s.hif.ready = true → r.entries ≠ 0 → r.head ≠ r.tail → r.taken = none → s.ft.folded = false →
    (s.jobChecks entry d j = .ok () →
      s.copyBad j = none → (j.hemGangs = [] ∨ (s.fab.copied.contains j.key = true ∧ s.copiesHere j = true)) →
      Completes (.jobStart ring) s fun t =>
        t.mem = s.mem ∧ t.ring ring = { r with head := r.head + 1 } ∧ (∀ k, k ≠ ring.val → t.ring k = s.ring k) ∧ t.jobCount = n + 1 ∧
        (∃ g, t.job n = some { j with gangSt := g }) ∧ (∀ m, m ≠ n → t.job m = s.job m) ∧
        (∀ c ∈ j.cores, (t.core c).ifc.job = some n ∧ (t.core c).ifc.halted = false ∧ (t.core c).ifc.tokens = ⟨[]⟩ ∧
          (t.core c).mng.tiles = [] ∧ (t.core c).dq = ⟨[]⟩ ∧ (t.core c).mng.norm = (s.core c).mng.norm) ∧
        (∀ e ∈ j.ifaces, ifGang e = false → ∀ c, s.physOf (ifId e) = some c → c ∈ j.cores →
          (t.core c).ifc.acc = { base := BitVec.ofNat 64 (ifABase e), count := ifACount e } ∧
          (t.core c).ifc.exe = { base := BitVec.ofNat 64 (ifXBase e), count := ifXCount e }) ∧
        ∀ c, c ∉ j.cores → (∀ e ∈ j.ifaces, ifGang e = false → s.physOf (ifId e) ≠ some c) → t.core c = s.core c) ∧
    (s.readable entry 192 = .ok () → s.descGood d = false → jdIrq d = false →
      Completes (.jobStart ring) s fun t => ∃ it,
        Stored s t (Sys2Proof.recordAt s entry 2 0x0C83#16 0 0 it s.hif.time.toNat) ∧
        t.ring ring = { r with head := r.head + 1, done := r.done + 1 } ∧ (∀ k, k ≠ ring.val → t.ring k = s.ring k) ∧
        t.cores = s.cores ∧ t.jobs = s.jobs ∧ t.jobCount = n ∧
        t.lint = s.lint.event true (Sys2Proof.eventOf s (.ring ring) 0x0C83#16 (BitVec.ofNat 32 (jdKey d)) []))

/-- R64, R211, R251, R476: JOB_COMPLETE of a job that is done, with no reference left and no error among its codes: its
generation numbers go back to its table, its record is written with its code, DONE advances, and its cores are released; a
core keeps its tap sums, its registers and its memory, and loses its tiles, programs and flights (the model's reading,
DEDUCED, log 45), and keeps no entry of a data queue (R251). -/
def Sys2Proof.Says.JobsComplete : Prop :=
  ∀ s n j, Quiet s → s.job n = some j → j.ended = false → s.jobDone n j = true → (∀ e ∈ j.gens, e.ref0 = 0 ∧ e.ref1 = 0) →
    codeClass j.code ≠ 2 → jdIrq j.desc.toNat = false →
    Completes (.jobComplete n) s fun t =>
      Stored s t ((j.gens.zipIdx.flatMap fun e =>
          bytesFrom (jdGenAddr j.desc.toNat + 32 * e.2 + 24) (bytesOf [e.1.gen0.toNat, e.1.gen1.toNat])) ++
        Sys2Proof.recordAt s j.entry.toNat 1 j.code 0 0 j.iter.toNat j.startNs.toNat) ∧
      t.ring j.ring = { s.ring j.ring with done := (s.ring j.ring).done + 1 } ∧ t.job n = none ∧ (∀ m, m ≠ n → t.job m = s.job m) ∧
      (∀ c ∈ j.cores, (t.core c).ifc.job = none ∧ (t.core c).ifc.acc = {} ∧ (t.core c).ifc.exe = {} ∧
        (t.core c).mng.norm = (s.core c).mng.norm ∧ (t.core c).dq = ⟨[]⟩) ∧
      ∀ c, c ∉ j.cores → t.core c = s.core c

/-- R256, R476: JOB_HALT. The first step after an interface has halted halts every top-level interface of its job. Once every
command that had begun has ended, the record names the code and the command, DONE advances, the job has ended and holds its
cores as they are. -/
def Sys2Proof.Says.JobsHalt : Prop :=
  ∀ s n j code idx r st, Quiet s → s.job n = some j → j.ended = false → j.halt = some (code, idx, some (.core r), st) →
    (j.halted = false → Completes (.jobHalt n) s fun t => (∃ j', t.job n = some j' ∧ j'.halted = true) ∧
      ∀ c ∈ j.cores, (t.ifc (.core c)).halted = true ∧ (t.core c).mng.norm = (s.core c).mng.norm) ∧
    (j.halted = true → s.jobStill n j = true → j.fatal = [] → j.failed = [] → s.ft.folded = false → jdIrq j.desc.toNat = false →
      Completes (.jobHalt n) s fun t =>
        Stored s t (Sys2Proof.recordAt s j.entry.toNat 3 j.code idx.toNat
          (s.ifaceNo (.core r) % 2 ^ 12 + fld (s.ifaceNo (.core r)) 16 1 * 2 ^ 12 + strmNo st * 2 ^ 13) j.iter.toNat j.startNs.toNat) ∧
        t.ring j.ring = { s.ring j.ring with done := (s.ring j.ring).done + 1 } ∧
        t.job n = some { j with ended := true } ∧ (∀ m, m ≠ n → t.job m = s.job m) ∧ t.cores = s.cores)

/-- R64: JOB_COMPLETE completes for every job none of whose interfaces has halted, each of whose top-level interfaces has begun
or skipped every command of its two streams and waits for none, whatever its codes and references: DONE advances, there is no
such job any more, and its cores are free. -/
def Sys2Proof.Says.EveryDoneJobCompletes : Prop :=
  ∀ s n j, Quiet s → s.job n = some j → j.ended = false → j.halt = none →
    (∀ i ∈ s.topIfaces n j, let y := s.ifc i
      y.halted = false ∧ y.store = [] ∧ y.solve = none ∧ y.acc.count ≤ y.acc.head ∧ y.acc.flight = [] ∧
      y.exe.count ≤ y.exe.head ∧ y.exe.flight = []) →
    ∃ t, exec (.jobComplete n) s = .next t ∧ t.job n = none ∧ (∀ m, m ≠ n → t.job m = s.job m) ∧
      (t.ring j.ring).done = (s.ring j.ring).done + 1 ∧
      ∀ c ∈ j.cores, (t.core c).ifc.job = none ∧ (t.core c).vec.run = none ∧ (t.core c).mng.tiles = [] ∧ (t.core c).dq = ⟨[]⟩

/-- R256: JOB_HALT completes for every job that a code halts, whatever halts it: every interface of the job, members of gangs
included, has then halted. -/
def Sys2Proof.Says.EveryHaltedJobHalts : Prop :=
  ∀ s n j h, Quiet s → s.job n = some j → j.ended = false → j.halt = some h →
    ∃ t j', exec (.jobHalt n) s = .next t ∧ t.job n = some j' ∧ j'.halted = true ∧ j'.halt = some h ∧
      (j.halted = false → ∀ i ∈ s.allIfaces n j, (t.ifc i).halted = true) ∧ (j.fatal = [] → ∀ m, m ≠ n → t.job m = s.job m)

/-! ### Faults -/

/-- Nothing but the memory system and the fault-tolerance registers has changed, and they are as given. -/
def Sys2Proof.onlyFaults (s t : State) (ms : MemSys) (ft : Ft) : Prop := Frame [.ms, .ft] s t ∧ t.ms = ms ∧ t.ft = ft

/-- R575, R577, R602: PARITY_ERROR at a vector engine that runs a program: the re-read is counted; where it is good nothing
else happens, and where it is not the engine's unit is recomputed. DARN_RECOMPUTE that succeeds is counted and reported. One
that fails is fatal: its command leaves its stream uncompleted and its interface halts with PARITY_FATAL. -/
def Obligations.ParityErrors : Prop :=
  ∀ s r x, Quiet s → (s.core r).vec.run = some x → x.owner = .core r → s.ft.reread ≠ 0xFFFFFFFF → s.ft.darn ≠ 0xFFFFFFFF →
    let site := ParitySite.vector r
    (s.ft.darning.contains site = false →
      Completes (.parityError site true) s (fun t => Sys2Proof.onlyFaults s t s.ms { s.ft with reread := s.ft.reread + 1 }) ∧
      Completes (.parityError site false) s fun t => Sys2Proof.onlyFaults s t s.ms
        { s.ft with reread := s.ft.reread + 1, darning := s.ft.darning ++ [site] }) ∧
    (s.ft.darning.contains site = true →
      let ft := { s.ft with darning := s.ft.darning.filter fun y => decide (y ≠ site) }
      Completes (.darnRecompute site true) s (fun t =>
        t.ft = { ft with darn := s.ft.darn + 1, lastCode := 0x0F40#16 } ∧ t.mem = s.mem ∧
        t.core r = { s.core r with vec := { (s.core r).vec with lastCode := 0x0F40#16 } } ∧ (∀ q, q ≠ r → t.core q = s.core q) ∧
        t.lint = s.lint.event true (Sys2Proof.eventOf s (.vec r) 0x0F40#16 (s.keyOf (.core r)) [])) ∧
      ((s.ifc (.core r)).halted = false → (upto 16).all (fun ch => (s.chan ch).ops.isEmpty) = true →
        Completes (.darnRecompute site false) s fun t => (t.ifc (.core r)).halted = true ∧
          (t.ifc (.core r)).bob.lastCode = 0x0F81#16 ∧ (t.ifc (.core r)).bob.haltIdx = BitVec.ofNat 32 x.idx ∧
          (t.ifc (.core r)).exe.flight = (s.ifc (.core r)).exe.flight.filter (fun f => decide (f.idx ≠ x.idx)) ∧
          (t.core r).vec.run = none ∧ t.ft.lastCode = 0x0F81#16 ∧
          t.ft.fatalLoc = BitVec.ofNat 32 ((Src.vec r).code.toNat + (s.loc (.vec r)).toNat * 2 ^ 8) ∧ t.mem = s.mem ∧
          ∀ q, q ≠ r → t.core q = s.core q))

/-- R358, R361, R580, R581: the events of the HBM controllers. A line of HBM in which an error cannot be corrected becomes
poisoned and is counted, and HBM_UNCORR is left to the demand access that meets it (the model's choice, log 26). A refresh of
a trained stack that has not failed counts nothing but itself. A window of quotas begins with the shares last written, and as
many of the requests that wait at the stack are served as its bandwidth takes, of each class the oldest first (the model's
choice, log 66), and at half rate half as many (R450). A command parity error whose retry succeeds ends the count of retries,
and one whose retry fails adds one; the sixteenth in succession fails the stack, and every running job with a window on it
halts. -/
def Sys2Proof.Says.HbmEvents : Prop :=
  ∀ s, Quiet s →
    (∀ line : BitVec 31, s.poisoned line.toNat = false → s.ft.poison ≠ 0xFFFFFFFF →
      (s.ms.recent.filter fun x => x.1 == line.toNat / 2 ^ 28).length < 63 →
      Completes (.hbmUncorrectable line) s fun t => ∃ l, Sys2Proof.onlyFaults s t
        { s.ms with poison := s.ms.poison.set false line.toNat true, recent := l } { s.ft with poison := s.ft.poison + 1 }) ∧
    ∀ k : Fin 8,
      (bitOf s.ms.hbm.toNat (4 * k) = true → s.stackFailed k = false →
        Completes (.hbmRefresh k) s fun t => Sys2Proof.onlyFaults s t
          { s.ms with refreshes := s.ms.refreshes.set 0 k (s.ms.refreshes.get 0 k + 1) } s.ft) ∧
      Completes (.quotaWindow k) s (fun t => ∃ (u : Tab Nat) (q : Tab (List Nat)), Sys2Proof.onlyFaults s t
        { s.ms with quotaNow := s.ms.quotaNow.set 0x01101008 k (s.ms.quota.get 0x01101008 k), quotaUsed := u
                    home := { s.ms.home with asks := q } } s.ft ∧
        (let old := fun c => s.ms.home.asks.get [] (4 * k.val + c)
        ((upto 4).map fun c => u.get 0 (4 * k.val + c)).sum =
          min (if bitOf s.ms.hbm.toNat (4 * k + 1) = true then 4003 else 8007) ((upto 4).map fun c => (old c).length).sum ∧
        ∀ c < 4, u.get 0 (4 * k.val + c) ≤ (old c).length ∧
          q.get [] (4 * k.val + c) = (old c).take ((old c).length - u.get 0 (4 * k.val + c))) ∧
        ∀ n, n / 4 ≠ k.val → u.get 0 n = s.ms.quotaUsed.get 0 n ∧ q.get [] n = s.ms.home.asks.get [] n) ∧
      (s.stackFailed k = false →
        Completes (.hbmCaParityError k true) s (fun t => Sys2Proof.onlyFaults s t
          { s.ms with retries := s.ms.retries.set 0 k 0 } s.ft) ∧
        (s.ms.retries.get 0 k < 15 → Completes (.hbmCaParityError k false) s fun t => Sys2Proof.onlyFaults s t
          { s.ms with retries := s.ms.retries.set 0 k (s.ms.retries.get 0 k + 1) } s.ft) ∧
        (s.ms.retries.get 0 k = 15 → Completes (.hbmCaParityError k false) s fun t =>
          t.stackFailed k = true ∧ t.mem = s.mem ∧ t.ft.lastCode = 0x0F83#16 ∧
          ∀ n j, s.job n = some j → j.ended = false → j.onStack k = true → j.halt = none →
            (t.job n).bind (·.halt) = some (0x0F83#16, 0, none, .acc)))

/-- R378 to R380: RINSE_SCRUB of a line of a working stack, with Rinse on and the device ready: it reads the line in class 3 (that
its requests wait with the others at the stack is the model's, log 66); a clean line advances the pass; a corrected error is
counted, reported and written back; one that cannot be corrected is counted, poisons its line and is reported. That the line then
counts towards the failure of its stack is the model's choice (log 26). -/
def Sys2Proof.Says.RinseScrubs : Prop :=
  ∀ s (l : BitVec 31), Quiet s → bitOf s.ms.rinse.toNat 0 = true → s.hif.ready = true → s.ft.folded = false →
    s.stackFailed (l.toNat / 2 ^ 28) = false → s.poisoned l.toNat = false → s.ms.rinseHbm + 1 < 2 ^ 31 →
    s.ms.rinseCor ≠ 0xFFFFFFFF → s.ms.rinseUnc ≠ 0xFFFFFFFF → s.ft.poison ≠ 0xFFFFFFFF →
    (s.ms.recent.filter fun x => x.1 == l.toNat / 2 ^ 28).length < 63 →
    let src := Src.mem (l.toNat / 2 ^ 28)
    let asked := fun (t : State) n => (t.ms.home = { s.ms.home with asks := t.ms.home.asks }) ∧
      ∀ q, t.ms.home.asks.get [] q = (if q = 4 * (l.toNat / 2 ^ 28) + 3 then List.replicate n l.toNat else []) ++ s.ms.home.asks.get [] q
    let ms := fun (t : State) => { s.ms with rinseHbm := s.ms.rinseHbm + 1, home := t.ms.home }
    Completes (.rinseScrub (.hbmLine l) .clean) s (fun t => asked t 1 ∧ Sys2Proof.onlyFaults s t (ms t) s.ft) ∧
    Completes (.rinseScrub (.hbmLine l) .corrected) s (fun t => asked t 2 ∧ Frame [.ms, .lint] s t ∧
      t.ms = { ms t with rinseCor := s.ms.rinseCor + 1 } ∧ t.lint = s.lint.event false (Sys2Proof.eventOf s src 0x0940#16 0 [])) ∧
    Completes (.rinseScrub (.hbmLine l) .uncorrected) s fun t => ∃ rc, asked t 1 ∧ Frame [.ms, .ft, .lint] s t ∧
      t.ms = { ms t with rinseUnc := s.ms.rinseUnc + 1, poison := s.ms.poison.set false l.toNat true, recent := rc } ∧
      t.ft = { s.ft with poison := s.ft.poison + 1, lastCode := 0x0F82#16 } ∧
      t.lint = s.lint.event false (Sys2Proof.eventOf s src 0x0F82#16 0 [])

/-- R598, R603: FOLD for a cause that has arisen, while a die's core domain runs: the device is in Fold, its cause is recorded,
SMBALERT is driven, and every running job halts with FOLDED. CUPBOARD_WRITEBACK_DONE, once every job has ended: no core,
channel or job holds anything, the caches are empty, every byte of the Cupboard and the Baskets is zero, the core planes are
off, a die that runs no more has lost its dirty lines for good, the switch holds only what the bridge may send, and the Fold
bridge serves (R599). -/
def Obligations.FoldPhases : Prop :=
  ∀ s, Quiet s →
    (∀ c, s.ft.folded = false → s.ft.want = some c → s.liveDies ≠ [] →
      Completes (.fold c) s fun t => t.ft.folded = true ∧ t.ft.cause = BitVec.ofNat 3 (match c with
          | .attribution2 => 1
          | .vcoreLost => 2
          | .pmbFault => 3
          | .tj115 => 4
          | .startUp => 5) ∧
        t.ft.want = none ∧ t.ft.lastCode = 0x0F80#16 ∧ t.mgt.folded = true ∧ t.pins.smbAlert = true ∧ t.mem = s.mem ∧
        ∀ n j, s.job n = some j → j.ended = false → j.halt = none → (t.job n).bind (·.halt) = some (0x0F80#16, 0, none, .acc)) ∧
    (s.ft.folded = true → s.ft.bridge = false → s.running = [] →
      Completes .cupboardWritebackDone s fun t => t.cores = ⟨[]⟩ ∧ t.jobs = ⟨[]⟩ ∧ t.chans = ⟨[]⟩ ∧ t.ms.home.lines = ⟨[]⟩ ∧
        t.pins = { s.pins with operation := 0, enCore := 0 } ∧ t.seq = { s.seq with coreRun := false } ∧ t.ft.bridge = true ∧
        t.ft.stale = s.ft.stale ||| BitVec.ofNat 8 s.staleOf ∧ t.hif = s.hif ∧ t.mbx = s.mbx ∧ t.lint = s.lint ∧
        (∃ e : Tab (List Packet), e.get [] 0 = s.fab.eject.get [] 0 ∧ (∀ k, k ≠ 0 → e.get [] k = []) ∧
          t.fab = { s.fab with
            waiting := [], remote := [], eject := e
            inject := s.fab.inject.filter fun p => decide (hVcc p.hdr = 1) || (s.fab.worms.get none (inputNo none (hVcc p.hdr))).isSome }) ∧
        (∀ p, (cupbBase ≤ p ∧ p < cupbBase + 2 ^ 34) ∨ (basketBase ≤ p ∧ p < basketBase + 512 * basketSize) → t.mem.get 0 p = 0) ∧
        ((s.ms.home.lines = ⟨[]⟩) → ∀ p, p < hbmEnd → t.mem.get 0 p = s.mem.get 0 p))

/-! ### The host interface -/

/-- The link is up, the function is in D0, the device is ready and not in Fold, and no host write waits. -/
def Sys2Proof.hostUp (s : State) : Prop :=
  s.hif.linkUp = true ∧ s.hif.d3hot = false ∧ s.hif.ready = true ∧ s.ft.folded = false ∧ s.hif.posted = []

/-- R463, R465, R580: BAR2. A read of up to 4,096 bytes returns the bytes of HBM, and one that meets a poisoned line or comes
before READY is aborted or unsupported; a write of up to 512 bytes stores them. This is said where no stack has failed and no
write of the host waits, and of writes where no line is poisoned. The bit of AER's status is PCIe's (the model's, log 11). -/
def Obligations.HostMemoryAccesses : Prop :=
  ∀ s (off : BitVec 39), Quiet s → s.hif.linkUp = true → s.hif.d3hot = false → s.hif.posted = [] →
    (∀ k < 8, s.stackFailed k = false) →
    (∀ len, 0 < len → len ≤ 4096 → off.toNat + len ≤ 2 ^ 39 →
      (s.hif.ready = true → s.poisonIn off.toNat len = none → Completes (.bar2Read off len) s fun t =>
        Frame [.reply, .ms] s t ∧ t.ms = { s.ms with home := t.ms.home } ∧ t.replySt = .ok ∧ t.reply = s.bytesAt off.toNat len) ∧
      (∀ x, s.hif.ready = true → s.poisonIn off.toNat len = some x → Completes (.bar2Read off len) s fun t =>
        t.replySt = .aborted ∧ t.reply = [] ∧ t.mem = s.mem ∧ t.ft.lastCode = 0x0F82#16 ∧
        t.lint = s.lint.event false (Sys2Proof.eventOf s (.mem (x / 2 ^ 36)) 0x0F82#16 0 [])) ∧
      (s.hif.ready = false → Completes (.bar2Read off len) s fun t =>
        Frame [.reply, .hif] s t ∧ t.replySt = .unsupported ∧ t.reply = [] ∧
        t.hif = { s.hif with aer := s.hif.aer ||| 0x00100000#32 })) ∧
    ∀ data : List Byte, data ≠ [] → data.length ≤ 512 → off.toNat + data.length ≤ 2 ^ 39 → s.hif.ready = true →
      s.ft.folded = false → s.ms.poison = ⟨[]⟩ →
      Completes (.bar2Write off data) s fun t => Frame [.mem, .ms] s t ∧ t.ms = { s.ms with home := t.ms.home } ∧
        Stored s t (bytesFrom off.toNat data)

/-- A 4-byte register that the host writes: its BAR0 offset, its group, whether `v` is no reserved encoding (R18), what the
register then reads as, and the state with it. -/
structure Sys2Proof.HostReg where
  off   : Nat
  group : Nat
  good  : Bool
  reads : Nat
  put   : State → State

/-- R468, R477, R496, R414: registers of the blocks beside the core domain, which the endpoint writes at once. -/
def Sys2Proof.nearRegs (v : Nat) (k : Fin 8) : List Sys2Proof.HostReg :=
  let irq := v &&& 0x3F013F3F
  let vec := v &&& 0x13F
  [⟨0x4, 0, true, irq, fun s => { s with hif := { s.hif with irq := BitVec.ofNat 32 irq } }⟩,
   ⟨0x108 + 0x20 * k, k + 1, true, v % 2 ^ 4, fun s => s.setRing k { s.ring k with sizeSh := BitVec.ofNat 32 (v % 2 ^ 4) }⟩,
   ⟨0x11C + 0x20 * k, 0, true, vec, fun s => s.setRing k { s.ring k with vec := BitVec.ofNat 32 vec }⟩,
   ⟨0x400020, 11, decide (v % 2 ^ 16 ≠ 0), v % 2 ^ 16,
     fun s => { s with fab := { s.fab with timeout := BitVec.ofNat 32 (v % 2 ^ 16) } }⟩]

/-- R185, R186, R215, R267, R380, R381, R457, R459: registers of the core domain's DIE block. Bit 0 of CFG_NUM_CTRL is read-only. -/
def Sys2Proof.coreRegs (s : State) (v : Nat) (k : Fin 8) : List Sys2Proof.HostReg :=
  let w := BitVec.ofNat 32
  let num := s.cfg.numCtrl.toNat % 2 + (v &&& 0x1F2)
  let every := v / 2 ^ 4 % 2 ^ 5
  let quota := v &&& 0x3F3F3F3F
  let rinse := v &&& 0x00FFFF01
  [⟨0x800200, 9, decide (every = 0 ∨ 6 ≤ every ∧ every ≤ 16), num, fun s => { s with cfg := { s.cfg with numCtrl := w num } }⟩,
   ⟨0x800204, 9, true, v % 2 ^ 16, fun s => { s with cfg := { s.cfg with crsOff := w (v % 2 ^ 16) } }⟩,
   ⟨0x800280, 9, true, v % 2 ^ 12, fun s => { s with cfg := { s.cfg with genSel := w (v % 2 ^ 12) } }⟩,
   ⟨0x800300, 9, true, v % 2 ^ 12, fun s => { s with cfg := { s.cfg with gangSel := w (v % 2 ^ 12) } }⟩,
   ⟨0x801020 + 4 * k, 10, decide (((upto 4).map fun c => v / 2 ^ (8 * c) % 2 ^ 6).sum ≤ 64), quota,
     fun s => { s with ms := { s.ms with quota := s.ms.quota.set 0x01101008 k (w quota) } }⟩,
   ⟨0x801040, 10, decide (v / 2 ^ 8 % 2 ^ 8 ≠ 0 ∧ v / 2 ^ 16 % 2 ^ 8 ≠ 0), rinse,
     fun s => { s with ms := { s.ms with rinse := w rinse } }⟩,
   ⟨0x802000, 12, decide (v % 2 ^ 16 ≠ 0), v % 2 ^ 16, fun s => { s with cfg := { s.cfg with wdog := w (v % 2 ^ 16) } }⟩,
   ⟨0x802004, 13, decide (v % 2 ^ 8 < v / 2 ^ 8 % 2 ^ 8 ∧ v / 2 ^ 16 % 2 ^ 4 ≠ 0), v % 2 ^ 20,
     fun s => { s with cfg := { s.cfg with therm := w (v % 2 ^ 20) } }⟩]

/-- The host's last outcome in group `g` is `code` (R482). -/
def Sys2Proof.answered (s : State) (g : Nat) (code : BitVec 16) : State :=
  { s with hif := { s.hif with status := s.hif.status.set 0 (4 * g + 3) code } }

/-- A refused write: the register reads as before, and the group's status names the owner's or the value's fault. -/
def Sys2Proof.refusedWrite (s t : State) (p : Sys2Proof.HostReg) : Prop :=
  t.liveWord .host p.off = s.liveWord .host p.off ∧
  t.groupStatus p.group .host = if s.owner p.group = 3 then 0x0080 else 0x0C80

/-- R15 to R18, R49, R50, R464, R477 to R482: host writes to registers of one value: HIF_IRQ, the size shadow and the vector of a
ring, FAB_TIMEOUT; and CFG_NUM_CTRL, CFG_CREASE_OFFSET, CFG_GEN_SEL, CFG_GANG_SEL, MEM_QUOTA, MEM_RINSE_CTRL, COL_WDOG and
COL_THERM of the core domain. The former are written at once; a write to the latter waits in the posted-write queue until it
drains, and then shows in the mirror, at once in this model (DEDUCED, log 48). A register takes the value where the host owns its
group and the value is no reserved encoding, and the group's status becomes OK; else it keeps its own, and the status says
SUPERSEDED or BAD_ENCODING. A mirror update takes the live value of the eight bytes. -/
def Obligations.HostRegisterWrites : Prop :=
  ∀ s (v : DWord) (k : Fin 8) rest, Quiet s →
    let n := v.toNat % 2 ^ 32
    let word := fun (off : Nat) => ({ party := .host, bar4 := false, off := BitVec.ofNat 26 off, wide := false, value := v } : RegWrite)
    let queued := fun (off : Nat) => ({ off := BitVec.ofNat 26 off, wide := false, value := v } : Posted)
    (∀ p ∈ Sys2Proof.nearRegs n k, Sys2Proof.hostUp s →
      (s.owner p.group = 3 → p.good = true → Completes (.registerWrite (word p.off)) s fun t =>
        t = p.put (Sys2Proof.answered s p.group 0) ∧ t.liveWord .host p.off = p.reads) ∧
      (s.owner p.group ≠ 3 ∨ p.good = false → Completes (.registerWrite (word p.off)) s fun t => Sys2Proof.refusedWrite s t p)) ∧
    (∀ p ∈ Sys2Proof.coreRegs s n k,
      (Sys2Proof.hostUp s → Completes (.registerWrite (word p.off)) s fun t => Frame [.hif] s t ∧
        t.hif = { s.hif with posted := [queued p.off] }) ∧
      (s.hif.posted = queued p.off :: rest → s.coreUp = true →
        (s.owner p.group = 3 → p.good = true → Completes .postedWriteDrain s fun t => ∃ m : Tab DWord,
          let u := p.put (Sys2Proof.answered s p.group 0)
          t = { u with hif := { u.hif with posted := rest, mirror := m } } ∧ t.liveWord .host p.off = p.reads ∧
          ∀ a, m.get (BitVec.ofNat 64 (resetWord a)) a =
            if a = p.off then BitVec.ofNat 64 p.reads else s.hif.mirror.get (BitVec.ofNat 64 (resetWord a)) a) ∧
        (s.owner p.group ≠ 3 ∨ p.good = false → Completes .postedWriteDrain s fun t =>
          Sys2Proof.refusedWrite s t p ∧ t.hif.posted = rest))) ∧
    ∀ off : BitVec 26, s.coreUp = true → 0x800000 ≤ off.toNat →
      let a := off.toNat / 8 * 8
      Completes (.mirrorUpdate off) s fun t => Frame [.hif] s t ∧ (∃ m, t.hif = { s.hif with mirror := m }) ∧
        ∀ x, t.hif.mirror.get (BitVec.ofNat 64 (resetWord x)) x =
          if x = a ∨ x = a + 4 then BitVec.ofNat 64 (s.liveWord .host x) else s.hif.mirror.get (BitVec.ofNat 64 (resetWord x)) x

/-- R468, R487, R493: the host's commands to a ring that it owns: a doorbell that stays within the ring's free entries sets
TAIL (one that names TAIL itself changes nothing), and one beyond them, or any on a disabled ring, leaves it and raises
HIF_DOORBELL_BAD, without arguments (DEDUCED, log 17); a commit of an idle ring takes its shadow and zeroes its indices; a
write to HIF_RESET begins a warm reset: no job, core or channel holds anything, READY falls, every mailbox is empty, and
memory is not touched. -/
def Sys2Proof.Says.RingCommands : Prop :=
  ∀ s (k : Fin 8), Quiet s → Sys2Proof.hostUp s →
    let r := s.ring k
    let n := r.entries
    let room := (r.head.toNat + n + 65536 - r.tail.toNat) % 65536
    (∀ v : Word, s.owner (k + 1) = 3 →
      let ahead := (v.toNat % 65536 + 65536 - r.tail.toNat) % 65536
      (n ≠ 0 → ahead ≤ room → Completes (.hifRingTail .host k v) s fun t => Frame [.hif] s t ∧
        t.ring k = { r with tail := v.setWidth 16 } ∧ (∀ j, j ≠ k.val → t.ring j = s.ring j) ∧ t.groupStatus (k + 1) .host = 0) ∧
      (n = 0 ∨ room < ahead → Completes (.hifRingTail .host k v) s fun t => Frame [.hif, .lint] s t ∧
        (∀ j, t.ring j = s.ring j) ∧ t.groupStatus (k + 1) .host = 0x0C82 ∧ t.hif.lastCode = 0x0C82#16 ∧
        t.lint = s.lint.event false (Sys2Proof.eventOf s (.hif k) 0x0C82#16 0 []))) ∧
    (s.owner (k + 1) = 3 → fld r.sizeSh.toNat 0 4 ≤ 12 → r.head = r.tail → s.ringBusy k = false →
      Completes (.hifRingCommit .host k) s fun t => Frame [.hif] s t ∧
        t.ring k = { r with base := r.baseSh, size := r.sizeSh, head := 0, tail := 0, done := 0 } ∧
        ∀ j, j ≠ k.val → t.ring j = s.ring j) ∧
    (s.owner 0 = 3 → s.hif.rings.wf {} = true → Completes (.hifResetWarm .host) s fun t =>
      t.hif.ready = false ∧ t.hif.cause = 2 ∧ t.hif.seen = true ∧ t.hif.posted = [] ∧ t.jobs = ⟨[]⟩ ∧ t.cores = ⟨[]⟩ ∧
      t.chans = ⟨[]⟩ ∧ t.mbx.ch = ⟨[]⟩ ∧ t.mem = s.mem ∧ t.fab.rt = s.fab.rt ∧ t.hif.linkUp = true ∧
      (∀ j, (t.ring j).head = 0 ∧ (t.ring j).tail = 0 ∧ (t.ring j).base = (s.ring j).base) ∧ ∀ g, t.owner g = resetOwner g)

/-- R478 to R480: Viloth claims a group of rank 3 or 4, which becomes its own, and releases one that it owns to its reset
owner; a claim by the host of a group that Viloth owns is refused with SUPERSEDED and changes no owner. -/
def Sys2Proof.Says.GroupOwnership : Prop :=
  ∀ s (g : Fin 18), Quiet s →
    (s.vilothRuns = true → g.val < 16 → 2 ≤ (s.owner g).toNat → Completes (.groupClaim .viloth g) s fun t =>
      Frame [.hif] s t ∧ (∀ k, t.owner k = if k = g.val then 2 else s.owner k) ∧ t.groupStatus g .viloth = 0) ∧
    (s.vilothRuns = true → s.owner g = 2 → Completes (.groupRelease .viloth g) s fun t =>
      Frame [.hif] s t ∧ (∀ k, t.owner k = if k = g.val then resetOwner g else s.owner k) ∧ t.groupStatus g .viloth = 0) ∧
    (Sys2Proof.hostUp s → s.owner g = 2 → Completes (.groupClaim .host g) s fun t =>
      Frame [.hif, .lint] s t ∧ (∀ k, t.owner k = s.owner k) ∧ t.groupStatus g .host = 0x0C80 ∧ t.hif.lastCode = 0x0C80#16)

/-- R257, R263, R395, R412: the host's other action writes, in groups that it owns: a commit of the route table, with no job
running, hands its address to the island; RETRAIN, with no data packet on its way through the switch, starts the training of the ports it names that have a clock, and of no
other; RESUME of a stream lets it pass the break it stands at; RELEASE lets the cores of a job that has ended go. -/
def Sys2Proof.Says.ActionRegisters : Prop :=
  ∀ s, Quiet s → Sys2Proof.hostUp s →
    (s.owner 11 = 3 → s.running = [] → s.fab.rtWait = none → Completes (.fabRtCommit .host) s fun t => Frame [.hif, .fab] s t ∧
      t.fab = { s.fab with rtAddr := s.fab.rtShadow, rtWait := some s.fab.rtShadow }) ∧
    (∀ ports : BitVec 13, s.owner 11 = 3 → s.fab.worms = ⟨[]⟩ → Completes (.fabRetrain .host ports) s fun t => Frame [.hif, .fab] s t ∧
      (∃ p, t.fab = { s.fab with ports := p }) ∧
      ∀ n : Fin 13, t.port n = if bitOf ports.toNat n && s.portClock n then { (s.port n).fresh with state := 1, fecLock := false }
        else s.port n) ∧
    ∀ r c, s.logicalOf r = some c → s.physOf c = some r → c < 256 → s.owner 14 = 3 →
      let x := s.ifc (.core r)
      (x.halted = false →
        Completes (.bobResumeA .host (.core r)) s (fun t => Frame [.hif, .cores] s t ∧ (∀ q, q ≠ r → t.core q = s.core q) ∧
          t.core r = { s.core r with ifc := { x with acc := { x.acc with broken := false } } }) ∧
        Completes (.bobResumeX .host (.core r)) s fun t => Frame [.hif, .cores] s t ∧ (∀ q, q ≠ r → t.core q = s.core q) ∧
          t.core r = { s.core r with ifc := { x with exe := { x.exe with broken := false } } }) ∧
      ∀ n j, x.job = some n → s.job n = some j → j.ended = true →
        Completes (.bobRelease .host (.core r)) s fun t => Frame [.hif, .cores, .jobs] s t ∧ t.job n = none ∧
          (∀ m, m ≠ n → t.job m = s.job m) ∧ (∀ q ∈ j.cores, (t.core q).ifc.job = none ∧ (t.core q).mng.norm = (s.core q).mng.norm) ∧
          ∀ q, q ∉ j.cores → q ≠ r → t.core q = s.core q

/-- R15, R17, R41, R380, R414, R569, R602: the reads that clear, by the host, with no write of a DIE register queued: each
returns its register and takes what it returned from it. A register of the core domain returns what the mirror holds; a count
keeps what the mirror had not shown, and an entry that no update has written shows its register's reset value (the model's
reading, DEDUCED, log 48); CFG_PACE's minimum becomes the pace now. Nothing else changes but the mirror. This is said while
Viloth does not restart. -/
def Obligations.ReadsThatClear : Prop :=
  ∀ s, Quiet s → Sys2Proof.hostUp s → s.seq.still = none →
    let shown := fun (a : Nat) => (s.hif.mirror.get (BitVec.ofNat 64 (resetWord a)) a).toNat
    let less := fun (w : Word) (a : Nat) => BitVec.ofNat 32 (w.toNat - shown a)
    (∀ p ∈ [
      (Instr.cfgPaceRead, 0x800008, { s with cfg := { s.cfg with paceMin := s.cfg.paceNow } }),
      (.memRinseCorrRead, 0x801048, { s with ms := { s.ms with rinseCor := less s.ms.rinseCor 0x801048 } }),
      (.memRinseUncorrRead, 0x80104C, { s with ms := { s.ms with rinseUnc := less s.ms.rinseUnc 0x80104C } }),
      (.cfgFtRereadRead, 0x803004, { s with ft := { s.ft with reread := less s.ft.reread 0x803004 } }),
      (.cfgFtDarnRead, 0x803008, { s with ft := { s.ft with darn := less s.ft.darn 0x803008 } })],
      s.seq.coreRun = true → Completes p.1 s fun t => ∃ m,
        t = { p.2.2 with hif := { s.hif with mirror := m }, replySt := .ok, reply := leBytes 4 (shown p.2.1) }) ∧
    (∀ p ∈ [
      (Instr.fabDiscardCntRead, s.fab.discard, { s with fab := { s.fab with discard := 0 } }),
      (.mgtLintSkipRead, s.lint.skip, { s with lint := { s.lint with skip := 0 } }),
      (.mgtLintLostRead, s.lint.lost, { s with lint := { s.lint with lost := 0 } })],
      Completes p.1 s fun t => t = { p.2.2 with replySt := .ok, reply := leBytes 4 p.2.1.toNat }) ∧
    ∀ n : Fin 13, ∀ p ∈ [
      (Instr.fabPortRetryRead n, (s.port n).retry, { s.port n with retry := 0 }),
      (.fabPortFecRead n, (s.port n).fec, { s.port n with fec := 0 }),
      (.fabPortErrRead n, (s.port n).err, { s.port n with err := 0 })],
      Completes p.1 s fun t => t = { s.setPort n p.2.2 with replySt := .ok, reply := leBytes 4 p.2.1.toNat }

/-! ### Mailboxes and messages -/

/-- R488: a party reaches a channel: the host over its link, the secure host over a bound IDE stream, Viloth and Thimble while
they run. -/
def Sys2Proof.reachesMbx (s : State) (p : Party) (n : Nat) : Prop := match p with
  | .host => s.hif.linkUp = true ∧ s.hif.d3hot = false ∧ n < 8
  | .secureHost => s.hif.linkUp = true ∧ s.hif.d3hot = false ∧ s.hif.ideUp = true ∧ 8 ≤ n
  | .viloth => s.vilothRuns = true ∧ n < 8
  | .thimble => s.vilothRuns = true ∧ s.mgt.thimble = true ∧ 8 ≤ n

/-- The interface registers once vector `v` has been sent: pending while it is masked. -/
def Sys2Proof.vectorSent (h : Hif) (v : BitVec 6) : Hif :=
  if bitOf (h.msixTab.get msixReset v.toNat).toNat 96 then { h with msixPend := h.msixPend ||| BitVec.ofNat 64 (2 ^ v.toNat) }
  else { h with msixSent := v :: h.msixSent }

/-- Of the mailboxes only channel `n` has changed, to `c`, and the order of the waiting words and the wake events. -/
def Sys2Proof.onlyMbox (s t : State) (n : Nat) (c : Mbox) : Prop :=
  t.mbox n = c ∧ (∀ k, k ≠ n → t.mbox k = s.mbox k) ∧
  t.mbx = { s.mbx with ch := t.mbx.ch, order := t.mbx.order, wakeV := t.mbx.wakeV, wakeT := t.mbx.wakeT }

/-- A mailbox code has been raised, and channel `n` flagged. -/
def Sys2Proof.mbxFlagged (s t : State) (n : Nat) (c : Mbox) (code : BitVec 16) : Prop :=
  Sys2Proof.onlyMbox s t n c ∧ t.mbx.order = s.mbx.order ∧ t.hif = { s.hif with lastCode := code } ∧
  t.lint = s.lint.event false (Sys2Proof.eventOf s (.hif n) code 0 [])

/-- R488 to R492, R466: a sender's word fills an empty channel and wakes its receiver, by its wake event or its vector; bytes
0 to 3 are held until bytes 4 to 7 come; a word to a full channel is dropped with OVR and MBX_OVERRUN. A receiver's read of
bytes 4 to 7, or of all, takes the word; the half that was held is used up when the word completes, and MBX_INSECURE has the
channel as LOC and no argument (DEDUCED, log 49). The window takes up to 256 words and gives them up in order; beyond its
ends stand MBX_OVERRUN and MBX_UNDERRUN. A request of the host to a channel of BAR4 raises MBX_INSECURE and is not carried
out; it sets the bit of an unsupported request in the AER status (PRESUMED, log 11). -/
def Sys2Proof.Says.MailboxTransfers : Prop :=
  ∀ s (n : Fin 16) (v : DWord), Quiet s → s.hif.d3hot = false → s.hif.posted = [] → bitOf s.hif.irq.toNat 16 = false →
    let c := s.mbox n
    let vec : BitVec 6 := if n.val < 8 then BitVec.ofNat 6 (fld s.hif.irq.toNat 0 6) else s.mbx.sirqVec
    let filled := fun (t : State) (w : DWord) => Sys2Proof.onlyMbox s t n { c with word := w, full := true, low := 0 } ∧
      t.mbx.order = s.mbx.order ++ [n] ∧
      match mbxReceiver n with
      | .viloth => Frame [.mbx] s t ∧ t.mbx.wakeV = true ∧ t.mbx.wakeT = s.mbx.wakeT
      | .thimble => Frame [.mbx, .mgt] s t ∧ t.mbx.wakeT = true ∧ t.mbx.wakeV = s.mbx.wakeV ∧ t.mgt = { s.mgt with thimble := true }
      | _ => Frame [.mbx, .hif] s t ∧ t.mbx.wakeV = s.mbx.wakeV ∧ t.mbx.wakeT = s.mbx.wakeT ∧
        t.hif = if s.mbxEnabled n then Sys2Proof.vectorSent s.hif vec else s.hif
    (Sys2Proof.reachesMbx s (mbxSender n) n →
      (c.full = false → Completes (.mbxWordWrite (mbxSender n) n .all v) s fun t => filled t v) ∧
      (c.full = false → Completes (.mbxWordWrite (mbxSender n) n .high v) s fun t =>
        filled t (BitVec.ofNat 64 (c.low.toNat + v.toNat / 2 ^ 32 * 2 ^ 32))) ∧
      Completes (.mbxWordWrite (mbxSender n) n .low v) s (fun t => Frame [.mbx] s t ∧ t.mbx.order = s.mbx.order ∧
        Sys2Proof.onlyMbox s t n { c with low := v.setWidth 32 }) ∧
      (c.full = true → Completes (.mbxWordWrite (mbxSender n) n .all v) s fun t => Frame [.mbx, .hif, .lint] s t ∧
        Sys2Proof.mbxFlagged s t n { c with ovr := true } 0x0C84#16) ∧
      ∀ w : Word, (c.win.length < 256 → Completes (.mbxWinWrite (mbxSender n) n w) s fun t => Frame [.mbx] s t ∧
          t.mbx.order = s.mbx.order ∧ Sys2Proof.onlyMbox s t n { c with win := c.win ++ [w] }) ∧
        (256 ≤ c.win.length → Completes (.mbxWinWrite (mbxSender n) n w) s fun t => Frame [.mbx, .hif, .lint] s t ∧
          Sys2Proof.mbxFlagged s t n { c with ovr := true } 0x0C84#16)) ∧
    (Sys2Proof.reachesMbx s (mbxReceiver n) n → (mbxReceiver n = .host → s.hif.ready = true ∨ s.ft.folded = true) →
      (c.full = true → s.mbxEnabled n = false → ∀ b, b = .high ∨ b = .all →
        Completes (.mbxWordRead (mbxReceiver n) n b) s fun t => Frame [.mbx, .reply] s t ∧ t.replySt = .ok ∧
          t.reply = (if b = .all then leBytes 8 c.word.toNat else leBytes 4 (c.word.toNat / 2 ^ 32)) ∧
          Sys2Proof.onlyMbox s t n { c with word := 0, full := false } ∧ t.mbx.order = s.mbx.order.filter (fun k => k.val ≠ n.val)) ∧
      (c.full = true → Completes (.mbxWordRead (mbxReceiver n) n .low) s fun t => Frame [.reply] s t ∧ t.replySt = .ok ∧
        t.reply = leBytes 4 c.word.toNat) ∧
      (c.full = false → Completes (.mbxWordRead (mbxReceiver n) n .all) s fun t => Frame [.reply] s t ∧ t.replySt = .ok ∧
        t.reply = leBytes 8 0) ∧
      (∀ w r, c.win = w :: r → Completes (.mbxWinRead (mbxReceiver n) n) s fun t => Frame [.mbx, .reply] s t ∧ t.replySt = .ok ∧
        t.reply = leBytes 4 w.toNat ∧ t.mbx.order = s.mbx.order ∧ Sys2Proof.onlyMbox s t n { c with win := r }) ∧
      (c.win = [] → Completes (.mbxWinRead (mbxReceiver n) n) s fun t => Frame [.mbx, .hif, .lint, .reply] s t ∧ t.replySt = .ok ∧
        t.reply = leBytes 4 0 ∧ Sys2Proof.mbxFlagged s t n { c with undr := true } 0x0C85#16)) ∧
    (s.hif.linkUp = true → 8 ≤ n.val → Completes (.mbxWordRead .host n .all) s fun t => Frame [.hif, .lint, .reply] s t ∧
      t.replySt = .unsupported ∧ t.reply = [] ∧ t.hif = { s.hif with lastCode := 0x0C86#16, aer := s.hif.aer ||| 0x00100000#32 } ∧
      t.lint = s.lint.event false (Sys2Proof.eventOf s (.hif n) 0x0C86#16 0 []))

/-- R461, R492: an IDE key-management request binds a stream beside those that are bound, or tears one down, and powers
Thimble. A change to D3hot holds the vectors that follow; back in D0 those held are sent, oldest first. -/
def Sys2Proof.Says.LinkServices : Prop :=
  ∀ s, Quiet s → s.hif.linkUp = true →
    (∀ k : Byte, s.vilothRuns = true → Completes (.ideKmRequest (.bind k)) s fun t => Frame [.hif, .mgt] s t ∧
      t.hif = { s.hif with ideStr := if k ∈ s.hif.ideStr then s.hif.ideStr else s.hif.ideStr ++ [k] } ∧
      t.mgt = { s.mgt with thimble := true }) ∧
    (∀ k : Byte, s.vilothRuns = true → Completes (.ideKmRequest (.teardown k)) s fun t => Frame [.hif, .mgt] s t ∧
      t.hif = { s.hif with ideStr := s.hif.ideStr.filter fun x => decide (x ≠ k) } ∧ t.mgt = { s.mgt with thimble := true }) ∧
    Completes (.pciPmStateChange true) s (fun t => Frame [.hif] s t ∧ t.hif = { s.hif with d3hot := true }) ∧
    ((∀ v ∈ s.hif.heldVec, bitOf (s.hif.msixTab.get msixReset v.toNat).toNat 96 = false) →
      Completes (.pciPmStateChange false) s fun t => Frame [.hif] s t ∧
        t.hif = { s.hif with d3hot := false, heldVec := [], msixSent := s.hif.heldVec ++ s.hif.msixSent })

/-- Channel `ch` of a running device holds the only request: an operation with a tag, an argument and window words; its reply
channel is empty, and neither channel has its vector enabled. -/
def Sys2Proof.asked (s : State) (ch op : Nat) (tag : Byte) (arg : Word) (ws : List Word) : Prop :=
  s.vilothRuns = true ∧ s.seq.still = none ∧ s.hif.d3hot = false ∧ s.mgt.recovery = false ∧ 9 ≤ s.mgt.phase.toNat ∧ (8 ≤ ch → s.mgt.thimble = true) ∧
  s.mbx.order = [Fin.ofNat 16 ch] ∧ s.mbxEnabled ch = false ∧ s.mbxEnabled (ch + 4) = false ∧ s.mbox (ch + 4) = {} ∧
  s.mbox ch = { word := BitVec.ofNat 64 (op + tag.toNat * 2 ^ 8 + ws.length * 2 ^ 16 + arg.toNat * 2 ^ 32), full := true, win := ws }

/-- The request has been taken and its reply stands in the reply channel: its word and its window words (R561). The ARG of the
reply, to which R561 gives no bits of the word, is shown as the command's answer (log 40). -/
def Sys2Proof.replied (s t : State) (ch op : Nat) (tag : Byte) (code : BitVec 16) (arg : Nat) (ws : List Word) : Prop :=
  t.replySt = .ok ∧ t.reply = leBytes 4 arg ∧ t.mbox ch = {} ∧
  t.mbox (ch + 4) = { word := BitVec.ofNat 64 (op + tag.toNat * 2 ^ 8 + ws.length * 2 ^ 16 + code.toNat * 2 ^ 32), full := true, win := ws } ∧
  (∀ k, k ≠ ch → k ≠ ch + 4 → t.mbox k = s.mbox k) ∧
  t.mbx = { s.mbx with ch := t.mbx.ch, order := [Fin.ofNat 16 (ch + 4)], wakeV := t.mbx.wakeV, wakeT := t.mbx.wakeT }

/-- A power-down has begun: what the core, endpoint and HBM supplies carry is lost, and the enables follow (R509, R511). -/
def Sys2Proof.goneDark (s t : State) : Prop :=
  t.cores = ⟨[]⟩ ∧ t.jobs = ⟨[]⟩ ∧ t.chans = ⟨[]⟩ ∧ t.ms = {} ∧ t.fab = {} ∧ t.mbx = {} ∧ t.cfg = {} ∧
  t.hif = { ({} : Hif) with time := s.hif.time, lastCode := s.hif.lastCode } ∧ (∀ p, p < 2 ^ 42 → t.mem.get 0 p = 0) ∧
  t.pins.operation = 0 ∧ t.pins.enCore = 0 ∧ t.seq.coreRun = false ∧ t.mgt.pol.on = false ∧ t.mgt.update = none

/-- A warm reset has begun: READY is low, the cause is kept, and no job, core, channel, mailbox or queued write holds anything;
memory, the link and the ring bases stay (R493). -/
def Sys2Proof.warmBegun (s t : State) (cause : BitVec 3) : Prop :=
  t.hif.ready = false ∧ t.hif.cause = cause ∧ t.hif.seen = true ∧ t.hif.posted = [] ∧ t.jobs = ⟨[]⟩ ∧ t.cores = ⟨[]⟩ ∧
  t.chans = ⟨[]⟩ ∧ t.mbx.ch = ⟨[]⟩ ∧ t.mem = s.mem ∧ t.hif.linkUp = s.hif.linkUp ∧ t.mgt.update = none ∧
  ∃ w, t.seq = { s.seq with reset := some { cause := cause, causeDone := true, wbDone := w, linkDone := true } } ∧
    w = !s.seq.coreRun

/-- R559, R561 to R563: what Viloth does with a request, alone in its channel. PING answers MGT_STATUS; LINT_READ up to 16
records from a number on, or LINT_GONE with the oldest; SET_POLICY commits a cap and a vset that POLICY allows; SENSOR_DUMP
the 256 readings; INFO the sequence, SVN and validity of both copies, the running copy and the OTP's SVN. An unknown
operation is answered MBX_BAD_REQUEST. The answer to LINT_READ beyond the end and that of SET_POLICY follow log 28 (DEDUCED),
the ARG of a reply log 40 and the words of INFO log 41. -/
def Sys2Proof.Says.VilothMessages : Prop :=
  ∀ s (n : Fin 4) tag arg, Quiet s →
    (Sys2Proof.asked s n 0x01 tag arg [] → Completes (.ping n) s fun t => Frame [.mbx, .reply] s t ∧
      Sys2Proof.replied s t n 0x01 tag 0 s.mgtStatus []) ∧
    (∀ r l, Sys2Proof.asked s n 0x02 tag arg [] → s.lint.held.dropWhile (fun r => r.seq.toNat != arg.toNat) = r :: l →
      Completes (.lintRead n) s fun t => Frame [.mbx, .reply] s t ∧
        Sys2Proof.replied s t n 0x02 tag 0 arg.toNat (((r :: l).take 16).flatMap LintRec.words)) ∧
    (∀ r l, Sys2Proof.asked s n 0x02 tag arg [] → s.lint.held = r :: l → (∀ x ∈ r :: l, x.seq ≠ arg) →
      arg.toNat < s.lint.nextSeq.toNat → Completes (.lintRead n) s fun t => Frame [.mbx, .mgt, .lint, .reply] s t ∧
        t.mgt = { s.mgt with lastCode := 0x0E45#16 } ∧ t.lint = s.lint.event false (Sys2Proof.eventOf s .viloth 0x0E45#16 0 []) ∧
        Sys2Proof.replied s t n 0x02 tag 0x0E45#16 r.seq.toNat (((r :: l).take 16).flatMap LintRec.words)) ∧
    (∀ cap vset : BitVec 16, Sys2Proof.asked s n 0x03 tag arg [cap.setWidth 32, vset.setWidth 32] → s.owner 15 = 2 →
      600 ≤ cap.toNat → cap.toNat ≤ s.capMax → cap.toNat ≤ 2400 → 600 ≤ vset.toNat → vset.toNat ≤ 850 →
      Completes (.setPolicy n) s fun t => Frame [.mbx, .mgt, .hif, .reply] s t ∧ Sys2Proof.replied s t n 0x03 tag 0 0 [] ∧
        t.hif = { s.hif with status := s.hif.status.set 0 62 0 } ∧
        t.mgt = { s.mgt with pol := { s.mgt.pol with
          capSh := cap.setWidth 32, vsetSh := vset.setWidth 32, cap := cap.toNat, vset := vset.toNat } }) ∧
    (Sys2Proof.asked s n 0x06 tag arg [] → Completes (.sensorDump n) s fun t => Frame [.mbx, .reply] s t ∧
      Sys2Proof.replied s t n 0x06 tag 0 0 ((upto 128).map fun i =>
        BitVec.ofNat 32 ((nth s.mgt.dieTemps (2 * i) 0).toNat + (nth s.mgt.dieTemps (2 * i + 1) 0).toNat * 2 ^ 16))) ∧
    (Sys2Proof.asked s n 0x07 tag arg [] → Completes (.info n) s fun t => Frame [.mbx, .reply] s t ∧
      Sys2Proof.replied s t n 0x07 tag 0 0 ([hdSeq (s.header false), hdSvn (s.header false), if s.copyReason false = 0 then 1 else 0,
        hdSeq (s.header true), hdSvn (s.header true), if s.copyReason true = 0 then 1 else 0,
        if s.mgt.copy = some true then 1 else 0, s.otpSvn].map (BitVec.ofNat 32))) ∧
    (∀ op : Byte, Sys2Proof.asked s n op.toNat tag arg [] → op.toNat ∉ [1, 2, 3, 4, 5, 6, 7] → Completes (.ping n) s fun t =>
      Frame [.mbx, .mgt, .lint, .reply] s t ∧ t.mgt = { s.mgt with lastCode := 0x0E8A#16 } ∧
      t.lint = s.lint.event false (Sys2Proof.eventOf s .viloth 0x0E8A#16 0 []) ∧
      Sys2Proof.replied s t n op.toNat tag 0x0E8A#16 0 [])

/-- R549, R563: POWER_OFF, RESTART with ARG 0 and RESTART with ARG 1: the reply goes out, and a power-down, a warm reset of
cause 5, or a power-down that a restart at phase 2 follows, begins. An open update session refuses each with UPD_BUSY. That
the reply goes out before the reset is the model's reading (DEDUCED, log 28), and memory without power reads 0 (log 1). -/
def Sys2Proof.Says.PowerMessages : Prop :=
  ∀ s (n : Fin 4) tag (arg : Word), Quiet s →
    (s.mgt.update = none → s.seq.down = 0 →
      (Sys2Proof.asked s n 0x04 tag arg [] → Completes (.powerOff n) s fun t =>
        t.replySt = .ok ∧ t.reply = leBytes 4 0 ∧ Sys2Proof.goneDark s t ∧ t.seq.restart = s.seq.restart) ∧
      (Sys2Proof.asked s n 0x05 tag arg [] → bitOf arg.toNat 0 = true → Completes (.restartCold n) s fun t =>
        t.replySt = .ok ∧ t.reply = leBytes 4 0 ∧ Sys2Proof.goneDark s t ∧ t.seq.restart = true)) ∧
    (s.mgt.update = none → Sys2Proof.asked s n 0x05 tag arg [] → bitOf arg.toNat 0 = false → Completes (.restartWarm n) s fun t =>
      t.replySt = .ok ∧ t.reply = leBytes 4 0 ∧ Sys2Proof.warmBegun s t 5) ∧
    (s.mgt.update ≠ none → Sys2Proof.asked s n 0x04 tag arg [] → Completes (.powerOff n) s fun t =>
      Frame [.mbx, .mgt, .lint, .reply] s t ∧ t.mgt = { s.mgt with lastCode := 0x0E87#16 } ∧
      t.lint = s.lint.event false (Sys2Proof.eventOf s .viloth 0x0E87#16 0 []) ∧ Sys2Proof.replied s t n 0x04 tag 0x0E87#16 0 [])

/-- The bytes of the flash once `bs` has been programmed from `lo` up, each unit of 4,096 bytes erased as its first byte comes. -/
def Sys2Proof.flashHolds (s t : State) (lo : Nat) (bs : List Byte) : Prop :=
  ∀ a, t.mgt.flash.get 0xFF a = if lo ≤ a ∧ a < lo + bs.length then nth bs (a - lo) 0
    else if lo ≤ a / 4096 * 4096 ∧ a / 4096 * 4096 < lo + bs.length then 0xFF else s.mgt.flash.get 0xFF a

/-- R548, R567, R568: a firmware update. FW_BEGIN opens a session on the copy that does not run; FW_DATA collects the words
of the header sector, and then programs the body's as they come; FW_END, with every word there and the digest right, programs
the header and closes the session; FW_ABORT, and 60 s without a message, close it and change nothing else. That a 4 KiB unit
is erased as its first byte comes, and that an abort or a timeout raises no code, are the model's reading (DEDUCED, log 28).
-/
def Sys2Proof.Says.FirmwareUpdates : Prop :=
  ∀ s (n : Fin 4) tag (arg : Word) (ws : List Word), Quiet s →
    (∀ c, Sys2Proof.asked s (n + 8) 0x40 tag arg [] → s.mgt.update = none → s.mgt.copy = some c →
      Completes (.fwBegin n) s fun t => Frame [.mbx, .mgt, .reply] s t ∧
        Sys2Proof.replied s t (n + 8) 0x40 tag 0 (if c then 0 else 1) [] ∧
        t.mgt = { s.mgt with update := some { target := !c, bytes := arg.toNat } }) ∧
    (∀ u, Sys2Proof.asked s (n + 8) 0x41 tag arg ws → ws ≠ [] → ws.length ≤ 256 → s.mgt.update = some u →
      u.words + ws.length ≤ (u.bytes + 3) / 4 →
      (u.words + ws.length < 1024 → Completes (.fwData n) s fun t => Frame [.mbx, .mgt, .reply] s t ∧
        Sys2Proof.replied s t (n + 8) 0x41 tag 0 0 [] ∧
        t.mgt = { s.mgt with update := some { u with hdr := u.hdr ++ ws, words := u.words + ws.length } }) ∧
      (1024 ≤ u.words → Completes (.fwData n) s fun t => Frame [.mbx, .mgt, .reply] s t ∧
        Sys2Proof.replied s t (n + 8) 0x41 tag 0 0 [] ∧
        t.mgt = { s.mgt with flash := t.mgt.flash, update := some { u with words := u.words + ws.length } } ∧
        Sys2Proof.flashHolds s t ((if u.target then 0x1000000 else 0) + 4 * u.words) (wordBytes ws))) ∧
    (∀ u, Sys2Proof.asked s (n + 8) 0x42 tag arg [] → s.mgt.update = some u → (u.bytes + 3) / 4 ≤ u.words → u.erased = true →
      u.hdr.length = 1024 →
      let h := wordBytes u.hdr
      let base := if u.target then 0x1000000 else 0
      sha512 (s.flashBytes (base + 0x1000) (hdLen h)) = hdDigest h →
      Completes (.fwEnd n) s fun t => Frame [.mbx, .mgt, .seq, .reply] s t ∧ Sys2Proof.replied s t (n + 8) 0x42 tag 0 0 [] ∧
        t.mgt = { s.mgt with flash := t.mgt.flash, update := none, fwSeq := t.mgt.fwSeq, fwInfo := t.mgt.fwInfo } ∧
        Sys2Proof.flashHolds s t base h ∧
        t.seq = if u.target then { s.seq with badB := false } else { s.seq with badA := false }) ∧
    (Sys2Proof.asked s (n + 8) 0x43 tag arg [] → Completes (.fwAbort n) s fun t => Frame [.mbx, .mgt, .reply] s t ∧
      Sys2Proof.replied s t (n + 8) 0x43 tag 0 0 [] ∧ t.mgt = { s.mgt with update := none }) ∧
    (s.vilothRuns = true → Completes .updateSessionTimeout s fun t => Frame [.mgt] s t ∧ t.mgt = { s.mgt with update := none })

/-- R533, R537, R538, R564 to R566: Thimble's other messages. OTP_SETTINGS programs the lowest free generation with the record's
240 bits and their CRC; SVN_COMMIT sets the lowest clear bits of the SVN field until as many are set as the running copy's SVN;
NONCE answers a nonce and keeps it; DEBUG_UNLOCK uses the nonce up, and opens the port for a signature of the unit's identity and
that nonce by a usable key of the settings' slot, where the settings allow it. -/
def Sys2Proof.Says.ThimbleMessages : Prop :=
  ∀ s (n : Fin 4) tag (arg : Word) (ws : List Word), Quiet s →
    (∀ k, Sys2Proof.asked s (n + 8) 0x44 tag arg ws → ws.length = 8 → k < 4 → s.settingsGen k = 0 → (∀ j < k, s.settingsGen j ≠ 0) →
      let v := leNat (wordBytes ws) % 2 ^ 240
      Completes (.otpSettings n true) s fun t => Frame [.mbx, .mgt, .reply] s t ∧
        Sys2Proof.replied s t (n + 8) 0x44 tag 0 0 [] ∧
        t.mgt = { s.mgt with
          otp := s.mgt.otp ||| BitVec.ofNat 8192 ((v + crc16 (leBytes 30 v) * 2 ^ 240) * 2 ^ (8 * (0x300 + 32 * k))) }) ∧
    (Sys2Proof.asked s (n + 8) 0x44 tag arg ws → ws.length = 8 → (∀ k < 4, s.settingsGen k ≠ 0) → ∀ ok,
      Completes (.otpSettings n ok) s fun t => Frame [.mbx, .mgt, .lint, .reply] s t ∧ t.mgt = { s.mgt with lastCode := 0x0E88#16 } ∧
        t.lint = s.lint.event false (Sys2Proof.eventOf s .thimble 0x0E88#16 0 []) ∧
        Sys2Proof.replied s t (n + 8) 0x44 tag 0x0E88#16 0 []) ∧
    (∀ c, Sys2Proof.asked s (n + 8) 0x45 tag arg [] → s.mgt.copy = some c → Completes (.svnCommit n) s fun t =>
      Frame [.mbx, .mgt, .reply] s t ∧ Sys2Proof.replied s t (n + 8) 0x45 tag 0 0 [] ∧
      t.mgt = { s.mgt with otp := t.mgt.otp, fwSeq := t.mgt.fwSeq, fwInfo := t.mgt.fwInfo } ∧
      t.otpSvn = max s.otpSvn (min 96 (hdSvn (s.header c))) ∧
      ∀ k, (s.mgt.otp.getLsbD k = true → t.mgt.otp.getLsbD k = true) ∧
        (t.mgt.otp.getLsbD k = true → s.mgt.otp.getLsbD k = false →
          1056 ≤ k ∧ k < 1152 ∧ ∀ j, 1056 ≤ j → j < k → t.mgt.otp.getLsbD j = true)) ∧
    (Sys2Proof.asked s (n + 8) 0x46 tag arg [] → Completes (.nonce n) s fun t => ∃ v : DWord,
      Frame [.mbx, .mgt, .free, .reply] s t ∧ t.free = s.free + 1 ∧ t.mgt = { s.mgt with nonce := some v } ∧
      Sys2Proof.replied s t (n + 8) 0x46 tag 0 0 [v.setWidth 32, (v >>> 32).setWidth 32]) ∧
    (Sys2Proof.asked s (n + 8) 0x47 tag arg ws → ws.length = 24 →
      let key := (wordBytes ws).take 32
      let sig := (wordBytes ws).drop 32
      let allowed := match s.mgt.settings, s.mgt.nonce with
        | some r, some v => decide (setDebug r = 1) && s.keyUsable (setKeySlot r) key &&
          edVerify key (s.otpBytes 0 8 ++ leBytes 8 v.toNat) sig
        | _, _ => false
      let code : BitVec 16 := if allowed then 0x0E43 else 0x0E8B
      Completes (.debugUnlock n) s fun t => Frame [.mbx, .mgt, .lint, .reply] s t ∧
        t.mgt = { s.mgt with nonce := none, tapOpen := s.mgt.tapOpen || allowed, lastCode := code } ∧
        t.lint = s.lint.event false (Sys2Proof.eventOf s .thimble code 0 []) ∧
        Sys2Proof.replied s t (n + 8) 0x47 tag (if allowed then 0 else 0x0E8B) 0 [])

/-! ### Side buses, supplies and start-up -/

/-- R560: the SMBus target, with VAUX and its clock, answers each of its read commands with the register that the command names,
and acknowledges no write and no other command; without them it acknowledges nothing. Nothing else changes. -/
def Sys2Proof.Says.SmbusReads : Prop :=
  ∀ s, Quiet s →
    let hottest := (upto 8).foldl (fun m k => Nat.max m (s.mgt.hbmTemp.get 0 k).toNat) 0
    (∀ p ∈ [
      (Instr.smbReadStatus, leBytes 2 s.mgtStatus), (.smbReadTj, leBytes 2 (s.mgt.tjMax.toNat % 2 ^ 16)),
      (.smbReadPower, leBytes 2 (s.mgt.power.toNat % 2 ^ 16)), (.smbReadHbmTemp, leBytes 1 hottest),
      (.smbReadSetpoint, leBytes 2 (s.mgt.setpoint.toNat % 2 ^ 16)), (.smbReadLastCode, leBytes 2 s.mgt.lastCode.toNat),
      (.smbReadIdentity, leBytes 32 s.mgt.ident.toNat)],
      Completes p.1 s fun t =>
        t = if s.vilothRuns then { s with replySt := .ok, reply := p.2 } else { s with replySt := .nack, reply := [] }) ∧
    ∀ w code, Completes (.smbUnsupported w code) s fun t => t = { s with replySt := .nack, reply := [] }

/-- R526: the JTAG instructions, while VAUX is there: the data register and the latches each selects, and whether the latches
drive the lands or the lands float. EXTEST captures as many levels as there are latches, which no command gives. IDCODE shows
0x154075EF. No other part of the machine changes. -/
def Sys2Proof.Says.JtagInstructions : Prop :=
  ∀ s, Quiet s → s.pins.vaux = true →
    let j := s.jtag
    Completes .bypass s (fun t => t = { s with jtag := { j with instr := .bypass, dr := [false], drives := false, floats := false } }) ∧
    Completes .idcode s (fun t => t = { s with
      jtag := { j with instr := .idcode, dr := (upto 32).map (0x154075EF#32).toNat.testBit, drives := false, floats := false }
      replySt := .ok, reply := [0xEF, 0x75, 0x40, 0x15] }) ∧
    (∀ a b : List Bool, a.length = b.length → Completes (.samplePreload a b) s fun t => t = { s with
      jtag := { j with instr := .samplePreload, dr := a, latch := b, drives := false, floats := false } }) ∧
    Completes .extest s (fun t => t.jtag.dr.length = j.latch.length ∧ t = { s with
      free := t.free, jtag := { j with instr := .extest, dr := t.jtag.dr, drives := true, floats := false } }) ∧
    Completes .clamp s (fun t => t = { s with jtag := { j with instr := .clamp, dr := [false], drives := true, floats := false } }) ∧
    Completes .highz s fun t => t = { s with jtag := { j with instr := .highz, dr := [false], drives := false, floats := true } }

/-- R450, R459: a reading of the eight stacks, while Viloth's firmware runs: each stack's temperature is taken, and it goes to half
rate and to critical at their limits, and back only below the limit less the hysteresis. Nothing else changes. -/
def Sys2Proof.Says.StackTemperatures : Prop :=
  ∀ s (temps : List Byte), Quiet s → s.vilothRuns = true → s.seq.still = none → 8 ≤ s.mgt.phase.toNat → temps.length = 8 →
    let lim := s.cfg.therm.toNat
    let hyst := fld lim 16 4
    let past := fun (was : Bool) (x on : Nat) => if was then decide (on ≤ x + hyst) else decide (on ≤ x)
    Completes (.hbmTempTick temps) s fun t => Frame [.ms, .mgt] s t ∧
      t.ms = { s.ms with hbm := t.ms.hbm, critical := t.ms.critical } ∧ t.mgt = { s.mgt with hbmTemp := t.mgt.hbmTemp } ∧
      (∀ b, b % 4 ≠ 1 → t.ms.hbm.getLsbD b = s.ms.hbm.getLsbD b) ∧
      ∀ k, k < 8 → t.mgt.hbmTemp.get 0 k = nth temps k 0 ∧
        t.halfRate k = past (s.halfRate k) (nth temps k 0).toNat (fld lim 0 8) ∧
        t.critical k = past (s.critical k) (nth temps k 0).toNat (fld lim 8 8)

/-- R516: a voltage in mV as the code of a plane's controller, rounded up. -/
def Sys2Proof.voutCode (d mv : Nat) : BitVec 16 := BitVec.ofNat 16 ((mv * 2 ^ Config.voutExp d + 999) / 1000)

/-- R513, R514, R516, R531, R551, R552, R569, R571: a policy tick takes the readings; where the policy runs it chooses the
setpoint, which SET_MV shows (log 27), by R551 from the highest temperature and the power, holds it between the floor of R513
and 850 mV, reports a hold or a cap that begins, and at 115 C wants a Fold; it runs on in a Fold, where no cluster counts
paces any more (R599); while Viloth restarts only the floor and the hold apply (R531). Where it does not run, a hold ends
with its cause (the model's choice, log 71). A step moves the planes by at most 10 mV towards the setpoint, as a ULINEAR16
code of the exponent that each plane's controller reports, rounded up (R516). -/
def Sys2Proof.Says.CoreVoltage : Prop :=
  ∀ s, Quiet s → s.vilothRuns = true →
    let p := s.mgt.pol
    (∀ r tj, r.temps.length = 256 → r.pace.length = 32 → (∀ x ∈ r.temps, x.toInt ≤ tj) → (∃ x ∈ r.temps, x.toInt = tj) →
      let w := r.powerW.toNat
      let vf := if tj ≤ 720 then 570 else if tj ≤ 1040 then 580 else if tj ≤ 1360 then 590 else if tj ≤ 1680 then 600 else 610
      let hold := decide (1680 ≤ tj) || !r.hotN
      let cool := hold && decide (p.tjPrev < tj)
      let rom := s.seq.still.isSome
      let isOver := !rom && decide (p.cap < w)
      let want := if cool || isOver then p.v - 10
        else if !rom && !hold && decide (tj < 1648) && decide (100 * w < 97 * p.cap) && decide (p.v < p.vset) then p.v + 10 else p.v
      let v := max (min want 850) vf
      let capped := !cool && isOver && decide (v < p.v)
      let codes : List (BitVec 16) := (if hold && !p.hold then [0x0E41] else []) ++ (if capped && !p.capped then [0x0E42] else [])
      let power := BitVec.ofNat 32 (w + p.cap * 2 ^ 16)
      (p.on = false → Completes (.vcorePolicyTick r) s fun t => Frame [.pins, .mgt] s t ∧
        t.pins = { s.pins with hotN := r.hotN, smbAlert := s.seq.stopped || s.mgt.recovery || s.ft.folded || (p.hold && hold) } ∧
        t.mgt = { s.mgt with
          dieTemps := r.temps, tjMax := t.mgt.tjMax, tjDie := t.mgt.tjDie, power := power, pace := t.mgt.pace, vcore := s.mgt.vread
          pwrState := t.mgt.pwrState, setpoint := BitVec.ofNat 32 (p.v + vf * 2 ^ 16)
          pol := { p with hold := p.hold && hold, tjPrev := tj, atFloor := decide (p.v = vf) } } ∧
        t.mgt.tjMax.toNat % 2 ^ 16 = (BitVec.ofInt 16 tj).toNat) ∧
      (p.on = true → Completes (.vcorePolicyTick r) s fun t => Frame [.pins, .mgt, .cfg, .ft, .lint] s t ∧
        t.pins = { s.pins with hotN := r.hotN, smbAlert := s.seq.stopped || s.mgt.recovery || s.ft.folded || hold } ∧
        t.mgt = { s.mgt with
          dieTemps := r.temps, tjMax := t.mgt.tjMax, tjDie := t.mgt.tjDie, power := power, pace := t.mgt.pace, vcore := s.mgt.vread
          pwrState := t.mgt.pwrState, lastCode := t.mgt.lastCode, setpoint := BitVec.ofNat 32 (v + vf * 2 ^ 16)
          pol := { p with
            v := v, hold := hold, capped := capped || (p.capped && decide (v < p.vset)), tjPrev := tj, atFloor := decide (v = vf)
            lastCode := if capped && !p.capped then 0x0E42 else if hold && !p.hold then 0x0E41 else p.lastCode } } ∧
        t.lint = codes.foldl (fun l c => l.event false (Sys2Proof.eventOf s .viloth c 0 [])) s.lint ∧
        (s.ft.bridge = true → t.cfg = s.cfg) ∧
        (s.ft.bridge = false → (∀ x ∈ r.pace, t.cfg.paceNow.toNat ≤ x.toNat) ∧ t.cfg.paceNow ∈ r.pace ∧
          t.cfg = { s.cfg with
            paceNow := t.cfg.paceNow
            paceMin := if s.cfg.paceNow = 0 ∨ t.cfg.paceNow.toNat < s.cfg.paceMin.toNat then t.cfg.paceNow else s.cfg.paceMin }) ∧
        t.ft = if 1840 ≤ tj ∧ s.ft.folded = false ∧ s.ft.want = none then { s.ft with want := some .tj115 } else s.ft)) ∧
    (p.on = true → ∀ now, (p.now < p.v ∧ now = min p.v (p.now + 10)) ∨ (p.v < p.now ∧ now = max p.v (p.now - 10)) →
      Completes .vcoreStep s fun t => Frame [.mgt] s t ∧
        t.mgt = { s.mgt with pol := { p with now := now }, pmb := t.mgt.pmb } ∧
        ∀ d, d < 4 → t.pmbOf d =
          if bitOf s.pins.operation.toNat d then { s.pmbOf d with command := Sys2Proof.voutCode d now } else s.pmbOf d)

/-- R511, R517: a core plane is lost: while the core domain runs its enable falls, its die's cores are gone, and the device is to
fold for a cause, where it is not to already. -/
def Sys2Proof.planeLost (s t : State) (d : Fin 4) (cause : FoldCause) : Prop :=
  if s.seq.coreRun then
    (∀ e : Fin 4, bitOf t.pins.enCore.toNat e = (bitOf s.pins.enCore.toNat e && decide (e ≠ d))) ∧
    (∀ r, dieOf r = d.val → t.core r = {}) ∧ (∀ r, dieOf r ≠ d.val → t.core r = s.core r) ∧
    t.ft = if s.ft.folded = false ∧ s.ft.want = none then { s.ft with want := some cause } else s.ft
  else t.pins.enCore = s.pins.enCore ∧ t.cores = s.cores ∧ t.ft = s.ft

/-- R509, R511, R515, R517, R524, R550: a core plane's PMBus controller is read, on its alert or every millisecond: its
voltage and current are taken, or a fault, no acknowledgement or a bad PEC raises PMB_FAULT and loses the plane. In a
power-down, with every power-good input of the planes low, the reading that shows the last plane below 0.1 V, by the last
reading of every plane (the model's choice, log 71), lets the enables of MEM and IO fall. -/
def Sys2Proof.Says.PmbusReads : Prop :=
  ∀ s (plane : Fin 4), Quiet s → s.vilothRuns = true →
    ∀ i ∈ [fun r => Instr.pmbAlert plane r, fun r => Instr.pmbusVcoreRead plane r],
      (∀ v a : BitVec 16, let reads := s.mgt.vread.set 0 plane (BitVec.ofNat 32 (v.toNat + a.toNat * 2 ^ 16))
        (s.seq.down = 0 → Completes (i (.readings v a)) s fun t => Frame [.mgt] s t ∧ t.mgt = { s.mgt with vread := reads }) ∧
        (s.seq.down = 1 → s.pins.pgCore = 0 → s.pins.pgIo = true → v.toNat < 100 →
          (∀ e : Fin 4, e ≠ plane → (s.mgt.vread.get 0 e).toNat % 2 ^ 16 < 100) →
          Completes (i (.readings v a)) s fun t => Frame [.mgt, .pins, .seq] s t ∧ t.mgt = { s.mgt with vread := reads } ∧
            t.pins = { s.pins with enMem := false, enIo := false } ∧ t.seq = { s.seq with down := 3 })) ∧
      ∀ w : BitVec 16, ∀ p ∈ [(PmbResult.statusFault w, w.toNat), (.noAck, 0), (.pecFail, 0)],
        Completes (i p.1) s fun t => Frame [.mgt, .lint, .ft, .pins, .cores] s t ∧ t.mgt = { s.mgt with lastCode := 0x0D82#16 } ∧
          t.lint = s.lint.event false (Sys2Proof.eventOf s .viloth 0x0D82#16 0 [(Config.supplyArg (3 + plane)).toNat, p.2]) ∧
          t.pins = { s.pins with enCore := t.pins.enCore } ∧ Sys2Proof.planeLost s t plane .pmbFault

/-- R554, R558: the number after the highest of the records in the flash region, 0 where there is none. -/
def Sys2Proof.recordAfter (l : List LintRec) : Word :=
  if l = [] then 0 else BitVec.ofNat 32 (1 + l.foldl (fun m r => max m r.seq.toNat) 0)

/-- The state after VAUX rises or falls: all of it is as at reset but OTP, flash, the flash log, the number that follows it, and the
levels of `pins` (R493). -/
def Sys2Proof.coldStarted (s : State) (pins : Pins) (phase : BitVec 4) (seq : Seq) (t : State) : Prop :=
  t = { State.reset with
    pending := s.pending, mem := t.mem, free := s.free, lint := { ({} : Lint) with flash := s.lint.flash, nextSeq := Sys2Proof.recordAfter s.lint.flash }, pins := pins, seq := seq
    mgt := { ({} : Mgt) with otp := s.mgt.otp, flash := s.mgt.flash, phase := phase, time := t.mgt.time } } ∧
  ∀ p, p < 2 ^ 42 → t.mem.get 0 p = 0

/-- The pins with every enable and output of the package low. -/
def Sys2Proof.enablesLow (p : Pins) : Pins :=
  { p with enAna := false, enIo := false, enMem := false, enCore := 0, operation := 0, thermtrip := false, smbAlert := false }

/-- R493, R506, R508, R527, R549: VAUX rises: a cold start, with every enable low; the groups come up in their order, each
enabled by the power-good inputs before it: ANA enables IO and MEM, these enable the core planes at 700 mV, each plane with
its limits (R515), and these, with RST_N high, start the core domain and the policy. A second after a failure the sequence is
tried again; a restart begins at phase 2; VAUX falls: the device is off. What a cold start clears is log 29, memory that
nothing wrote reads 0 (log 1), and the numbering of records is log 71: these are the model's. -/
def Sys2Proof.Says.SuppliesRise : Prop :=
  ∀ s, Quiet s →
    (s.pins.vaux = false → Completes .vauxRise s fun t =>
      Sys2Proof.coldStarted s { Sys2Proof.enablesLow s.pins with vaux := true, mgtClk := true } 1 { up := 1 } t ∧ t.mgt.time = 0) ∧
    Completes .vauxFall s (fun t =>
      Sys2Proof.coldStarted s { Sys2Proof.enablesLow s.pins with vaux := false } 0 {} t ∧ t.mgt.time = 0) ∧
    (s.vilothRuns = true → s.seq.down = 0 →
      (s.seq.up = 3 → (s.pins.pgIo && s.pins.pgMem) = false → Completes (.powerGoodRise .ana) s fun t => Frame [.pins, .seq] s t ∧
        t.pins = { s.pins with pgAna := true, enIo := true, enMem := true } ∧ t.seq = { s.seq with up := 4 }) ∧
      (s.seq.up = 4 → s.mgt.recovery = false → s.pins.pgCore &&& s.diesOn ≠ s.diesOn →
        ∀ g, (g = .io ∧ s.pins.pgMem = true) ∨ (g = .mem ∧ s.pins.pgIo = true) →
        Completes (.powerGoodRise g) s fun t => Frame [.pins, .seq, .hif, .mgt] s t ∧
          t.pins = { s.pins with pgIo := true, pgMem := true, enCore := s.diesOn, operation := s.diesOn } ∧
          t.seq = { s.seq with up := 5 } ∧ t.hif = { s.hif with cfgReady := true } ∧
          t.mgt = { s.mgt with pol := { s.mgt.pol with now := 700 }, pmb := t.mgt.pmb } ∧
          ∀ d, d < 4 → t.pmbOf d = { s.pmbOf d with
            command := if bitOf s.diesOn.toNat d then Sys2Proof.voutCode d 700 else (s.pmbOf d).command
            max := Sys2Proof.voutCode d 850, min := Sys2Proof.voutCode d 550
            ovLimit := Sys2Proof.voutCode d 920, uvLimit := Sys2Proof.voutCode d 520 }) ∧
      (∀ d : Fin 4, s.seq.up = 5 → s.pins.rstN = true → (∀ e : Fin 4, e ≠ d → bitOf s.diesOn.toNat e = true → bitOf s.pins.pgCore.toNat e = true) →
        Completes (.powerGoodRise (.core d)) s fun t => Frame [.pins, .seq, .mgt] s t ∧
          t.pins = { s.pins with pgCore := s.pins.pgCore ||| BitVec.ofNat 4 (2 ^ d.val) } ∧
          t.seq = { s.seq with up := 7, coreRun := true } ∧
          t.mgt = { s.mgt with phase := 7, pol := { s.mgt.pol with on := true, v := s.mgt.pol.vset } }) ∧
      (s.seq.retry = true → s.seq.up = 0 → s.pins.pgAna = false → Completes .sequenceRetry s fun t => Frame [.pins, .seq] s t ∧
        t.pins = { s.pins with enAna := true } ∧ t.seq = { s.seq with retry := false, up := 3 }) ∧
      (s.seq.restart = true → s.seq.up = 0 → Completes .restartAtPhase2 s fun t => t.mgt.time = s.mgt.time ∧
        Sys2Proof.coldStarted s { s.pins with smbAlert := false } 2 { up := 1, badA := s.seq.badA, badB := s.seq.badB } t))

/-- R508 to R511, R527: what ends power: a power-good input that does not come in time, with the third such failure stopping
start-up (an inference of this model, log 27); a lost supply of ANA, IO or MEM; PWR_FAIL_N; and THERMTRIP: each is the
block's last code, and a power-down begins. A lost core plane takes its die's cores, and wants a Fold. -/
def Sys2Proof.Says.SuppliesFall : Prop :=
  ∀ s, Quiet s → s.vilothRuns = true → s.seq.down = 0 →
    (∀ g, s.seq.up = (match g with
        | PowerGroup.ana => 3
        | .core _ => 5
        | _ => 4) → s.pins.good g = false → s.pins.enabled g = true →
      Completes (.powerGoodTimeout g) s fun t => Sys2Proof.goneDark s t ∧ t.mgt.lastCode = 0x0D80#16 ∧ t.seq.fails = s.seq.fails + 1 ∧
        t.seq.retry = decide (s.seq.fails + 1 < 3) ∧ t.seq.stopped = decide (3 ≤ s.seq.fails + 1)) ∧
    (∀ g, g = PowerGroup.ana ∨ g = .io ∨ g = .mem → s.pins.good g = true → s.pins.enabled g = true →
      Completes (.powerGoodFall g) s fun t => Sys2Proof.goneDark s t ∧ t.mgt.lastCode = 0x0D81#16 ∧ t.pins.good g = false) ∧
    (∀ d : Fin 4, bitOf s.pins.pgCore.toNat d = true → bitOf s.pins.enCore.toNat d = true → s.seq.coreRun = true →
      Completes (.powerGoodFall (.core d)) s fun t => Frame [.pins, .mgt, .lint, .cores, .ft] s t ∧
        t.pins = { s.pins with pgCore := t.pins.pgCore, enCore := t.pins.enCore } ∧
        (∀ e : Fin 4, bitOf t.pins.pgCore.toNat e = (bitOf s.pins.pgCore.toNat e && decide (e ≠ d))) ∧
        t.mgt = { s.mgt with lastCode := 0x0D81#16 } ∧
        t.lint = s.lint.event false (Sys2Proof.eventOf s .viloth 0x0D81#16 0 [(Config.supplyArg (3 + d)).toNat]) ∧
        Sys2Proof.planeLost s t d .vcoreLost) ∧
    Completes .pwrFailNFall s (fun t => Sys2Proof.goneDark s t ∧ t.mgt.lastCode = 0x0D84#16 ∧ t.pins.pwrFailN = false) ∧
    (s.pins.thermtrip = false → Completes .thermtrip s fun t => Sys2Proof.goneDark s t ∧ t.mgt.lastCode = 0x0D85#16 ∧
      t.pins.thermtrip = true)

/-- R506, R521, R525, R534, R537, R541 to R543, R546, R548: what ROM makes of its observations. A missing MGT_CLK25 stops it until a
recheck finds the clock; Thimble, OTP or a flash that fails stops start-up with its code; then the copy that R543 chooses is in
force with its configuration, or with none recovery mode begins, or start-up stops where the settings forbid it. -/
def Sys2Proof.Says.RomStarts : Prop :=
  ∀ s (o : BootObs), Quiet s → s.pins.vaux = true →
    (s.pins.mgtClk = false → Completes (.mgtClkRecheck true) s fun t => Frame [.pins] s t ∧ t.pins = { s.pins with
      mgtClk := true, smbAlert := s.seq.stopped || s.mgt.recovery || s.ft.folded || s.mgt.pol.hold }) ∧
    (s.pins.mgtClk = true → s.seq.up = 1 → s.seq.down = 0 → s.seq.stopped = false →
      (s.mgt.phase = 1 → o.mgtClk = false → Completes (.bootRomStart o) s fun t => Frame [.pins, .mgt, .lint] s t ∧
        t.pins = { s.pins with mgtClk := false, smbAlert := true } ∧ t.mgt = { s.mgt with lastCode := 0x0D83#16 } ∧
        t.lint = s.lint.event false (Sys2Proof.eventOf s .viloth 0x0D83#16 0 [(Config.supplyArg 8).toNat])) ∧
      (s.mgt.phase ≠ 1 ∨ o.mgtClk = true →
        let stops := fun (code : BitVec 16) (phase : BitVec 4) => Completes (.bootRomStart o) s fun t =>
          t.seq = { s.seq with stopped := true, up := 0 } ∧ t.mgt.lastCode = code ∧ t.mgt.phase = phase ∧ t.mgt.thimble = true ∧
          t.pins.smbAlert = true ∧ t.hif = s.hif ∧ t.mem = s.mem ∧ t.fab = s.fab ∧ t.cores = s.cores ∧ t.jobs = s.jobs
        (o.thimbleOk = false → stops 0x0E80 2) ∧
        (o.thimbleOk = true → s.otpGood = false → stops 0x0E81 2) ∧
        (o.thimbleOk = true → s.otpGood = true → o.sfdpOk = false → stops 0x0E82 3) ∧
        (o.thimbleOk = true → s.otpGood = true → o.sfdpOk = true → s.pins.pgAna = false →
          Completes (.bootRomStart o) s fun t => t.pins.enAna = true ∧ t.mgt.ident = BitVec.ofNat 256 (s.otpNat 0 32) ∧
            t.mgt.settings = s.newestSettings ∧ t.mem = s.mem ∧ t.fab = s.fab ∧ t.cores = s.cores ∧ t.jobs = s.jobs ∧
            match s.chooseCopy with
            | some c =>
              let w := hdConfig (s.header c)
              t.mgt.phase = 6 ∧ t.mgt.copy = some c ∧ t.mgt.config = BitVec.ofNat 320 w ∧ t.seq = { s.seq with up := 3 } ∧
              t.hif = { s.hif with cfgReady := true } ∧ t.mgt.pol = { s.mgt.pol with
                cap := min (cfCap w) ((s.newestSettings.map setCapMax).getD 2400), vset := cfVset w }
            | none => t.mgt.phase = 4 ∧ t.mgt.lastCode = 0x0E83#16 ∧ t.pins.smbAlert = true ∧
              if (s.newestSettings.map setNoRecovery).getD false then t.seq = { s.seq with stopped := true, up := 0 } ∧ t.hif = s.hif
              else t.mgt.recovery = true ∧ t.seq = { s.seq with up := 3 } ∧ t.hif = { s.hif with cfgReady := true })))

/-- R521: a reference clock that is lost while Viloth runs is reported; a training port of its pair goes DOWN, and without
PE_REFCLK the link is down. -/
def Sys2Proof.Says.ClocksLost : Prop :=
  ∀ s, Quiet s → s.vilothRuns = true →
    (∀ p : Fin 4, Completes (.refclkMissing (.serdes p)) s fun t => Frame [.pins, .mgt, .lint, .fab] s t ∧
      t.pins = { s.pins with sdClk := t.pins.sdClk } ∧ (∀ q : Fin 4, bitOf t.pins.sdClk.toNat q = (bitOf s.pins.sdClk.toNat q && decide (q ≠ p))) ∧
      t.mgt = { s.mgt with lastCode := 0x0D83#16 } ∧
      t.lint = s.lint.event false (Sys2Proof.eventOf s .viloth 0x0D83#16 0 [(Config.supplyArg (9 + p)).toNat]) ∧
      t.fab = { s.fab with ports := t.fab.ports } ∧
      ∀ n : Fin 13, t.port n = if (portsOfPair p).contains n = true ∧ (s.port n).state = 1 then { s.port n with state := 0, fecLock := false }
        else s.port n) ∧
    Completes (.refclkMissing .pcie) s fun t => Frame [.pins, .mgt, .lint, .hif] s t ∧ t.pins = { s.pins with peClk := false } ∧
      t.hif = { s.hif with linkUp := false } ∧ t.mgt = { s.mgt with lastCode := 0x0D83#16 } ∧
      t.lint = s.lint.event false (Sys2Proof.eventOf s .viloth 0x0D83#16 0 [(Config.supplyArg 13).toNat])

/-- The phase after one of phases 8 and 9 has ended: 10 once both have. -/
def Sys2Proof.nextPhase (trained : Byte) (done : Bool) : BitVec 4 := if trained = 0xFF ∧ done = true then 10 else 9

/-- The ports that stand DOWN and have a clock train; the others stay as they are. -/
def Sys2Proof.portsTrain (s t : State) : Prop :=
  t.fab = { s.fab with ports := t.fab.ports } ∧
  ∀ n : Fin 13, t.port n =
    if (s.port n).state = 0 ∧ s.portClock n = true then { (s.port n).fresh with state := 1, fecLock := false } else s.port n

/-- R531, R533, R536, R544, R546, R547, R569: phases 7 to 11. Firmware whose digest matches starts; one that fails it for the
first time marks its copy, and a restart follows a power-down; a watchdog restart is reported, and lasts, with the mirror as
it was, until the firmware's digest has been found right again (the model's choice, log 71, as is how records are numbered).
Each stack trains or fails; the self-test sets the core maps, the failed slots, the Cupboard ways and careful mode; and at
job-ready the Baskets and the Cupboard are zero (what nothing wrote reads 0, log 1), the ports whose clock runs train (the
model's choice, log 27), and the device is ready, or wants a Fold. The ports are said where no data packet is on its way
through the switch. -/
def Obligations.FirmwareStarts : Prop :=
  ∀ s, Quiet s → s.vilothRuns = true →
    (∀ c, s.mgt.copy = some c →
      let good := sha512 (s.flashBytes ((if c then 0x1000000 else 0) + 0x1000) (hdLen (s.header c))) = hdDigest (s.header c)
      (s.seq.up = 7 → s.mgt.phase = 7 → s.seq.still = none →
        (good → Completes .firmwareLoadDone s fun t => Frame [.mgt, .lint] s t ∧
          t.mgt = { s.mgt with
            phase := 9, fwSeq := BitVec.ofNat 32 (hdSeq (s.header c))
            fwInfo := BitVec.ofNat 32 ((if c then 1 else 0) + hdSvn (s.header c) * 2 ^ 8 + s.otpSvn * 2 ^ 16 +
              (if s.copyReason (!c) = 0 then 2 ^ 24 else 0)) } ∧
          t.lint = { s.lint with nextSeq :=
            if s.lint.nextSeq.toNat < (Sys2Proof.recordAfter s.lint.flash).toNat then Sys2Proof.recordAfter s.lint.flash
            else s.lint.nextSeq }) ∧
        (¬good → s.seq.badA = false → s.seq.badB = false → s.seq.down = 0 → Completes .firmwareLoadDone s fun t =>
          Sys2Proof.goneDark s t ∧ t.mgt.lastCode = 0x0E84#16 ∧ t.seq.restart = true ∧ t.seq.badA = !c ∧ t.seq.badB = c)) ∧
      (s.seq.still.isSome = true → good → Completes .firmwareLoadDone s fun t => Frame [.seq] s t ∧
        t.seq = { s.seq with still := none }) ∧
      (9 ≤ s.mgt.phase.toNat → s.seq.still = none → Completes .vilothWatchdog s fun t => Frame [.mgt, .lint, .seq] s t ∧
        t.seq = { s.seq with still := some (s.mgt, s.lint) } ∧ t.mgt = { s.mgt with lastCode := 0x0E47#16 } ∧
        t.lint = s.lint.event false (Sys2Proof.eventOf s .viloth 0x0E47#16 0 []))) ∧
    (∀ k : Fin 8, s.mgt.phase = 9 → bitOf s.seq.trained.toNat k = false →
      let tr := s.seq.trained ||| BitVec.ofNat 8 (2 ^ k.val)
      Completes (.hbmTrainDone k true) s (fun t => Frame [.seq, .ms, .mgt] s t ∧ t.seq = { s.seq with trained := tr } ∧
        t.ms = { s.ms with hbm := s.ms.hbm ||| BitVec.ofNat 32 (2 ^ (4 * k.val)) } ∧
        t.mgt = { s.mgt with phase := Sys2Proof.nextPhase tr s.seq.selfDone }) ∧
      (s.stackFailed k = false → s.running = [] → Completes (.hbmTrainDone k false) s fun t => Frame [.seq, .ms, .mgt, .lint, .ft] s t ∧
        t.seq = { s.seq with trained := tr } ∧ t.ms = { s.ms with hbm := s.ms.hbm ||| BitVec.ofNat 32 (2 ^ (4 * k.val + 2)) } ∧
        t.mgt = { s.mgt with phase := Sys2Proof.nextPhase tr s.seq.selfDone, lastCode := 0x0E85#16 } ∧
        t.ft = { s.ft with lastCode := 0x0F83#16 })) ∧
    (∀ r : SelfTest, s.mgt.phase = 9 → s.seq.selfDone = false →
      let bad := fun (k sl : Nat) => bitOf (s.otpNat 0x90 36) (9 * k + sl) || r.badCores.contains (refOf k sl)
      let careful := bitOf s.mgt.config.toNat 0 || (s.mgt.settings.map setCareful).getD false
      Completes (.selfTestDone r) s fun t => Frame [.cfg, .ft, .ms, .mgt, .seq, .lint] s t ∧
        t.seq = { s.seq with selfDone := true, foldAtStart := r.schedFail || r.cupbFail || decide (s.otpNat 0xB4 1 % 16 ≠ 0) } ∧
        t.mgt = { s.mgt with
          careful := careful, phase := Sys2Proof.nextPhase s.seq.trained true
          lastCode := if r.badCores = [] then s.mgt.lastCode else 0x0E46 } ∧
        t.lint = r.badCores.foldl (fun l c => l.event false (Sys2Proof.eventOf s .viloth 0x0E46#16 0 [c.toNat])) s.lint ∧
        t.cfg = { s.cfg with coreMap := t.cfg.coreMap, numCtrl := t.cfg.numCtrl } ∧ bitOf t.cfg.numCtrl.toNat 0 = careful ∧
        (∀ b, b ≠ 0 → t.cfg.numCtrl.getLsbD b = s.cfg.numCtrl.getLsbD b) ∧
        t.ft = { s.ft with failed := t.ft.failed } ∧ t.ms = { s.ms with cupb := t.ms.cupb } ∧
        (∀ d < 4, (t.ms.cupb.get 0 d).toNat = fld s.mgt.config.toNat (64 + 8 * d) 5) ∧
        ∀ k < 32, (∀ i < 8, fld (t.mapReg k) (4 * i) 4 = nth ((upto 9).filter fun sl => !bad k sl) i 0xF) ∧
          ∀ sl < 9, (t.ft.failed.get 0 k).getLsbD sl = bad k sl) ∧
    (s.mgt.phase = 10 → s.fab.worms = ⟨[]⟩ →
      let zeroed := fun (t : State) => ∀ p, t.mem.get 0 p =
        if (cupbBase ≤ p ∧ p < cupbBase + 2 ^ 34) ∨ (basketBase ≤ p ∧ p < basketBase + 512 * basketSize) then 0 else s.mem.get 0 p
      (s.seq.foldAtStart = false → Completes .jobReady s fun t => Frame [.mem, .fab, .mgt, .hif, .free, .lint] s t ∧ zeroed t ∧
        Sys2Proof.portsTrain s t ∧ t.hif = { s.hif with ready := true } ∧
        t.mgt = { s.mgt with phase := 11, bootMs := BitVec.ofNat 32 (s.mgt.time.toNat / 10 ^ 6) } ∧
        ∃ code ∈ Code.all, t.lint = s.lint.event false (Sys2Proof.eventOf s .viloth code 0 [s.mgt.time.toNat / 10 ^ 6])) ∧
      (s.seq.foldAtStart = true → s.ft.folded = false → s.ft.want = none → Completes .jobReady s fun t =>
        Frame [.mem, .fab, .mgt, .ft] s t ∧ zeroed t ∧ Sys2Proof.portsTrain s t ∧ t.mgt = { s.mgt with phase := 11 } ∧
        t.ft = { s.ft with want := some .startUp }))

/-- R356, R457, R493, R494, R521, R524: RST_N low for 1,000 ns or more resets a device that runs, and less than 960 ns does
nothing; its rise ends the cause, and lets power-up that waits for it go on. FLR and PERST_N reset the host's registers too,
PERST_N also the link, the IDE streams and, outside Fold, the fabric island, which in Fold stays as it is. Write-back empties
the caches and zeroes Baskets and Cupboard; then the device is ready again. The link comes up: the cause of PERST_N ends, and
the ports train. What a reset leaves of state that R493 and R494 do not name, that a warm reset is taken at phase 11 only,
that HIF_TIME, IDE and AER stay over an FLR, and that write-back is done at once without a core domain are the model's
(DEDUCED, log 29). -/
def Obligations.ResetsRun : Prop :=
  ∀ s, Quiet s →
    (∀ n, n < 960 → Completes (.rstN n) s fun t => t = s) ∧
    (∀ n, 1000 ≤ n → s.vilothRuns = true →
      (s.mgt.phase ≠ 11 → Completes (.rstN n) s fun t => t = { s with pins := { s.pins with rstN := false } }) ∧
      (s.mgt.phase = 11 → Completes (.rstN n) s fun t => t.pins = { s.pins with rstN := false } ∧ t.hif.ready = false ∧ t.hif.cause = 1 ∧
        t.hif.posted = [] ∧ t.jobs = ⟨[]⟩ ∧ t.cores = ⟨[]⟩ ∧ t.chans = ⟨[]⟩ ∧ t.mbx.ch = ⟨[]⟩ ∧ t.mem = s.mem ∧ t.fab.rt = s.fab.rt ∧
        t.seq = { s.seq with reset := some { cause := 1, causeDone := false, wbDone := !s.seq.coreRun, linkDone := true } })) ∧
    (s.vilothRuns = true → s.seq.down = 0 →
      (∀ r, s.seq.reset = some r → r.cause = 1 → s.seq.up = 7 → Completes .rstNRelease s fun t => Frame [.pins, .seq] s t ∧
        t.pins = { s.pins with rstN := true } ∧ t.seq = { s.seq with reset := some { r with causeDone := true } }) ∧
      (s.seq.reset = none → s.seq.up = 6 → Completes .rstNRelease s fun t => Frame [.pins, .seq, .mgt] s t ∧
        t.pins = { s.pins with rstN := true } ∧ t.seq = { s.seq with up := 7, coreRun := true } ∧
        t.mgt = { s.mgt with phase := 7, pol := { s.mgt.pol with on := true, v := s.mgt.pol.vset } })) ∧
    (let emptied := fun (t : State) => t.jobs = ⟨[]⟩ ∧ t.cores = ⟨[]⟩ ∧ t.chans = ⟨[]⟩ ∧ t.mbx = {} ∧ t.mem = s.mem ∧ t.mgt.update = none
    (s.hif.linkUp = true → Completes .flr s fun t => emptied t ∧
      t.hif = { ({} : Hif) with
        cause := 3, time := s.hif.time, ideStr := s.hif.ideStr, mirror := t.hif.mirror, msixSent := s.hif.msixSent
        pmeSent := s.hif.pmeSent, linkUp := true, cfgReady := s.hif.cfgReady, aer := s.hif.aer } ∧
      t.seq = { s.seq with reset := some { cause := 3, causeDone := true, wbDone := !s.seq.coreRun, linkDone := true } }) ∧
    (s.pins.vaux = true → ∀ k, Completes (.perstN k) s fun t => emptied t ∧
      t.hif = { ({} : Hif) with
        cause := 4, time := s.hif.time, mirror := t.hif.mirror, msixSent := s.hif.msixSent, pmeSent := s.hif.pmeSent
        cfgReady := s.hif.cfgReady } ∧
      t.seq = { s.seq with reset := some { cause := 4, causeDone := false, wbDone := !s.seq.coreRun, linkDone := false } } ∧
      t.pins = (if k = .perst then { s.pins with perstN := false } else s.pins) ∧
      (s.ft.folded = false → t.fab = { ({} : Fabric) with noted := s.fab.noted }) ∧ (s.ft.folded = true → t.fab = s.fab))) ∧
    (∀ r, s.seq.reset = some r →
      (r.wbDone = false → Completes .warmWritebackDone s fun t => Frame [.mem, .ms, .seq] s t ∧ t.ms = { s.ms with home := {} } ∧
        t.seq = { s.seq with reset := some { r with wbDone := true } } ∧
        ∀ p, t.mem.get 0 p = if (cupbBase ≤ p ∧ p < cupbBase + 2 ^ 34) ∨ (basketBase ≤ p ∧ p < basketBase + 512 * basketSize) then 0
          else s.mem.get 0 p) ∧
      (r.causeDone = true → r.wbDone = true → r.linkDone = true → Completes .resetReady s fun t => Frame [.hif, .seq] s t ∧
        t.hif = { s.hif with ready := s.vilothRuns && decide (s.mgt.phase = 11) && !s.seq.foldAtStart } ∧
        t.seq = { s.seq with reset := none })) ∧
    (s.pins.vaux = true → s.pins.peClk = true → s.pins.pgIo = true → s.hif.linkUp = false → s.fab.worms = ⟨[]⟩ →
      Completes .pcieLinkUp s fun t => Frame [.hif, .pins, .seq, .fab] s t ∧ t.hif = { s.hif with linkUp := true } ∧
        t.pins = { s.pins with perstN := true } ∧
        t.seq = { s.seq with reset := s.seq.reset.map fun r => if r.cause = 4 then { r with causeDone := true, linkDone := true } else r } ∧
        if s.ft.folded = false ∧ s.pins.mgtClk = true ∧ s.mgt.phase = 11 then Sys2Proof.portsTrain s t else t.fab = s.fab)

/-- R554, R557, R558: the Lint hub moves its oldest queued record into the ring under the next number, and into the flash log if its
code is of the error class, or a notice with the configuration's bit, and the window of 64 has room; a window of one second ends,
and one that skipped records leaves LINT_FLASH_SKIPPED. -/
def Obligations.LintMoves : Prop :=
  ∀ s, Quiet s → s.vilothRuns = true →
    let l := s.lint
    (∀ r q, l.queue = r :: q → l.lostNew = 0 → l.waiting = [] →
      let want := decide (0x80 ≤ r.code.toNat % 256) || (decide (0x40 ≤ r.code.toNat % 256) && bitOf s.mgt.config.toNat 2)
      let fits := decide (l.winCount < 64)
      let x := { r with seq := l.nextSeq, flashed := want && fits }
      Completes .lintHubMove s fun t => Frame [.lint, .mgt] s t ∧ t.mgt = { s.mgt with lintSeq := l.nextSeq } ∧
        t.lint = { l with
          queue := q, nextSeq := l.nextSeq + 1, ring := (l.ring ++ [x]).drop (l.ring.length - 1023)
          flash := if want && fits then (if 131072 ≤ l.flash.length then l.flash.drop 1024 else l.flash) ++ [x] else l.flash
          winCount := if want && fits then l.winCount + 1 else l.winCount
          winSkip := if want && !fits then l.winSkip + 1 else l.winSkip, skip := t.lint.skip } ∧
        (want = false ∨ fits = true → t.lint.skip = l.skip)) ∧
    (∀ r q e w, l.queue = r :: q → l.lostNew = 0 → l.waiting = e :: w → q.length < 256 → (∀ y ∈ q, e.same y = false) →
      Completes .lintHubMove s fun t => t.lint.queue = q ++ [{ e with time := s.mgt.time }] ∧ t.lint.waiting = w) ∧
    (l.winSkip = 0 → Completes .lintFlashWindow s fun t => Frame [.lint] s t ∧ t.lint = { l with winCount := 0, winSkip := 0 }) ∧
    (l.winSkip ≠ 0 → Completes .lintFlashWindow s fun t => Frame [.lint, .mgt] s t ∧ t.mgt = { s.mgt with lastCode := 0x0E44#16 } ∧
      t.lint = { l with winCount := 0, winSkip := 0 }.event false
        (Sys2Proof.eventOf s .viloth 0x0E44#16 0 [l.winSkip, l.skip.toNat]))

/-! ### The fabric -/

/-- Of the fabric only port `n` has changed, and it is now `p`. -/
def Sys2Proof.onlyPort (s t : State) (n : Nat) (p : Port) : Prop :=
  t.fab = { s.fab with ports := t.fab.ports } ∧ t.port n = p ∧ ∀ m, m ≠ n → t.port m = s.port m

/-- R391 to R395, R397, R399, R400, R407: a port that is not UP takes no frame. A frame that FEC cannot correct, or that fails its CRC,
is counted, and asked for again; so is what follows a frame that is missing, of which the ACK alone counts (log 36). A port at a
break asks for nothing (R407). A good frame with the SEQ that is due, without NAK, is
taken: its ACK frees the frames it names, its credit the blocks, its control blocks, or its flit, reach the port's buffers, and an
idle frame acknowledges it, but over a break, as far as the replay store has room (log 36). This is said of a port that has no
credit to tell, no NAK that waits and no packet of its own. -/
def Sys2Proof.Says.FramesReceived : Prop :=
  ∀ s (n : Fin 13) (f : BitVec 2176) fec, Quiet s →
    let p := s.port n
    (p.state ≠ 2 → Completes (.linkFrameReceive n f fec) s fun t => t = s) ∧
    (p.state = 2 → p.owe = ⟨[]⟩ → p.outq = [] → p.nakDue = false →
      let fc := if fec = .corrected ∧ p.fec ≠ 0xFFFFFFFF then p.fec + 1 else p.fec
      let good := decide (fec ≠ .uncorrected) && crc32 (leBytes 268 f.toNat) == fld f.toNat 2144 32
      let keep := p.replay.filter fun x => decide ((fSeq x - fAck f - 1).toNat < 2048)
      let noProg := if keep.length < p.replay.length then 0 else p.noProg
      let asks := fun (t : State) (q : Port) => Frame [.fab] s t ∧ Sys2Proof.onlyPort s t n
        (if s.overBreak n = false ∧ q.replay.length < 1024 then { q with
          nakSent := true, txSeq := p.txSeq + 1, replay := q.replay ++ [mkFrame 0 p.txSeq (p.rxSeq - 1) true 0 0 0 0 0] }
        else { q with nakSent := true, nakDue := true })
      (good = false → p.err ≠ 0xFFFFFFFF → Completes (.linkFrameReceive n f fec) s fun t =>
        asks t { p with fec := fc, err := p.err + 1 }) ∧
      (good = true → fSeq f ≠ p.rxSeq →
        let heard := { p with fec := fc, replay := keep, noProg := noProg }
        (p.nakSent = false → Completes (.linkFrameReceive n f fec) s fun t => asks t heard) ∧
        (p.nakSent = true → Completes (.linkFrameReceive n f fec) s fun t => Frame [.fab] s t ∧ Sys2Proof.onlyPort s t n heard)) ∧
      (good = true → fSeq f = p.rxSeq → fNak f = false → p.noProg < 32 →
        let told := s.overBreak n = false ∧ keep.length + 1 < 1024
        let taken := { p with
          fec := fc, rxSeq := p.rxSeq + 1, nakSent := false, used := p.used.upd 0 (fCvc f) (· - fCblk f)
          replay := if told then keep ++ [mkFrame 0 p.txSeq p.rxSeq false 0 0 0 0 0] else keep
          txSeq := if told then p.txSeq + 1 else p.txSeq
          noProg := noProg }
        let loads := fun (v : Nat) =>
          if fType f = 1 then ((upto 4).filter fun b => fBlk f b && fVc f b == v).map fun b => Load.ctl (blockPacket (fBlock f b))
          else if fType f = 2 ∧ fVc f 0 = v then [Load.flit (BitVec.ofNat 2048 (fBody f))] else []
        Completes (.linkFrameReceive n f fec) s fun t => ∃ q : Tab (List Cell), Frame [.fab] s t ∧
          Sys2Proof.onlyPort s t n { taken with inq := q } ∧
          ∀ v, q.get [] v = p.inq.get [] v ++ (loads v).map fun l => { load := l }))

/-- R391, R395, R521, R583: training ends UP with the partner that the route table expects, or with any while none is in effect, and
FAILED with FAB_CABLING for another; a port without its clock does not train; 10 microseconds without FEC lock fail a port that is UP or trains: FAB_LINK_DOWN, and for an
enabled port every running job halts, with a note of kind 2 that names the port and its partner to come. This is said with no data
packet on its way through the switch. -/
def Sys2Proof.Says.PortStates : Prop :=
  ∀ s (n : Fin 13) peer rev, Quiet s → s.fab.worms = ⟨[]⟩ →
    let p := s.port n
    (s.portClock n = false → Completes (.portTrainingDone n peer rev) s fun t => t = s) ∧
    (s.portClock n = true → p.state = 0 ∨ p.state = 1 → (∀ e, s.expectedPeer n = some e → e = peer.toNat) →
      Completes (.portTrainingDone n peer rev) s fun t => Frame [.fab] s t ∧
        Sys2Proof.onlyPort s t n { p.fresh with state := 2, peer := peer, reversed := rev, fecLock := true }) ∧
    (∀ e, s.portClock n = true → p.state = 0 ∨ p.state = 1 → s.expectedPeer n = some e → e ≠ peer.toNat → s.running = [] →
      Completes (.portTrainingDone n peer rev) s fun t => Frame [.fab, .lint] s t ∧ (t.port n).state = 3 ∧ (t.port n).peer = peer ∧
        (∀ m, m ≠ n.val → t.port m = s.port m) ∧ t.fab = { s.fab with ports := t.fab.ports, lastCode := 0x0A85#16 }) ∧
    (p.state = 1 ∨ p.state = 2 → p.outq = [] →
      Completes (.portFecLockLoss n) s fun t => Frame [.fab, .lint, .jobs, .cores] s t ∧ t.port n = { p.fresh with state := 3, fecLock := false } ∧
        (∀ m, m ≠ n.val → t.port m = s.port m) ∧ t.fab = { s.fab with ports := t.fab.ports, lastCode := 0x0A80#16 } ∧
        t.lint = s.lint.event false (Sys2Proof.eventOf s (.fab n) 0x0A80#16 0 [n]) ∧
        (s.portEnabled n = false → t.jobs = s.jobs ∧ t.cores = s.cores) ∧
        (s.portEnabled n = true → ∀ k j, s.job k = some j → j.ended = false → j.halt = none → ∃ g, t.job k = some { j with
          gangSt := g, code := mergeCode j.code 0x0A80#16, halt := some (0x0A80#16, 0, none, .acc), note := some (2, n.val, p.peer.toNat) }))

/-- The next link of a unicast packet without breaks (R405, R406): along the first of the axes X, Y, Z on which its coordinates
differ, the shorter way, the positive one at a tie; then to its slot by the hem port. Answers the port and the header. -/
def Sys2Proof.nextLink (dim : Nat × Nat × Nat) (c d : Coord) (h : BitVec 128) : Nat × BitVec 128 :=
  match [0, 1, 2].find? fun a => c.along a != d.along a with
  | some a =>
    let z := axisSize dim a
    let plus := decide (backBy (d.along a) (c.along a) z ≤ z / 2)
    let wraps := if plus then decide (c.along a + 1 = z) else decide (c.along a = 0)
    (7 + 2 * a + (if plus then 0 else 1), setRoute h a plus wraps)
  | none => ((c.slot ^^^ d.slot) - 1, BitVec.ofNat 128 (h.toNat - 16 * hDl h))

/-- R399 to R407, R411, R412: PACKET_FORWARD of the oldest packet of its class at the injection queue, a control packet, with
a route table without breaks in effect: one for this device reaches its class's queue; another takes its next link, if the
port there is UP, enabled and has room on a VC that no data packet holds, as one frame of a control block; and one of a
reserved kind, to a node outside the sizes, or to a port that is FAILED or not enabled, is discarded with its reason, and
FAB_DISCARD names the switch by ARG_0 = 0xFF (DEDUCED, log 32). One that arrived by a port, and by the table that it goes by
is for this device, leaves that port's buffer. -/
def Sys2Proof.Says.PacketsForwarded : Prop :=
  ∀ s k rest r, Quiet s → s.fab.rt = some r → r.brk = 0 → s.ft.folded = false → hData k.hdr = false →
    let vc := BitVec.ofNat 3 (hVcc k.hdr)
    let known := (kindInfo (hKind k.hdr)).isSome
    let inside := decide (hDst k.hdr < 8 * s.dims.1 * s.dims.2.1 * s.dims.2.2)
    let queued := fun (e : Tab (List Packet)) => e.get [] (hVcc k.hdr) = s.fab.eject.get [] (hVcc k.hdr) ++ [k] ∧
      ∀ c, c ≠ hVcc k.hdr → e.get [] c = s.fab.eject.get [] c
    let hop := Sys2Proof.nextLink s.dims (coordOf s.dims r.myPhys.toNat) (coordOf s.dims (hDst k.hdr)) k.hdr
    let discarded := fun (port reason : Nat) (h : BitVec 128) => Completes (.packetForward none vc) s fun t => Frame [.fab, .lint] s t ∧
      t.fab = { s.fab with inject := rest, discard := s.fab.discard + 1, lastCode := 0x0A83#16 } ∧
      t.lint = s.lint.event false (Sys2Proof.eventOf s (.fab port) 0x0A83#16 (BitVec.ofNat 32 (hKey h))
        [port, reason, wordAt h.toNat 0, wordAt h.toNat 1, wordAt h.toNat 2, wordAt h.toNat 3])
    (s.fab.inject = k :: rest → s.fab.discard ≠ 0xFFFFFFFF →
      (known = false → discarded 0xFF 1 k.hdr) ∧
      (known = true → inside = false → discarded 0xFF 2 k.hdr) ∧
      (known = true → inside = true → hMcast k.hdr = false →
        (hDst k.hdr = r.myPhys.toNat → hKind k.hdr ≠ 0x21 → Completes (.packetForward none vc) s fun t => Frame [.fab] s t ∧
          ∃ e, t.fab = { s.fab with inject := rest, eject := e } ∧ queued e) ∧
        (hDst k.hdr ≠ r.myPhys.toNat →
          let n := hop.1
          let k' : Packet := { k with hdr := hop.2 }
          let p := s.port n
          let v := vcOn n hop.2
          ((p.state = 3 ∨ s.portEnabled n = false) → discarded n 3 hop.2) ∧
          (p.state = 2 → s.portEnabled n = true → p.replay.length + 1 < 1024 → p.held.get false v = false → p.hasRoom n v 1 = true →
            p.owe = ⟨[]⟩ → Completes (.packetForward none vc) s fun t => Frame [.fab] s t ∧
              t.fab = { s.fab with inject := rest, ports := t.fab.ports } ∧ (∀ m, m ≠ n → t.port m = s.port m) ∧
              t.port n = { p with
                used := p.used.set 0 v (p.used.get 0 v + 1), txSeq := p.txSeq + 1
                replay := p.replay ++ [mkFrame 1 p.txSeq (p.rxSeq - 1) false v 1 (leNat (k'.bytes.take 64)) 0 0] })))) ∧
    (∀ (q : Fin 13) (v : BitVec 3) c cs r', (s.port q).inq.get [] v.toNat = c :: cs → c.load = .ctl k →
      (if c.old.isSome then c.old else s.fab.rt) = some r' → known = true → hMcast k.hdr = false → hKind k.hdr ≠ 0x21 →
      hDst k.hdr = r'.myPhys.toNat → outside r' (hDst k.hdr) = false →
      Completes (.packetForward (some q) v) s fun t => Frame [.fab] s t ∧
        (t.port q).inq.get [] v.toNat = cs ∧ (∀ c, c ≠ v.toNat → (t.port q).inq.get [] c = (s.port q).inq.get [] c) ∧
        (∀ m, m ≠ q.val → t.port m = s.port m) ∧ ∃ e, t.fab = { s.fab with ports := t.fab.ports, eject := e } ∧ queued e)

/-- Port `n` has sent a flit of a data packet on a VC: a frame of kind 2, and four blocks of the partner's buffer. -/
def Sys2Proof.flitSent (p : Port) (v : Nat) (b : BitVec 2048) : Port :=
  { p with
    used := p.used.set 0 v (p.used.get 0 v + 4), txSeq := p.txSeq + 1
    replay := p.replay ++ [mkFrame 2 p.txSeq (p.rxSeq - 1) false v 15 b.toNat 0 0] }

/-- R393, R397, R399: PACKET_FORWARD of a data packet at the injection queue moves one flit of 256 bytes at a time, once 256 bytes are
free on the next link. The head flit, with the header for that link, takes the link's VC, which no other packet has then until the
tail flit has gone out; with it the packet leaves the queue. -/
def Sys2Proof.Says.FlitsForwarded : Prop :=
  ∀ s k rest r, Quiet s → s.fab.rt = some r → r.brk = 0 → hData k.hdr = true → s.fab.inject = k :: rest →
    let c := hVcc k.hdr
    let vc := BitVec.ofNat 3 c
    let flit := fun (m : Nat) => BitVec.ofNat 2048 (leNat ((k.bytes.drop (256 * m)).take 256))
    let ready := fun (p : Port) (n v : Nat) => p.state = 2 ∧ p.replay.length + 1 < 1024 ∧ p.hasRoom n v 4 = true ∧ p.owe = ⟨[]⟩
    (s.ft.folded = false → s.fab.worms.get none (104 + c) = none → (kindInfo (hKind k.hdr)).isSome = true → hMcast k.hdr = false →
      hDst k.hdr < 8 * s.dims.1 * s.dims.2.1 * s.dims.2.2 → hDst k.hdr ≠ r.myPhys.toNat → 256 < 64 + hLen k.hdr →
      ∀ n : Fin 13, ∀ h, Sys2Proof.nextLink s.dims (coordOf s.dims r.myPhys.toNat) (coordOf s.dims (hDst k.hdr)) k.hdr = (n.val, h) →
      hLen h = hLen k.hdr → let p := s.port n
      let v := vcOn n h
      ready p n v → s.portEnabled n = true → p.held.get false v = false →
      Completes (.packetForward none vc) s fun t => Frame [.fab] s t ∧ (∀ m, m ≠ n.val → t.port m = s.port m) ∧
        t.fab = { s.fab with
          ports := t.fab.ports, worms := s.fab.worms.set none (104 + c) (some { hdr := h, out := some n, moved := 1 }) } ∧
        t.port n = { Sys2Proof.flitSent p v (BitVec.ofNat 2048 (setFld (flit 0).toNat 0 128 h.toNat)) with
          held := p.held.set false v true }) ∧
    ∀ w (n : Fin 13), s.fab.worms.get none (104 + c) = some w → w.out = some n → w.here = false → 0 < w.moved →
      let p := s.port n
      let v := vcOn n w.hdr
      ready p n v →
      (256 * (w.moved + 1) < 64 + hLen w.hdr → Completes (.packetForward none vc) s fun t => Frame [.fab] s t ∧
        (∀ m, m ≠ n.val → t.port m = s.port m) ∧ t.port n = Sys2Proof.flitSent p v (flit w.moved) ∧
        t.fab = { s.fab with
          ports := t.fab.ports, worms := s.fab.worms.set none (104 + c) (some { w with moved := w.moved + 1, bytes := [] }) }) ∧
      (64 + hLen w.hdr ≤ 256 * (w.moved + 1) → p.outq = [] → p.nakDue = false →
        Completes (.packetForward none vc) s fun t => Frame [.fab] s t ∧
        (∀ m, m ≠ n.val → t.port m = s.port m) ∧
        t.port n = { Sys2Proof.flitSent p v (flit w.moved) with held := p.held.set false v false } ∧
        t.fab = { s.fab with inject := rest, ports := t.fab.ports, worms := s.fab.worms.set none (104 + c) none })

/-- R395, R410, R412: the island applies a committed image that keeps R410's rules and names this device, with no port up: it
is then the table in effect, and what stands in the ports' buffers goes by the table before it (DEDUCED, log 36); one that
breaks a rule raises FAB_RT_BAD, with ARG_0 = 0xFF (DEDUCED, log 32), and the table in effect stays. -/
def Sys2Proof.Says.RouteTableApplied : Prop :=
  ∀ s (a : DWord), Quiet s → s.fab.rtWait = some a →
    let w := fun (k : Nat) => s.natAt (a.toNat + 4 * k) 4
    let dim := (fld (w 1) 0 7, fld (w 1) 8 7, fld (w 1) 16 7)
    let es := ((upto 16384).map fun k => (k, s.natAt (a.toNat + 64 + 2 * k) 2)).filter fun e => e.2 != 0
    let limit := 8 * dim.1 * dim.2.1 * dim.2.2
    let good := decide (a.toNat + 32832 ≤ hbmEnd) && decide (a.toNat % 64 = 0) && decide (w 0 = s.physNode) && rtSizesGood (w 1) (w 2) &&
      decide (w 0 < limit) && rtPortsGood dim (w 0) (w 2) (w 3) && decide (s.natAt (a.toNat + 16) 48 = 0) && rtMapGood limit es
    (good = true → (∀ n : Fin 13, (s.port n).state ≠ 2) → Completes .routeTableApply s fun t => Frame [.fab, .ms] s t ∧
      t.ms = { s.ms with home := t.ms.home } ∧
      (∀ n, t.port n = { s.port n with inq := (t.port n).inq } ∧ ∀ v, (t.port n).inq.get [] v =
        ((s.port n).inq.get [] v).map fun c => { c with old := if c.old.isSome then c.old else s.fab.rt }) ∧
      ∃ m : Tab (BitVec 16), t.fab = { s.fab with
        rtWait := none, ports := t.fab.ports
        rt := some { myPhys := BitVec.ofNat 14 (w 0), dims := BitVec.ofNat 32 (w 1), brk := BitVec.ofNat 32 (w 2)
                     portEn := BitVec.ofNat 13 (w 3), map := m } } ∧
        ∀ k < 16384, m.get 0 k = let e := s.natAt (a.toNat + 64 + 2 * k) 2
          if bitOf e 15 then BitVec.ofNat 16 e else 0) ∧
    (good = false → Completes .routeTableApply s fun t => Frame [.fab, .lint, .ms] s t ∧
      t.ms = { s.ms with home := t.ms.home } ∧
      t.fab = { s.fab with rtWait := none, lastCode := 0x0A81#16 } ∧
      t.lint = s.lint.event false (Sys2Proof.eventOf s (.fab 0xFF) 0x0A81#16 0 [0xFF]))

/-- The first packet of a class has been taken, and `l` has been injected. -/
def Sys2Proof.answeredWith (s t : State) (cls : Nat) (rest l : List Packet) : Prop :=
  ∃ e : Tab (List Packet), t.fab = { s.fab with eject := e, inject := s.fab.inject ++ l } ∧ e.get [] cls = rest ∧
    ∀ k, k ≠ cls → e.get [] k = s.fab.eject.get [] k

/-- R371 to R373, R398, R404: a device serves the requests that reach it, in order: a READ_REQ that its job's windows allow
is answered with the bytes, in packets of up to 4,032; a WRITE stores its payload and an ATOMIC combines it, and each is
acknowledged, an atomic with its conditions, whose places in word 5, INVALID in bits 15:0 and OVERFLOW in bits 31:16, are the
model's choice (log 21); one that is not allowed is refused and changes no byte. In Fold they wait for the Fold bridge
(R598). MCAST_DATA stores its payload where it is allowed. -/
def Obligations.RequestsServed : Prop :=
  ∀ s p rest, Quiet s →
    let a := p.addr
    let key := hKey p.hdr
    let bs := p.payload
    let back := fun (kind : Nat) (fields : List Nat) (payload : List Byte) =>
      mkPacket kind (hSrc p.hdr) s.physNode key (hTxn p.hdr) 0 0 false fields payload
    (s.ejected 0 = p :: rest → (s.ft.folded = true → s.ft.bridge = true) →
      (hKind p.hdr = 0x01 →
        let n := p.word 6
        (1 ≤ n → n ≤ 4096 → s.serves key .read a n = true → s.poisonIn a n = none → Completes .readReq s fun t =>
          Frame [.fab, .ms] s t ∧ t.ms = { s.ms with home := t.ms.home } ∧
          Sys2Proof.answeredWith s t 0 rest ((pieces n 4032).map fun x => back 0x10 [x.1] (((s.bytesAt a n).drop x.1).take x.2))) ∧
        (s.serves key .read a n = false → Completes .readReq s fun t => Frame [.fab] s t ∧
          Sys2Proof.answeredWith s t 0 rest [back 0x12 [] []])) ∧
      (hKind p.hdr = 0x02 →
        (s.serves key .write a bs.length = true → s.poisonPart a bs.length = none → Completes .write s fun t =>
          Frame [.fab, .mem, .ms, .ft] s t ∧ Stored s t (bytesFrom a bs) ∧ PoisonCleared s t a bs.length ∧
          Sys2Proof.answeredWith s t 0 rest [back 0x11 [0, 0] []]) ∧
        (s.serves key .write a bs.length = false → Completes .write s fun t => Frame [.fab] s t ∧
          Sys2Proof.answeredWith s t 0 rest [back 0x11 [1, 0] []])) ∧
      (hKind p.hdr = 0x03 →
        let x := fld (p.word 6) 0 4
        let z := atomicSize x
        let f := atomicFmt x
        let new := fun (u v : Nat) => if 4 < x then ((f.cvt 0 .rne (if x ≤ 8 then (f.dec 0 u).min (f.dec 0 v) else (f.dec 0 u).max (f.dec 0 v))).1, {})
          else if f = .int32 then ((u + v) % 2 ^ 32, {}) else f.result 0 ((f.dec 0 u).add (f.dec 0 v)).1 ((f.dec 0 u).add (f.dec 0 v)).2
        let r := fun (k : Nat) => new (s.natAt (a + k * z) z) (leNat ((bs.drop (k * z)).take z))
        let ks := upto (bs.length / z)
        (1 ≤ x → x ≤ 12 → a % z = 0 → bs.length % z = 0 → bs ≠ [] →
          (a + bs.length ≤ hbmEnd ∨ (cupbBase ≤ a ∧ a + bs.length ≤ cupbBase + 2 ^ 34)) →
          s.serves key .atomic a bs.length = true → s.poisonIn a bs.length = none → Completes .atomic s fun t =>
            Frame [.fab, .mem, .ms] s t ∧ t.ms = { s.ms with home := t.ms.home } ∧
            Stored s t (ks.flatMap fun k => bytesFrom (a + k * z) (leBytes z (r k).1)) ∧
            Sys2Proof.answeredWith s t 0 rest [back 0x11
              [0, min (ks.countP fun k => (r k).2.inv) 0xFFFF + min (ks.countP fun k => (r k).2.ovf) 0xFFFF * 2 ^ 16] []]) ∧
        (s.serves key .atomic a bs.length = false → Completes .atomic s fun t => Frame [.fab] s t ∧
          Sys2Proof.answeredWith s t 0 rest [back 0x11 [1, 0] []]))) ∧
    (s.ejected 2 = p :: rest → hKind p.hdr = 0x22 →
      (s.serves key .write a bs.length = true → s.poisonPart a bs.length = none → Completes .mcastData s fun t =>
        Frame [.fab, .mem, .ms, .ft] s t ∧ Stored s t (bytesFrom a bs) ∧ PoisonCleared s t a bs.length ∧
        Sys2Proof.answeredWith s t 2 rest []) ∧
      (s.serves key .write a bs.length = false → Completes .mcastData s fun t => Frame [.fab] s t ∧
        Sys2Proof.answeredWith s t 2 rest []))

/-- `r` is the one request outstanding, of the one command in flight `f` of core `c`, and none waits for a reservation. -/
def Sys2Proof.oneRequest (s : State) (r : Remote) (c : CoreRef) (f : Flight) : Prop :=
  s.fab.remote = [r] ∧ s.fab.waiting = [] ∧ r.owner = .core c ∧ r.chan = none ∧ (s.ifc (.core c)).acc.flight = [f] ∧ f.idx = r.idx ∧
  (s.ifc (.core c)).halted = false

/-- The request's command has failed: it has left its stream, its interface is halted with a code, and no byte of memory or other
core has changed. -/
def Sys2Proof.requestFailed (s t : State) (c : CoreRef) (r : Remote) (code : BitVec 16) : Prop :=
  let x := t.ifc (.core c)
  x.halted = true ∧ x.acc.flight = [] ∧ x.bob.lastCode = code ∧ x.bob.haltIdx = BitVec.ofNat 32 r.idx ∧ t.mem = s.mem ∧
  t.fab.remote = [] ∧ t.fab.inject = s.fab.inject ∧ ∀ q, q ≠ c → t.core q = s.core q

/-- R371, R373, R398, R408, R413: replies. READ_DATA is kept until the last byte of its request is there, and then, with no
other request of the command, the bytes reach DST and the command has finished; WRITE_ACK adds its conditions, read from the
places in word 5 that the model chose (log 21); a refusal halts the interface with WINDOW_FAULT of reason 6, and the time-out
of a request halts it with FAB_TIMEOUT. Each releases the request's reservation. -/
def Obligations.RepliesTaken : Prop :=
  ∀ s r c f, Quiet s → Sys2Proof.oneRequest s r c f →
    let i := IfaceId.core c
    let flies := fun (t : State) (g : Flight) => t.core c = { s.core c with ifc := { s.ifc i with acc := { (s.ifc i).acc with flight := [g] } } } ∧
      ∀ q, q ≠ c → t.core q = s.core q
    let taken := fun (t : State) (l : List Remote) => ∃ e : Tab (List Packet), t.fab = { s.fab with eject := e, remote := l } ∧ e.get [] 1 = [] ∧
      ∀ k, k ≠ 1 → e.get [] k = s.fab.eject.get [] k
    let fault := fun (t : State) (k : Acc) => Sys2Proof.requestFailed s t c r 0x0980#16 ∧ t.ms = { s.ms with
      faultAddr := r.addr, faultInfo := BitVec.ofNat 32 (6 + 16 * k.code + 256 * s.logNo c) }
    (∀ p, s.ejected 1 = [p] → r.txn.toNat = hTxn p.hdr → r.node.toNat = hSrc p.hdr →
      (hKind p.hdr = 0x10 →
        let got := f.got ++ [(r.dst.toNat + p.word 4, p.payload)]
        (r.got + p.payload.length < r.len → Completes .readData s fun t => Frame [.cores, .fab] s t ∧
          flies t { f with got := got } ∧ taken t [{ r with got := r.got + p.payload.length }]) ∧
        (r.len ≤ r.got + p.payload.length → 2 ≤ f.reqs → Completes .readData s fun t => Frame [.cores, .fab] s t ∧
          flies t { f with got := got, reqs := f.reqs - 1 } ∧ taken t []) ∧
        (r.len ≤ r.got + p.payload.length → f.reqs = 1 → f.fin = false → f.got = [] → cmdOp f.cmd = 0x10 ∨ cmdOp f.cmd = 0x11 →
          cmdXop f.cmd = 0 → plainDev (cmdDst f.cmd) = true → inRegs (cmdDst f.cmd) = false →
          Completes .readData s fun t => Frame [.cores, .fab, .mem, .ms, .ft] s t ∧ flies t { f with got := got, reqs := 0, fin := true } ∧
            taken t [] ∧ Stored s t (bytesFrom (cmdDst f.cmd) p.payload) ∧ PoisonCleared s t (cmdDst f.cmd) p.payload.length)) ∧
      (hKind p.hdr = 0x11 →
        (bitOf (p.word 4) 0 = false → Completes .writeAck s fun t => Frame [.cores, .fab] s t ∧ taken t [] ∧
          flies t { f with reqs := f.reqs - 1, conds :=
            { inv := f.conds.inv + p.word 5 % 2 ^ 16, ovf := f.conds.ovf + p.word 5 / 2 ^ 16, iovf := f.conds.iovf } }) ∧
        (bitOf (p.word 4) 0 = true → r.kind = .write ∨ r.kind = .atomic →
          Completes .writeAck s fun t => fault t (if r.kind = .atomic then .atomic else .write))) ∧
      (hKind p.hdr = 0x12 → r.kind = .read → Completes .readRefused s fun t => fault t .read)) ∧
    (s.pins.peClk = true → Completes (.fabTimeout r.txn) s fun t => Sys2Proof.requestFailed s t c r 0x0A84#16 ∧ t.ms = s.ms)

/-- R169, R254, R279, R408: a scheduler message for the one running job, of whose gang it names the interface, is kept there, and its
credit goes back to its sender: a span summary with its sender's slot, or a command that the sender has completed, with the
predicates it wrote. A credit that comes back is one message fewer outstanding. The layout of the messages is this
model's (log 21). -/
def Sys2Proof.Says.SchedulerMessages : Prop :=
  ∀ s p rest n j, Quiet s → s.ejected 2 = p :: rest → hKind p.hdr = 0x20 → s.running = [n] → s.job n = some j → j.key.toNat = hKey p.hdr →
    let i := IfaceId.gang n (BitVec.ofNat 12 (fld (p.word 4) 0 12))
    let slot := fld (p.word 4) 16 3
    let x := s.ifc i
    let credit := mkPacket 0x20 (hSrc p.hdr) s.physNode (hKey p.hdr) 0 3 0 false [] []
    let took := fun (t : State) => ∃ e : Tab (List Packet), t.fab = { s.fab with eject := e, inject := s.fab.inject ++ [credit] } ∧
      e.get [] 2 = rest ∧ ∀ k, k ≠ 2 → e.get [] k = s.fab.eject.get [] k
    (hKspec p.hdr = 1 → x.span = none → Completes .schedMsg s fun t => took t ∧ OnlyIfc [.fab] s t i { x with
      hem := x.hem ++ [(slot, {
        ovf := bitOf (p.word 5) 0, inv := bitOf (p.word 5) 1, rung := fld (p.word 5) 8 8, base := fld (p.word 5) 16 8 })] } id) ∧
    (hKspec p.hdr = 2 → Completes .schedMsg s fun t => took t ∧
      let at' := p.word 6 + p.word 7 * 2 ^ 32
      OnlyIfc [.fab] s t i { x with
        hemDone := x.hemDone ++ [(if p.word 5 = 0 then .acc else .exe, at', slot)]
        hemPreds := if p.word 8 = 0 then x.hemPreds else x.hemPreds ++ [(at', slot, BitVec.ofNat 32 (p.word 8))] } id) ∧
    (hKspec p.hdr = 3 → s.fab.waiting = [] → Completes .schedMsg s fun t => Frame [.fab] s t ∧ ∃ e : Tab (List Packet), t.fab = { s.fab with
      eject := e, msgOut := s.fab.msgOut.upd 0 (hSrc p.hdr) (· - 1) } ∧ e.get [] 2 = rest ∧ ∀ k, k ≠ 2 → e.get [] k = s.fab.eject.get [] k)

/-- R408, R584, R585: a fault note whose origin and number have not been seen in the last second is remembered among the last 64,
halts the running job of its key with FT_REMOTE_HALT, is queued for Viloth, and goes out through every port that is UP and enabled
but the one it came by; one that has been seen changes nothing. The ports are said of the hem. -/
def Sys2Proof.Says.FaultNotes : Prop :=
  ∀ s src p rest, Quiet s → s.fab.noteIn = (src, p) :: rest →
    let origin := BitVec.ofNat 14 (fld (p.word 4) 16 14)
    let seq := BitVec.ofNat 32 (p.word 5)
    let seen := s.fab.seen.any fun e => e.1 == origin && e.2.1 == seq && decide (s.hif.time.toNat < e.2.2 + 10 ^ 9)
    (seen = true → Completes .faultNote s fun t => Frame [.fab] s t ∧ t.fab = { s.fab with noteIn := rest }) ∧
    (seen = false → s.fab.notes.length < 256 → (∀ n : Fin 13, 7 ≤ n.val → (s.port n).state ≠ 2) →
      let kept := fun (t : State) => t.fab = { s.fab with
          noteIn := rest, seen := ((origin, seq, s.hif.time.toNat) :: s.fab.seen).take 64, notes := s.fab.notes ++ [p], ports := t.fab.ports } ∧
        ∀ n : Fin 13, t.port n = if (s.port n).state = 2 ∧ s.portEnabled n = true ∧ src ≠ some n then
          Port.pump n false { s.port n with outq := (s.port n).outq ++ [(2, mkPacket 0x21 (s.port n).peer.toNat s.physNode (hKey p.hdr) 0 0 0 false
            [p.word 4, p.word 5, p.word 6, p.word 7] [])] } else s.port n
      ((∀ n j, s.job n = some j → j.ended = false → j.key.toNat ≠ hKey p.hdr) → Completes .faultNote s fun t => Frame [.fab] s t ∧ kept t) ∧
      (∀ n j, s.running = [n] → s.job n = some j → j.key.toNat = hKey p.hdr → j.halt = none → Completes .faultNote s fun t =>
        Frame [.fab, .lint, .ft, .jobs, .cores] s t ∧ kept t ∧ t.ft = { s.ft with lastCode := 0x0F84#16 } ∧
        (∃ g, t.job n = some { j with
          gangSt := g, code := mergeCode j.code 0x0F84#16, halt := some (0x0F84#16, BitVec.ofNat 32 origin.toNat, none, .acc), note := none }) ∧
        ∀ i ∈ s.allIfaces n j, (t.ifc i).halted = true))

/-! ### The block -/

/-- A step with a command at the front of the queue runs that command on the state with the queue's rest. -/
def Obligations.StepRunsFrontCommand : Prop :=
  ∀ s c rest, s.pending = c :: rest → step s = exec c { s with pending := rest }

/-- An empty queue lets 10 ns pass (this model's choice, log 3): the clocks that run advance, MGT_TIME by its periods of 40 ns, the stage
and channel timers with them, an UP port whose frames have all been acknowledged sends an idle frame (R393, log 36), an Iron that
runs comes to its next phase, up to that of its outcome (log 64), and Viloth takes one fault note; without VAUX nothing changes. -/
def Obligations.IdleTickPasses : Prop :=
  ∀ s, s.pending = [] → ∃ t, step s = .next t ∧ (s.pins.vaux = false → t = s) ∧
    (s.pins.vaux = true →
      t.hif = { s.hif with time := if s.pins.peClk then s.hif.time + 10 else s.hif.time } ∧
      t.mgt = (if s.pins.mgtClk = false then s.mgt else if s.mgt.sub < 30 then { s.mgt with sub := s.mgt.sub + 10 }
        else { s.mgt with sub := s.mgt.sub - 30, time := s.mgt.time + 40 }) ∧
      t.fab = { s.fab with notes := s.fab.notes.drop 1, ports := t.fab.ports } ∧
      (∀ n : Fin 13, let p := s.port n
        let idles := p.state = 2 ∧ p.replay = [] ∧ s.overBreak n = false
        (¬idles → t.port n = p) ∧ (idles → p.owe = ⟨[]⟩ → t.port n = { p with
          txSeq := p.txSeq + 1, replay := [mkFrame 0 p.txSeq (p.rxSeq - 1) false 0 0 0 0 0] })) ∧
      t.pending = [] ∧ t.mem = s.mem ∧ t.ms = s.ms ∧ t.mbx = s.mbx ∧
      t.lint = s.lint ∧ t.cfg = s.cfg ∧ t.ft = s.ft ∧ t.pins = s.pins ∧ t.seq = s.seq ∧
      (s.running = [] → s.chans = ⟨[]⟩ → s.cores.wf {} = true → t.jobs = s.jobs ∧ t.chans = s.chans ∧
        ∀ r, let x := (s.core r).iron
          t.core r = { s.core r with iron := { x with phase := if x.state = 1 ∧ x.phase < x.last then x.phase + 1 else x.phase } }))

/-- Every command whose operands can be given to the device answers a next state, and leaves the queue as it was; one whose operands
cannot is a fault, and none is refused. -/
def Obligations.EveryCommandAnswers : Prop :=
  ∀ (c : Instr) s,
    (c.wf = true → ∃ t, exec c s = .next t ∧ t.pending = s.pending) ∧
    (c.wf = false → exec c s = .fault .illFormed)

/-- Memory keeps its canonical form, and between commands no change to it waits and no code is on its way. -/
def Sys2Proof.Inv (s : State) : Prop := Memory.wf s.mem = true ∧ Quiet s

/-- The invariant holds at reset. -/
def Sys2Proof.Says.InvariantAtReset : Prop := Sys2Proof.Inv State.reset

/-- Every step from a state with the invariant, whatever it runs, reaches one with it, and takes one command from the queue. -/
def Obligations.StepKeepsInvariant : Prop :=
  ∀ s t, Sys2Proof.Inv s → step s = .next t → Sys2Proof.Inv t ∧ t.pending = s.pending.tail

/-- R14, R39, R185, R235, R241, R264, R380, R414, R457, R478, R496: what reset leaves: the identity and the map of the cores,
the registers with a reset value of their own, the owners of the register groups, no token, only P0 true, no supply enabled,
and a queue that is empty. Where the spec gives no value these are the model's choices: memory reads 0 (log 1), internal
state is empty (log 2), and pins are as on a board switched off (log 12). -/
def Sys2Proof.Says.ResetValues : Prop :=
  let s := State.reset
  s.pending = [] ∧ s.hifStatus = 0x10 ∧ (∀ k, s.mapReg k = 0x76543210) ∧ s.cfg.numCtrl = 0xA2 ∧ s.cfg.crsOff = 0 ∧ s.cfg.genSel = 0 ∧
  s.cfg.gangSel = 0 ∧ s.cfg.wdog = 0x7D0 ∧ s.cfg.therm = 0x0005695F ∧ s.ms.rinse = 0x003C1801 ∧ s.ms.hbm = 0 ∧
  (∀ k, s.ms.quota.get 0x01101008 k = 0x01101008) ∧ s.fab.timeout = 0x3E8 ∧ s.fab.rt = none ∧ (∀ n, s.port n = {}) ∧
  (∀ i : IfaceId, (s.ifc i).bob.runahead = 0x200 ∧ (s.ifc i).preds = 1 ∧ (∀ n, (s.ifc i).tok n = 0) ∧ (s.ifc i).halted = false) ∧
  (∀ g, s.owner g = if g = 13 ∨ g = 15 then 2 else if g = 16 then 1 else if g = 17 then 0 else 3) ∧
  (∀ k, (s.ring k).head = 0 ∧ (s.ring k).tail = 0) ∧ (∀ k, s.mbox k = {}) ∧ s.ft.folded = false ∧
  s.pins.enCore = 0 ∧ s.pins.operation = 0 ∧ s.mgt.phase = 0 ∧ ∀ p, s.mem.get 0 p = 0

/-! ### The statements made of several

Each part above says whole what it is about; a statement here is all of its parts. -/

/-- `ScalarIntegerResults`, `ScalarFloatResults`, `ScalarConversionResults`: the scalar functions on integers and FP64 and the conversions between them. -/
def Obligations.ScalarResults : Prop :=
  Sys2Proof.Says.ScalarIntegerResults ∧ Sys2Proof.Says.ScalarFloatResults ∧ Sys2Proof.Says.ScalarConversionResults

/-- `ScalarImmediateResults`, `BranchAndJumpTargets`: the scalar immediates, the branches and the jumps. -/
def Obligations.ImmediatesAndBranches : Prop :=
  Sys2Proof.Says.ScalarImmediateResults ∧ Sys2Proof.Says.BranchAndJumpTargets

/-- `VectorElementResults`, `VectorBitResults`, `ExtractAndInterpolate`: the element instructions, those on the bits of elements, and
extraction and interpolation. -/
def Obligations.ElementResults : Prop :=
  Sys2Proof.Says.VectorElementResults ∧ Sys2Proof.Says.VectorBitResults ∧ Sys2Proof.Says.ExtractAndInterpolate

/-- `ReductionResults`, `SegmentResults`: reductions and segments, as R295 and R296 have them. -/
def Obligations.AcrossElements : Prop :=
  Sys2Proof.Says.ReductionResults ∧ Sys2Proof.Says.SegmentResults

/-- `ConvertResults`, `PackAndUnpack`: the conversions of a vector between formats, and packed elements. -/
def Obligations.FormatConversions : Prop :=
  Sys2Proof.Says.ConvertResults ∧ Sys2Proof.Says.PackAndUnpack

/-- `VectorLoads`, `VectorStores`, `PackedArrays`: loads, stores and packed arrays of a vector program. -/
def Obligations.VectorMemory : Prop :=
  Sys2Proof.Says.VectorLoads ∧ Sys2Proof.Says.VectorStores ∧ Sys2Proof.Says.PackedArrays

/-- `VrunBegins`, `ProgramEnds`, `InstructionRestarts`, `IllegalInstructionStops`: a vector program begins, restarts an instruction, stops at an illegal one, and ends. -/
def Obligations.ProgramRuns : Prop :=
  Sys2Proof.Says.VrunBegins ∧ Sys2Proof.Says.ProgramEnds ∧ Sys2Proof.Says.InstructionRestarts ∧ Sys2Proof.Says.IllegalInstructionStops

/-- `ControlCommands`, `AcquireWaits`, `SkippedCommands`: the control commands that complete at once, an acquire that waits for its
generation, and commands whose predicate is false. -/
def Obligations.CommandsAtOnce : Prop :=
  Sys2Proof.Says.ControlCommands ∧ Sys2Proof.Says.AcquireWaits ∧ Sys2Proof.Says.SkippedCommands

/-- `RemoteSignals`, `BackwardContributions`: the signals to another interface, and the contributions of a backward pass. -/
def Obligations.SignalsOfTheJob : Prop :=
  Sys2Proof.Says.RemoteSignals ∧ Sys2Proof.Says.BackwardContributions

/-- `LayerBeginTakesEffect`, `LayerPatchesApplied`: a layer span takes effect, and its patches are applied. -/
def Obligations.LayerBegins : Prop :=
  Sys2Proof.Says.LayerBeginTakesEffect ∧ Sys2Proof.Says.LayerPatchesApplied

/-- `LayerEndWaits`, `SpanCommits`, `SpanRepeats`: a layer span waits for its two ends, and commits, or repeats one rung up. -/
def Obligations.LayerEnds : Prop :=
  Sys2Proof.Says.LayerEndWaits ∧ Sys2Proof.Says.SpanCommits ∧ Sys2Proof.Says.SpanRepeats

/-- `QueuePopCompletes`, `QueuePushCompletes`, `EveryDoneJobCompletes`, `EveryHaltedJobHalts`: the queue instructions of a vector
program, and the two rows that end a job, answer a next state wherever the spec has them run. -/
def Obligations.QueueRowsAndJobEndsComplete : Prop :=
  Sys2Proof.Says.QueuePopCompletes ∧ Sys2Proof.Says.QueuePushCompletes ∧ Sys2Proof.Says.EveryDoneJobCompletes ∧
  Sys2Proof.Says.EveryHaltedJobHalts

/-- `CommandsFetched`, `BadCommandHalts`: commands are fetched, and a bad one halts its interface. -/
def Obligations.CommandsRead : Prop :=
  Sys2Proof.Says.CommandsFetched ∧ Sys2Proof.Says.BadCommandHalts

/-- `CommandsComplete`, `NumericConditionsReported`: commands complete in order, and their numeric conditions are reported. -/
def Obligations.CommandsEnd : Prop :=
  Sys2Proof.Says.CommandsComplete ∧ Sys2Proof.Says.NumericConditionsReported

/-- `CopiesMove`, `TableLoads`: copies, and loads of table slots. -/
def Obligations.TransfersMove : Prop :=
  Sys2Proof.Says.CopiesMove ∧ Sys2Proof.Says.TableLoads

/-- `AtomicsCombine`, `GatherAndScatter`: atomics, and gathers and scatters. -/
def Obligations.UpdatesAndLists : Prop :=
  Sys2Proof.Says.AtomicsCombine ∧ Sys2Proof.Says.GatherAndScatter

/-- `DeniedAccessHalts`, `SpeculativeFetches`: an access that is denied halts its interface, and a speculative fetch is only a hint. -/
def Obligations.AccessesChecked : Prop :=
  Sys2Proof.Says.DeniedAccessHalts ∧ Sys2Proof.Says.SpeculativeFetches

/-- `TileNumbersChecked`, `PressRowsWritten`: a tile is checked at the store, and its rows are written. -/
def Obligations.TilesDrain : Prop :=
  Sys2Proof.Says.TileNumbersChecked ∧ Sys2Proof.Says.PressRowsWritten

/-- `TilesComplete`, `CarefulRetries`, `CreaseSamplesDecided`: a tile completes, is repeated in careful mode, and its Crease sample is decided. -/
def Obligations.TilesEnd : Prop :=
  Sys2Proof.Says.TilesComplete ∧ Sys2Proof.Says.CarefulRetries ∧ Sys2Proof.Says.CreaseSamplesDecided

/-- `CollectivesMoveData`, `CollectivesComplete`: a collective moves its data and completes. -/
def Obligations.CollectivesRun : Prop :=
  Sys2Proof.Says.CollectivesMoveData ∧ Sys2Proof.Says.CollectivesComplete

/-- `CollectiveTimers`, `CollectiveControlPackets`: the timers of a collective, and its control packets. -/
def Obligations.CollectiveControl : Prop :=
  Sys2Proof.Says.CollectiveTimers ∧ Sys2Proof.Says.CollectiveControlPackets

/-- `JobsComplete`, `JobsHalt`: a job completes, or halts. -/
def Obligations.JobsEnd : Prop :=
  Sys2Proof.Says.JobsComplete ∧ Sys2Proof.Says.JobsHalt

/-- `HbmEvents`, `RinseScrubs`: events of the HBM controllers, and scrubbing. -/
def Obligations.HbmMaintained : Prop :=
  Sys2Proof.Says.HbmEvents ∧ Sys2Proof.Says.RinseScrubs

/-- `RingCommands`, `GroupOwnership`, `ActionRegisters`: the ring, group and action registers. -/
def Obligations.HostActions : Prop :=
  Sys2Proof.Says.RingCommands ∧ Sys2Proof.Says.GroupOwnership ∧ Sys2Proof.Says.ActionRegisters

/-- `MailboxTransfers`, `LinkServices`: mailbox words and windows, IDE, and the power state of the function. -/
def Obligations.MailboxesAndLink : Prop :=
  Sys2Proof.Says.MailboxTransfers ∧ Sys2Proof.Says.LinkServices

/-- `VilothMessages`, `PowerMessages`: the messages that Viloth serves. -/
def Obligations.VilothServes : Prop :=
  Sys2Proof.Says.VilothMessages ∧ Sys2Proof.Says.PowerMessages

/-- `FirmwareUpdates`, `ThimbleMessages`: the messages that Thimble serves. -/
def Obligations.ThimbleServes : Prop :=
  Sys2Proof.Says.FirmwareUpdates ∧ Sys2Proof.Says.ThimbleMessages

/-- `SmbusReads`, `JtagInstructions`: the SMBus target and the JTAG port. -/
def Obligations.SideBuses : Prop :=
  Sys2Proof.Says.SmbusReads ∧ Sys2Proof.Says.JtagInstructions

/-- `StackTemperatures`, `CoreVoltage`, `PmbusReads`: stack temperatures, the core voltage, and its controllers. -/
def Obligations.PowerPolicy : Prop :=
  Sys2Proof.Says.StackTemperatures ∧ Sys2Proof.Says.CoreVoltage ∧ Sys2Proof.Says.PmbusReads

/-- `SuppliesRise`, `SuppliesFall`: supplies rise in order, and fall. -/
def Obligations.SuppliesSequenced : Prop :=
  Sys2Proof.Says.SuppliesRise ∧ Sys2Proof.Says.SuppliesFall

/-- `RomStarts`, `ClocksLost`: start-up from ROM, and lost clocks. -/
def Obligations.RomAndClocks : Prop :=
  Sys2Proof.Says.RomStarts ∧ Sys2Proof.Says.ClocksLost

/-- `FramesReceived`, `PortStates`: the link layer of a port, and its state. -/
def Obligations.PortsAndFrames : Prop :=
  Sys2Proof.Says.FramesReceived ∧ Sys2Proof.Says.PortStates

/-- `PacketsForwarded`, `FlitsForwarded`, `RouteTableApplied`: the switch, and its route table. -/
def Obligations.SwitchAndTables : Prop :=
  Sys2Proof.Says.PacketsForwarded ∧ Sys2Proof.Says.FlitsForwarded ∧ Sys2Proof.Says.RouteTableApplied

/-- `SchedulerMessages`, `FaultNotes`: scheduler messages and fault notes from other devices. -/
def Obligations.DeviceMessages : Prop :=
  Sys2Proof.Says.SchedulerMessages ∧ Sys2Proof.Says.FaultNotes

/-- `ResetValues`, `InvariantAtReset`: the values that reset leaves, and the invariant at reset. -/
def Obligations.ResetState : Prop :=
  Sys2Proof.Says.ResetValues ∧ Sys2Proof.Says.InvariantAtReset

end Statements
end

