-- ==== Sys2Proof/Laws/Tab.lean ====
section
/-! SUPPORT. The laws of sparse tables: reading what was written, reading elsewhere, and the canonical form. -/

namespace Sys2Proof.Machine

variable {α : Type}

theorem cellsGet_del_same (d : α) (k : Nat) (l : List (Nat × α)) : cellsGet d (cellsDel k l) k = d := by
  induction l with
  | nil => rfl
  | cons c r ih => obtain ⟨i, v⟩ := c; by_cases h : i = k <;> simp [cellsDel, cellsGet, h, ih]

theorem cellsGet_del_other (d : α) {k j : Nat} (h : j ≠ k) (l : List (Nat × α)) :
    cellsGet d (cellsDel k l) j = cellsGet d l j := by
  induction l with
  | nil => rfl
  | cons c r ih =>
    obtain ⟨i, v⟩ := c
    by_cases hi : i = k
    · subst hi; simp [cellsDel, cellsGet, ih, h.symm]
    · simp [cellsDel, cellsGet, hi, ih]

theorem cellsGet_ins_same (d : α) (k : Nat) (v : α) (l : List (Nat × α)) : cellsGet d (cellsIns k v l) k = v := by
  induction l with
  | nil => simp [cellsIns, cellsGet]
  | cons c r ih =>
    obtain ⟨i, w⟩ := c
    unfold cellsIns
    split
    · simp [cellsGet]
    · split
      · simp [cellsGet]
      · rename_i h; simp [cellsGet, h, ih]

theorem cellsGet_ins_other (d : α) {k j : Nat} (h : j ≠ k) (v : α) (l : List (Nat × α)) :
    cellsGet d (cellsIns k v l) j = cellsGet d l j := by
  induction l with
  | nil => simp [cellsIns, cellsGet, h.symm]
  | cons c r ih =>
    obtain ⟨i, w⟩ := c
    unfold cellsIns
    split
    · simp [cellsGet, h.symm]
    · split
      · rename_i hi; subst hi; simp [cellsGet, h.symm]
      · simp [cellsGet, ih]

variable [DecidableEq α]

/-- Reading what was just written. -/
@[simp] theorem Tab.get_set_same (t : Tab α) (d : α) (k : Nat) (v : α) : (t.set d k v).get d k = v := by
  unfold Tab.set Tab.get
  split
  · rename_i h; subst h; exact cellsGet_del_same _ _ _
  · exact cellsGet_ins_same _ _ _ _

/-- A write leaves every other index as it was. -/
theorem Tab.get_set_other (t : Tab α) (d : α) {k j : Nat} (h : j ≠ k) (v : α) : (t.set d k v).get d j = t.get d j := by
  unfold Tab.set Tab.get
  split
  · exact cellsGet_del_other _ h _
  · exact cellsGet_ins_other _ h _ _

/-- Both at once. -/
theorem Tab.get_set (t : Tab α) (d : α) (k j : Nat) (v : α) :
    (t.set d k v).get d j = if j = k then v else t.get d j := by
  by_cases h : j = k
  · subst h; simp
  · simp [h, Tab.get_set_other]

omit [DecidableEq α] in
@[simp] theorem Tab.get_nil (d : α) (k : Nat) : (⟨[]⟩ : Tab α).get d k = d := rfl

omit [DecidableEq α] in
theorem cellsGet_filter (d : α) (lo hi j : Nat) (l : List (Nat × α)) :
    cellsGet d (l.filter fun c => decide (c.1 < lo) || decide (hi ≤ c.1)) j =
      if lo ≤ j ∧ j < hi then d else cellsGet d l j := by
  induction l with
  | nil => simp [cellsGet]
  | cons c r ih =>
    obtain ⟨i, v⟩ := c
    by_cases hk : i < lo ∨ hi ≤ i
    · have : (decide (i < lo) || decide (hi ≤ i)) = true := by simpa using hk
      simp only [List.filter, this, cellsGet, ih]
      by_cases hj : i = j
      · subst hj; rw [if_pos rfl, if_neg (by omega), if_pos rfl]
      · simp [hj]
    · have : (decide (i < lo) || decide (hi ≤ i)) = false := by simpa using hk
      simp only [List.filter, this, cellsGet, ih]
      by_cases hj : i = j
      · subst hj; rw [if_pos (by omega), if_pos (by omega)]
      · simp [hj]

omit [DecidableEq α] in
/-- Clearing a range sets it back to the unlisted value and leaves every other index. -/
theorem Tab.get_clear (t : Tab α) (d : α) (lo hi j : Nat) :
    (t.clear lo hi).get d j = if lo ≤ j ∧ j < hi then d else t.get d j := cellsGet_filter d lo hi j t.cells

/-! ### The canonical form -/

theorem cellsWf_mono {d : α} {a b : Nat} {l : List (Nat × α)} (h : cellsWf d b l = true) (hab : a ≤ b) :
    cellsWf d a l = true := by
  cases l with
  | nil => rfl
  | cons c r => simp only [cellsWf, Bool.and_eq_true, decide_eq_true_eq] at h ⊢; exact ⟨⟨by omega, h.1.2⟩, h.2⟩

theorem cellsWf_del {d : α} (k : Nat) {a : Nat} {l : List (Nat × α)} (h : cellsWf d a l = true) :
    cellsWf d a (cellsDel k l) = true := by
  induction l generalizing a with
  | nil => rfl
  | cons c r ih =>
    obtain ⟨i, v⟩ := c
    simp only [cellsWf, Bool.and_eq_true, decide_eq_true_eq] at h
    by_cases hi : i = k
    · simp only [cellsDel, hi, if_true]; exact ih (cellsWf_mono h.2 (by omega))
    · simp only [cellsDel, hi, if_false, cellsWf, Bool.and_eq_true, decide_eq_true_eq]; exact ⟨h.1, ih h.2⟩

theorem cellsWf_ins {d v : α} (hv : v ≠ d) (k : Nat) {a : Nat} {l : List (Nat × α)} (ha : a ≤ k)
    (h : cellsWf d a l = true) : cellsWf d a (cellsIns k v l) = true := by
  induction l generalizing a with
  | nil => simp [cellsIns, cellsWf, ha, hv]
  | cons c r ih =>
    obtain ⟨i, w⟩ := c
    simp only [cellsWf, Bool.and_eq_true, decide_eq_true_eq] at h
    unfold cellsIns
    split
    · rename_i hk; simp only [cellsWf, Bool.and_eq_true, decide_eq_true_eq]; exact ⟨⟨ha, hv⟩, ⟨by omega, h.1.2⟩, h.2⟩
    · split
      · rename_i _ hi; subst hi; simp only [cellsWf, Bool.and_eq_true, decide_eq_true_eq]; exact ⟨⟨h.1.1, hv⟩, h.2⟩
      · simp only [cellsWf, Bool.and_eq_true, decide_eq_true_eq]; exact ⟨h.1, ih (by omega) h.2⟩

theorem cellsWf_filter {d : α} (p : Nat × α → Bool) {a : Nat} {l : List (Nat × α)} (h : cellsWf d a l = true) :
    cellsWf d a (l.filter p) = true := by
  induction l generalizing a with
  | nil => rfl
  | cons c r ih =>
    obtain ⟨i, v⟩ := c
    simp only [cellsWf, Bool.and_eq_true, decide_eq_true_eq] at h
    by_cases hp : p (i, v)
    · simp only [List.filter, hp, cellsWf, Bool.and_eq_true, decide_eq_true_eq]; exact ⟨h.1, ih h.2⟩
    · simp only [List.filter, hp]; exact ih (cellsWf_mono h.2 (by omega))

/-- A write keeps the canonical form. -/
theorem Tab.wf_set {t : Tab α} {d : α} (k : Nat) (v : α) (h : t.wf d = true) : (t.set d k v).wf d = true := by
  unfold Tab.set
  split
  · exact cellsWf_del k h
  · rename_i hv; exact cellsWf_ins hv k (Nat.zero_le k) h

/-- Clearing a range keeps the canonical form. -/
theorem Tab.wf_clear {t : Tab α} {d : α} (lo hi : Nat) (h : t.wf d = true) : (t.clear lo hi).wf d = true :=
  cellsWf_filter _ h

theorem cellsGet_eq_of_lt {d : α} {a k : Nat} {l : List (Nat × α)} (h : cellsWf d a l = true) (hk : k < a) :
    cellsGet d l k = d := by
  induction l generalizing a with
  | nil => rfl
  | cons c r ih =>
    obtain ⟨i, v⟩ := c
    simp only [cellsWf, Bool.and_eq_true, decide_eq_true_eq] at h
    have : i ≠ k := by omega
    simp only [cellsGet, this, if_false]; exact ih h.2 (by omega)

theorem cells_ext {d : α} {a : Nat} {l m : List (Nat × α)} (hl : cellsWf d a l = true) (hm : cellsWf d a m = true)
    (h : ∀ k, cellsGet d l k = cellsGet d m k) : l = m := by
  induction l generalizing a m with
  | nil =>
    cases m with
    | nil => rfl
    | cons c r =>
      obtain ⟨i, v⟩ := c
      simp only [cellsWf, Bool.and_eq_true, decide_eq_true_eq] at hm
      have := h i; simp [cellsGet] at this; exact absurd this.symm hm.1.2
  | cons c r ih =>
    obtain ⟨i, v⟩ := c
    have hl' := hl
    simp only [cellsWf, Bool.and_eq_true, decide_eq_true_eq] at hl'
    cases m with
    | nil => have := h i; simp [cellsGet] at this; exact absurd this hl'.1.2
    | cons c' r' =>
      obtain ⟨j, w⟩ := c'
      have hm' := hm
      simp only [cellsWf, Bool.and_eq_true, decide_eq_true_eq] at hm'
      have hij : i = j := by
        rcases Nat.lt_trichotomy i j with hlt | he | hgt
        · have := h i
          have hji : j ≠ i := by omega
          simp only [cellsGet, if_true, hji, if_false] at this
          rw [cellsGet_eq_of_lt hm'.2 (by omega)] at this; exact absurd this hl'.1.2
        · exact he
        · have := h j
          have hij : i ≠ j := by omega
          simp only [cellsGet, if_true, hij, if_false] at this
          rw [cellsGet_eq_of_lt hl'.2 (by omega)] at this; exact absurd this.symm hm'.1.2
      subst hij
      have hv := h i
      simp only [cellsGet, if_true] at hv
      subst hv
      congr 1
      apply ih hl'.2 hm'.2
      intro k
      by_cases hk : i = k
      · subst hk; rw [cellsGet_eq_of_lt hl'.2 (by omega), cellsGet_eq_of_lt hm'.2 (by omega)]
      · have := h k; simpa only [cellsGet, hk, if_false] using this

/-- Two canonical tables that read alike are the same data. -/
theorem Tab.ext_get {t u : Tab α} {d : α} (ht : t.wf d = true) (hu : u.wf d = true)
    (h : ∀ k, t.get d k = u.get d k) : t = u := by
  cases t; cases u; congr 1; exact cells_ext ht hu h

end Sys2Proof.Machine
end

