-- ==== Sys2Proof/Laws/State.lean ====
section
/-! SUPPORT. One lemma per field of State per named update, true by rfl, so that no proof unfolds a record update; and
what a read of a core, a job, a ring, a port, a channel or a mailbox gives after an update. -/

namespace Sys2Proof.Machine

variable (s t : State)

@[simp] theorem State.wr_pending (a : Nat) (v : Byte) : (s.wr a v).pending = s.pending := rfl
@[simp] theorem State.wr_mem (a : Nat) (v : Byte) : (s.wr a v).mem = s.mem := rfl
@[simp] theorem State.wr_wlog (a : Nat) (v : Byte) : (s.wr a v).wlog = .byte a v :: s.wlog := rfl
@[simp] theorem State.wr_raised (a : Nat) (v : Byte) : (s.wr a v).raised = s.raised := rfl
@[simp] theorem State.wr_free (a : Nat) (v : Byte) : (s.wr a v).free = s.free := rfl
@[simp] theorem State.wr_replySt (a : Nat) (v : Byte) : (s.wr a v).replySt = s.replySt := rfl
@[simp] theorem State.wr_reply (a : Nat) (v : Byte) : (s.wr a v).reply = s.reply := rfl
@[simp] theorem State.wr_cores (a : Nat) (v : Byte) : (s.wr a v).cores = s.cores := rfl
@[simp] theorem State.wr_jobs (a : Nat) (v : Byte) : (s.wr a v).jobs = s.jobs := rfl
@[simp] theorem State.wr_jobCount (a : Nat) (v : Byte) : (s.wr a v).jobCount = s.jobCount := rfl
@[simp] theorem State.wr_ms (a : Nat) (v : Byte) : (s.wr a v).ms = s.ms := rfl
@[simp] theorem State.wr_chans (a : Nat) (v : Byte) : (s.wr a v).chans = s.chans := rfl
@[simp] theorem State.wr_fab (a : Nat) (v : Byte) : (s.wr a v).fab = s.fab := rfl
@[simp] theorem State.wr_hif (a : Nat) (v : Byte) : (s.wr a v).hif = s.hif := rfl
@[simp] theorem State.wr_mbx (a : Nat) (v : Byte) : (s.wr a v).mbx = s.mbx := rfl
@[simp] theorem State.wr_lint (a : Nat) (v : Byte) : (s.wr a v).lint = s.lint := rfl
@[simp] theorem State.wr_mgt (a : Nat) (v : Byte) : (s.wr a v).mgt = s.mgt := rfl
@[simp] theorem State.wr_cfg (a : Nat) (v : Byte) : (s.wr a v).cfg = s.cfg := rfl
@[simp] theorem State.wr_ft (a : Nat) (v : Byte) : (s.wr a v).ft = s.ft := rfl
@[simp] theorem State.wr_pins (a : Nat) (v : Byte) : (s.wr a v).pins = s.pins := rfl
@[simp] theorem State.wr_seq (a : Nat) (v : Byte) : (s.wr a v).seq = s.seq := rfl
@[simp] theorem State.wr_jtag (a : Nat) (v : Byte) : (s.wr a v).jtag = s.jtag := rfl

@[simp] theorem State.zeroRange_pending (lo hi : Nat) : (s.zeroRange lo hi).pending = s.pending := rfl
@[simp] theorem State.zeroRange_mem (lo hi : Nat) : (s.zeroRange lo hi).mem = s.mem := rfl
@[simp] theorem State.zeroRange_wlog (lo hi : Nat) : (s.zeroRange lo hi).wlog = .zero lo hi :: s.wlog := rfl
@[simp] theorem State.zeroRange_raised (lo hi : Nat) : (s.zeroRange lo hi).raised = s.raised := rfl
@[simp] theorem State.zeroRange_free (lo hi : Nat) : (s.zeroRange lo hi).free = s.free := rfl
@[simp] theorem State.zeroRange_replySt (lo hi : Nat) : (s.zeroRange lo hi).replySt = s.replySt := rfl
@[simp] theorem State.zeroRange_reply (lo hi : Nat) : (s.zeroRange lo hi).reply = s.reply := rfl
@[simp] theorem State.zeroRange_cores (lo hi : Nat) : (s.zeroRange lo hi).cores = s.cores := rfl
@[simp] theorem State.zeroRange_jobs (lo hi : Nat) : (s.zeroRange lo hi).jobs = s.jobs := rfl
@[simp] theorem State.zeroRange_jobCount (lo hi : Nat) : (s.zeroRange lo hi).jobCount = s.jobCount := rfl
@[simp] theorem State.zeroRange_ms (lo hi : Nat) : (s.zeroRange lo hi).ms = s.ms := rfl
@[simp] theorem State.zeroRange_chans (lo hi : Nat) : (s.zeroRange lo hi).chans = s.chans := rfl
@[simp] theorem State.zeroRange_fab (lo hi : Nat) : (s.zeroRange lo hi).fab = s.fab := rfl
@[simp] theorem State.zeroRange_hif (lo hi : Nat) : (s.zeroRange lo hi).hif = s.hif := rfl
@[simp] theorem State.zeroRange_mbx (lo hi : Nat) : (s.zeroRange lo hi).mbx = s.mbx := rfl
@[simp] theorem State.zeroRange_lint (lo hi : Nat) : (s.zeroRange lo hi).lint = s.lint := rfl
@[simp] theorem State.zeroRange_mgt (lo hi : Nat) : (s.zeroRange lo hi).mgt = s.mgt := rfl
@[simp] theorem State.zeroRange_cfg (lo hi : Nat) : (s.zeroRange lo hi).cfg = s.cfg := rfl
@[simp] theorem State.zeroRange_ft (lo hi : Nat) : (s.zeroRange lo hi).ft = s.ft := rfl
@[simp] theorem State.zeroRange_pins (lo hi : Nat) : (s.zeroRange lo hi).pins = s.pins := rfl
@[simp] theorem State.zeroRange_seq (lo hi : Nat) : (s.zeroRange lo hi).seq = s.seq := rfl
@[simp] theorem State.zeroRange_jtag (lo hi : Nat) : (s.zeroRange lo hi).jtag = s.jtag := rfl

@[simp] theorem State.setCore_pending (r : CoreRef) (c : Core) : (s.setCore r c).pending = s.pending := rfl
@[simp] theorem State.setCore_mem (r : CoreRef) (c : Core) : (s.setCore r c).mem = s.mem := rfl
@[simp] theorem State.setCore_wlog (r : CoreRef) (c : Core) : (s.setCore r c).wlog = s.wlog := rfl
@[simp] theorem State.setCore_raised (r : CoreRef) (c : Core) : (s.setCore r c).raised = s.raised := rfl
@[simp] theorem State.setCore_free (r : CoreRef) (c : Core) : (s.setCore r c).free = s.free := rfl
@[simp] theorem State.setCore_replySt (r : CoreRef) (c : Core) : (s.setCore r c).replySt = s.replySt := rfl
@[simp] theorem State.setCore_reply (r : CoreRef) (c : Core) : (s.setCore r c).reply = s.reply := rfl
@[simp] theorem State.setCore_cores (r : CoreRef) (c : Core) : (s.setCore r c).cores = s.cores.set {} r.toNat c := rfl
@[simp] theorem State.setCore_jobs (r : CoreRef) (c : Core) : (s.setCore r c).jobs = s.jobs := rfl
@[simp] theorem State.setCore_jobCount (r : CoreRef) (c : Core) : (s.setCore r c).jobCount = s.jobCount := rfl
@[simp] theorem State.setCore_ms (r : CoreRef) (c : Core) : (s.setCore r c).ms = s.ms := rfl
@[simp] theorem State.setCore_chans (r : CoreRef) (c : Core) : (s.setCore r c).chans = s.chans := rfl
@[simp] theorem State.setCore_fab (r : CoreRef) (c : Core) : (s.setCore r c).fab = s.fab := rfl
@[simp] theorem State.setCore_hif (r : CoreRef) (c : Core) : (s.setCore r c).hif = s.hif := rfl
@[simp] theorem State.setCore_mbx (r : CoreRef) (c : Core) : (s.setCore r c).mbx = s.mbx := rfl
@[simp] theorem State.setCore_lint (r : CoreRef) (c : Core) : (s.setCore r c).lint = s.lint := rfl
@[simp] theorem State.setCore_mgt (r : CoreRef) (c : Core) : (s.setCore r c).mgt = s.mgt := rfl
@[simp] theorem State.setCore_cfg (r : CoreRef) (c : Core) : (s.setCore r c).cfg = s.cfg := rfl
@[simp] theorem State.setCore_ft (r : CoreRef) (c : Core) : (s.setCore r c).ft = s.ft := rfl
@[simp] theorem State.setCore_pins (r : CoreRef) (c : Core) : (s.setCore r c).pins = s.pins := rfl
@[simp] theorem State.setCore_seq (r : CoreRef) (c : Core) : (s.setCore r c).seq = s.seq := rfl
@[simp] theorem State.setCore_jtag (r : CoreRef) (c : Core) : (s.setCore r c).jtag = s.jtag := rfl

@[simp] theorem State.setJob_pending (n : Nat) (j : Option Job) : (s.setJob n j).pending = s.pending := rfl
@[simp] theorem State.setJob_mem (n : Nat) (j : Option Job) : (s.setJob n j).mem = s.mem := rfl
@[simp] theorem State.setJob_wlog (n : Nat) (j : Option Job) : (s.setJob n j).wlog = s.wlog := rfl
@[simp] theorem State.setJob_raised (n : Nat) (j : Option Job) : (s.setJob n j).raised = s.raised := rfl
@[simp] theorem State.setJob_free (n : Nat) (j : Option Job) : (s.setJob n j).free = s.free := rfl
@[simp] theorem State.setJob_replySt (n : Nat) (j : Option Job) : (s.setJob n j).replySt = s.replySt := rfl
@[simp] theorem State.setJob_reply (n : Nat) (j : Option Job) : (s.setJob n j).reply = s.reply := rfl
@[simp] theorem State.setJob_cores (n : Nat) (j : Option Job) : (s.setJob n j).cores = s.cores := rfl
@[simp] theorem State.setJob_jobs (n : Nat) (j : Option Job) : (s.setJob n j).jobs = s.jobs.set none n j := rfl
@[simp] theorem State.setJob_jobCount (n : Nat) (j : Option Job) : (s.setJob n j).jobCount = s.jobCount := rfl
@[simp] theorem State.setJob_ms (n : Nat) (j : Option Job) : (s.setJob n j).ms = s.ms := rfl
@[simp] theorem State.setJob_chans (n : Nat) (j : Option Job) : (s.setJob n j).chans = s.chans := rfl
@[simp] theorem State.setJob_fab (n : Nat) (j : Option Job) : (s.setJob n j).fab = s.fab := rfl
@[simp] theorem State.setJob_hif (n : Nat) (j : Option Job) : (s.setJob n j).hif = s.hif := rfl
@[simp] theorem State.setJob_mbx (n : Nat) (j : Option Job) : (s.setJob n j).mbx = s.mbx := rfl
@[simp] theorem State.setJob_lint (n : Nat) (j : Option Job) : (s.setJob n j).lint = s.lint := rfl
@[simp] theorem State.setJob_mgt (n : Nat) (j : Option Job) : (s.setJob n j).mgt = s.mgt := rfl
@[simp] theorem State.setJob_cfg (n : Nat) (j : Option Job) : (s.setJob n j).cfg = s.cfg := rfl
@[simp] theorem State.setJob_ft (n : Nat) (j : Option Job) : (s.setJob n j).ft = s.ft := rfl
@[simp] theorem State.setJob_pins (n : Nat) (j : Option Job) : (s.setJob n j).pins = s.pins := rfl
@[simp] theorem State.setJob_seq (n : Nat) (j : Option Job) : (s.setJob n j).seq = s.seq := rfl
@[simp] theorem State.setJob_jtag (n : Nat) (j : Option Job) : (s.setJob n j).jtag = s.jtag := rfl

@[simp] theorem State.updChan_pending (n : Nat) (f : Chan → Chan) : (s.updChan n f).pending = s.pending := rfl
@[simp] theorem State.updChan_mem (n : Nat) (f : Chan → Chan) : (s.updChan n f).mem = s.mem := rfl
@[simp] theorem State.updChan_wlog (n : Nat) (f : Chan → Chan) : (s.updChan n f).wlog = s.wlog := rfl
@[simp] theorem State.updChan_raised (n : Nat) (f : Chan → Chan) : (s.updChan n f).raised = s.raised := rfl
@[simp] theorem State.updChan_free (n : Nat) (f : Chan → Chan) : (s.updChan n f).free = s.free := rfl
@[simp] theorem State.updChan_replySt (n : Nat) (f : Chan → Chan) : (s.updChan n f).replySt = s.replySt := rfl
@[simp] theorem State.updChan_reply (n : Nat) (f : Chan → Chan) : (s.updChan n f).reply = s.reply := rfl
@[simp] theorem State.updChan_cores (n : Nat) (f : Chan → Chan) : (s.updChan n f).cores = s.cores := rfl
@[simp] theorem State.updChan_jobs (n : Nat) (f : Chan → Chan) : (s.updChan n f).jobs = s.jobs := rfl
@[simp] theorem State.updChan_jobCount (n : Nat) (f : Chan → Chan) : (s.updChan n f).jobCount = s.jobCount := rfl
@[simp] theorem State.updChan_ms (n : Nat) (f : Chan → Chan) : (s.updChan n f).ms = s.ms := rfl
@[simp] theorem State.updChan_chans (n : Nat) (f : Chan → Chan) : (s.updChan n f).chans = s.chans.upd {} n f := rfl
@[simp] theorem State.updChan_fab (n : Nat) (f : Chan → Chan) : (s.updChan n f).fab = s.fab := rfl
@[simp] theorem State.updChan_hif (n : Nat) (f : Chan → Chan) : (s.updChan n f).hif = s.hif := rfl
@[simp] theorem State.updChan_mbx (n : Nat) (f : Chan → Chan) : (s.updChan n f).mbx = s.mbx := rfl
@[simp] theorem State.updChan_lint (n : Nat) (f : Chan → Chan) : (s.updChan n f).lint = s.lint := rfl
@[simp] theorem State.updChan_mgt (n : Nat) (f : Chan → Chan) : (s.updChan n f).mgt = s.mgt := rfl
@[simp] theorem State.updChan_cfg (n : Nat) (f : Chan → Chan) : (s.updChan n f).cfg = s.cfg := rfl
@[simp] theorem State.updChan_ft (n : Nat) (f : Chan → Chan) : (s.updChan n f).ft = s.ft := rfl
@[simp] theorem State.updChan_pins (n : Nat) (f : Chan → Chan) : (s.updChan n f).pins = s.pins := rfl
@[simp] theorem State.updChan_seq (n : Nat) (f : Chan → Chan) : (s.updChan n f).seq = s.seq := rfl
@[simp] theorem State.updChan_jtag (n : Nat) (f : Chan → Chan) : (s.updChan n f).jtag = s.jtag := rfl

@[simp] theorem State.setRing_pending (k : Nat) (r : Ring) : (s.setRing k r).pending = s.pending := rfl
@[simp] theorem State.setRing_mem (k : Nat) (r : Ring) : (s.setRing k r).mem = s.mem := rfl
@[simp] theorem State.setRing_wlog (k : Nat) (r : Ring) : (s.setRing k r).wlog = s.wlog := rfl
@[simp] theorem State.setRing_raised (k : Nat) (r : Ring) : (s.setRing k r).raised = s.raised := rfl
@[simp] theorem State.setRing_free (k : Nat) (r : Ring) : (s.setRing k r).free = s.free := rfl
@[simp] theorem State.setRing_replySt (k : Nat) (r : Ring) : (s.setRing k r).replySt = s.replySt := rfl
@[simp] theorem State.setRing_reply (k : Nat) (r : Ring) : (s.setRing k r).reply = s.reply := rfl
@[simp] theorem State.setRing_cores (k : Nat) (r : Ring) : (s.setRing k r).cores = s.cores := rfl
@[simp] theorem State.setRing_jobs (k : Nat) (r : Ring) : (s.setRing k r).jobs = s.jobs := rfl
@[simp] theorem State.setRing_jobCount (k : Nat) (r : Ring) : (s.setRing k r).jobCount = s.jobCount := rfl
@[simp] theorem State.setRing_ms (k : Nat) (r : Ring) : (s.setRing k r).ms = s.ms := rfl
@[simp] theorem State.setRing_chans (k : Nat) (r : Ring) : (s.setRing k r).chans = s.chans := rfl
@[simp] theorem State.setRing_fab (k : Nat) (r : Ring) : (s.setRing k r).fab = s.fab := rfl
@[simp] theorem State.setRing_hif (k : Nat) (r : Ring) : (s.setRing k r).hif = { s.hif with rings := s.hif.rings.set {} k r } := rfl
@[simp] theorem State.setRing_mbx (k : Nat) (r : Ring) : (s.setRing k r).mbx = s.mbx := rfl
@[simp] theorem State.setRing_lint (k : Nat) (r : Ring) : (s.setRing k r).lint = s.lint := rfl
@[simp] theorem State.setRing_mgt (k : Nat) (r : Ring) : (s.setRing k r).mgt = s.mgt := rfl
@[simp] theorem State.setRing_cfg (k : Nat) (r : Ring) : (s.setRing k r).cfg = s.cfg := rfl
@[simp] theorem State.setRing_ft (k : Nat) (r : Ring) : (s.setRing k r).ft = s.ft := rfl
@[simp] theorem State.setRing_pins (k : Nat) (r : Ring) : (s.setRing k r).pins = s.pins := rfl
@[simp] theorem State.setRing_seq (k : Nat) (r : Ring) : (s.setRing k r).seq = s.seq := rfl
@[simp] theorem State.setRing_jtag (k : Nat) (r : Ring) : (s.setRing k r).jtag = s.jtag := rfl

@[simp] theorem State.setPort_pending (n : Nat) (p : Port) : (s.setPort n p).pending = s.pending := rfl
@[simp] theorem State.setPort_mem (n : Nat) (p : Port) : (s.setPort n p).mem = s.mem := rfl
@[simp] theorem State.setPort_wlog (n : Nat) (p : Port) : (s.setPort n p).wlog = s.wlog := rfl
@[simp] theorem State.setPort_raised (n : Nat) (p : Port) : (s.setPort n p).raised = s.raised := rfl
@[simp] theorem State.setPort_free (n : Nat) (p : Port) : (s.setPort n p).free = s.free := rfl
@[simp] theorem State.setPort_replySt (n : Nat) (p : Port) : (s.setPort n p).replySt = s.replySt := rfl
@[simp] theorem State.setPort_reply (n : Nat) (p : Port) : (s.setPort n p).reply = s.reply := rfl
@[simp] theorem State.setPort_cores (n : Nat) (p : Port) : (s.setPort n p).cores = s.cores := rfl
@[simp] theorem State.setPort_jobs (n : Nat) (p : Port) : (s.setPort n p).jobs = s.jobs := rfl
@[simp] theorem State.setPort_jobCount (n : Nat) (p : Port) : (s.setPort n p).jobCount = s.jobCount := rfl
@[simp] theorem State.setPort_ms (n : Nat) (p : Port) : (s.setPort n p).ms = s.ms := rfl
@[simp] theorem State.setPort_chans (n : Nat) (p : Port) : (s.setPort n p).chans = s.chans := rfl
@[simp] theorem State.setPort_fab (n : Nat) (p : Port) : (s.setPort n p).fab = { s.fab with ports := s.fab.ports.set {} n p } := rfl
@[simp] theorem State.setPort_hif (n : Nat) (p : Port) : (s.setPort n p).hif = s.hif := rfl
@[simp] theorem State.setPort_mbx (n : Nat) (p : Port) : (s.setPort n p).mbx = s.mbx := rfl
@[simp] theorem State.setPort_lint (n : Nat) (p : Port) : (s.setPort n p).lint = s.lint := rfl
@[simp] theorem State.setPort_mgt (n : Nat) (p : Port) : (s.setPort n p).mgt = s.mgt := rfl
@[simp] theorem State.setPort_cfg (n : Nat) (p : Port) : (s.setPort n p).cfg = s.cfg := rfl
@[simp] theorem State.setPort_ft (n : Nat) (p : Port) : (s.setPort n p).ft = s.ft := rfl
@[simp] theorem State.setPort_pins (n : Nat) (p : Port) : (s.setPort n p).pins = s.pins := rfl
@[simp] theorem State.setPort_seq (n : Nat) (p : Port) : (s.setPort n p).seq = s.seq := rfl
@[simp] theorem State.setPort_jtag (n : Nat) (p : Port) : (s.setPort n p).jtag = s.jtag := rfl

@[simp] theorem State.setMbox_pending (n : Nat) (c : Mbox) : (s.setMbox n c).pending = s.pending := rfl
@[simp] theorem State.setMbox_mem (n : Nat) (c : Mbox) : (s.setMbox n c).mem = s.mem := rfl
@[simp] theorem State.setMbox_wlog (n : Nat) (c : Mbox) : (s.setMbox n c).wlog = s.wlog := rfl
@[simp] theorem State.setMbox_raised (n : Nat) (c : Mbox) : (s.setMbox n c).raised = s.raised := rfl
@[simp] theorem State.setMbox_free (n : Nat) (c : Mbox) : (s.setMbox n c).free = s.free := rfl
@[simp] theorem State.setMbox_replySt (n : Nat) (c : Mbox) : (s.setMbox n c).replySt = s.replySt := rfl
@[simp] theorem State.setMbox_reply (n : Nat) (c : Mbox) : (s.setMbox n c).reply = s.reply := rfl
@[simp] theorem State.setMbox_cores (n : Nat) (c : Mbox) : (s.setMbox n c).cores = s.cores := rfl
@[simp] theorem State.setMbox_jobs (n : Nat) (c : Mbox) : (s.setMbox n c).jobs = s.jobs := rfl
@[simp] theorem State.setMbox_jobCount (n : Nat) (c : Mbox) : (s.setMbox n c).jobCount = s.jobCount := rfl
@[simp] theorem State.setMbox_ms (n : Nat) (c : Mbox) : (s.setMbox n c).ms = s.ms := rfl
@[simp] theorem State.setMbox_chans (n : Nat) (c : Mbox) : (s.setMbox n c).chans = s.chans := rfl
@[simp] theorem State.setMbox_fab (n : Nat) (c : Mbox) : (s.setMbox n c).fab = s.fab := rfl
@[simp] theorem State.setMbox_hif (n : Nat) (c : Mbox) : (s.setMbox n c).hif = s.hif := rfl
@[simp] theorem State.setMbox_mbx (n : Nat) (c : Mbox) : (s.setMbox n c).mbx = { s.mbx with ch := s.mbx.ch.set {} n c } := rfl
@[simp] theorem State.setMbox_lint (n : Nat) (c : Mbox) : (s.setMbox n c).lint = s.lint := rfl
@[simp] theorem State.setMbox_mgt (n : Nat) (c : Mbox) : (s.setMbox n c).mgt = s.mgt := rfl
@[simp] theorem State.setMbox_cfg (n : Nat) (c : Mbox) : (s.setMbox n c).cfg = s.cfg := rfl
@[simp] theorem State.setMbox_ft (n : Nat) (c : Mbox) : (s.setMbox n c).ft = s.ft := rfl
@[simp] theorem State.setMbox_pins (n : Nat) (c : Mbox) : (s.setMbox n c).pins = s.pins := rfl
@[simp] theorem State.setMbox_seq (n : Nat) (c : Mbox) : (s.setMbox n c).seq = s.seq := rfl
@[simp] theorem State.setMbox_jtag (n : Nat) (c : Mbox) : (s.setMbox n c).jtag = s.jtag := rfl

@[simp] theorem State.answer_pending (st : ReplyStatus) (bs : List Byte) : (s.answer st bs).pending = s.pending := rfl
@[simp] theorem State.answer_mem (st : ReplyStatus) (bs : List Byte) : (s.answer st bs).mem = s.mem := rfl
@[simp] theorem State.answer_wlog (st : ReplyStatus) (bs : List Byte) : (s.answer st bs).wlog = s.wlog := rfl
@[simp] theorem State.answer_raised (st : ReplyStatus) (bs : List Byte) : (s.answer st bs).raised = s.raised := rfl
@[simp] theorem State.answer_free (st : ReplyStatus) (bs : List Byte) : (s.answer st bs).free = s.free := rfl
@[simp] theorem State.answer_replySt (st : ReplyStatus) (bs : List Byte) : (s.answer st bs).replySt = st := rfl
@[simp] theorem State.answer_reply (st : ReplyStatus) (bs : List Byte) : (s.answer st bs).reply = bs := rfl
@[simp] theorem State.answer_cores (st : ReplyStatus) (bs : List Byte) : (s.answer st bs).cores = s.cores := rfl
@[simp] theorem State.answer_jobs (st : ReplyStatus) (bs : List Byte) : (s.answer st bs).jobs = s.jobs := rfl
@[simp] theorem State.answer_jobCount (st : ReplyStatus) (bs : List Byte) : (s.answer st bs).jobCount = s.jobCount := rfl
@[simp] theorem State.answer_ms (st : ReplyStatus) (bs : List Byte) : (s.answer st bs).ms = s.ms := rfl
@[simp] theorem State.answer_chans (st : ReplyStatus) (bs : List Byte) : (s.answer st bs).chans = s.chans := rfl
@[simp] theorem State.answer_fab (st : ReplyStatus) (bs : List Byte) : (s.answer st bs).fab = s.fab := rfl
@[simp] theorem State.answer_hif (st : ReplyStatus) (bs : List Byte) :
    (s.answer st bs).hif = { s.hif with aer := s.hif.aer ||| aerBit st } := rfl
@[simp] theorem State.answer_mbx (st : ReplyStatus) (bs : List Byte) : (s.answer st bs).mbx = s.mbx := rfl
@[simp] theorem State.answer_lint (st : ReplyStatus) (bs : List Byte) : (s.answer st bs).lint = s.lint := rfl
@[simp] theorem State.answer_mgt (st : ReplyStatus) (bs : List Byte) : (s.answer st bs).mgt = s.mgt := rfl
@[simp] theorem State.answer_cfg (st : ReplyStatus) (bs : List Byte) : (s.answer st bs).cfg = s.cfg := rfl
@[simp] theorem State.answer_ft (st : ReplyStatus) (bs : List Byte) : (s.answer st bs).ft = s.ft := rfl
@[simp] theorem State.answer_pins (st : ReplyStatus) (bs : List Byte) : (s.answer st bs).pins = s.pins := rfl
@[simp] theorem State.answer_seq (st : ReplyStatus) (bs : List Byte) : (s.answer st bs).seq = s.seq := rfl
@[simp] theorem State.answer_jtag (st : ReplyStatus) (bs : List Byte) : (s.answer st bs).jtag = s.jtag := rfl

@[simp] theorem State.inject_pending (p : Packet) : (s.inject p).pending = s.pending := rfl
@[simp] theorem State.inject_mem (p : Packet) : (s.inject p).mem = s.mem := rfl
@[simp] theorem State.inject_wlog (p : Packet) : (s.inject p).wlog = s.wlog := rfl
@[simp] theorem State.inject_raised (p : Packet) : (s.inject p).raised = s.raised := rfl
@[simp] theorem State.inject_free (p : Packet) : (s.inject p).free = s.free := rfl
@[simp] theorem State.inject_replySt (p : Packet) : (s.inject p).replySt = s.replySt := rfl
@[simp] theorem State.inject_reply (p : Packet) : (s.inject p).reply = s.reply := rfl
@[simp] theorem State.inject_cores (p : Packet) : (s.inject p).cores = s.cores := rfl
@[simp] theorem State.inject_jobs (p : Packet) : (s.inject p).jobs = s.jobs := rfl
@[simp] theorem State.inject_jobCount (p : Packet) : (s.inject p).jobCount = s.jobCount := rfl
@[simp] theorem State.inject_ms (p : Packet) : (s.inject p).ms = s.ms := rfl
@[simp] theorem State.inject_chans (p : Packet) : (s.inject p).chans = s.chans := rfl
@[simp] theorem State.inject_fab (p : Packet) : (s.inject p).fab = { s.fab with inject := s.fab.inject ++ [p] } := rfl
@[simp] theorem State.inject_hif (p : Packet) : (s.inject p).hif = s.hif := rfl
@[simp] theorem State.inject_mbx (p : Packet) : (s.inject p).mbx = s.mbx := rfl
@[simp] theorem State.inject_lint (p : Packet) : (s.inject p).lint = s.lint := rfl
@[simp] theorem State.inject_mgt (p : Packet) : (s.inject p).mgt = s.mgt := rfl
@[simp] theorem State.inject_cfg (p : Packet) : (s.inject p).cfg = s.cfg := rfl
@[simp] theorem State.inject_ft (p : Packet) : (s.inject p).ft = s.ft := rfl
@[simp] theorem State.inject_pins (p : Packet) : (s.inject p).pins = s.pins := rfl
@[simp] theorem State.inject_seq (p : Packet) : (s.inject p).seq = s.seq := rfl
@[simp] theorem State.inject_jtag (p : Packet) : (s.inject p).jtag = s.jtag := rfl

@[simp] theorem State.fresh_pending : s.fresh.2.pending = s.pending := rfl
@[simp] theorem State.fresh_mem : s.fresh.2.mem = s.mem := rfl
@[simp] theorem State.fresh_wlog : s.fresh.2.wlog = s.wlog := rfl
@[simp] theorem State.fresh_raised : s.fresh.2.raised = s.raised := rfl
@[simp] theorem State.fresh_free : s.fresh.2.free = s.free + 1 := rfl
@[simp] theorem State.fresh_replySt : s.fresh.2.replySt = s.replySt := rfl
@[simp] theorem State.fresh_reply : s.fresh.2.reply = s.reply := rfl
@[simp] theorem State.fresh_cores : s.fresh.2.cores = s.cores := rfl
@[simp] theorem State.fresh_jobs : s.fresh.2.jobs = s.jobs := rfl
@[simp] theorem State.fresh_jobCount : s.fresh.2.jobCount = s.jobCount := rfl
@[simp] theorem State.fresh_ms : s.fresh.2.ms = s.ms := rfl
@[simp] theorem State.fresh_chans : s.fresh.2.chans = s.chans := rfl
@[simp] theorem State.fresh_fab : s.fresh.2.fab = s.fab := rfl
@[simp] theorem State.fresh_hif : s.fresh.2.hif = s.hif := rfl
@[simp] theorem State.fresh_mbx : s.fresh.2.mbx = s.mbx := rfl
@[simp] theorem State.fresh_lint : s.fresh.2.lint = s.lint := rfl
@[simp] theorem State.fresh_mgt : s.fresh.2.mgt = s.mgt := rfl
@[simp] theorem State.fresh_cfg : s.fresh.2.cfg = s.cfg := rfl
@[simp] theorem State.fresh_ft : s.fresh.2.ft = s.ft := rfl
@[simp] theorem State.fresh_pins : s.fresh.2.pins = s.pins := rfl
@[simp] theorem State.fresh_seq : s.fresh.2.seq = s.seq := rfl
@[simp] theorem State.fresh_jtag : s.fresh.2.jtag = s.jtag := rfl

@[simp] theorem commit_pending : (commit s t).pending = s.pending := rfl
@[simp] theorem commit_mem : (commit s t).mem = writeAll t.wlog.reverse s.mem := rfl
@[simp] theorem commit_wlog : (commit s t).wlog = [] := rfl
@[simp] theorem commit_raised : (commit s t).raised = [] := rfl
@[simp] theorem commit_free : (commit s t).free = t.free := rfl
@[simp] theorem commit_replySt : (commit s t).replySt = t.replySt := rfl
@[simp] theorem commit_reply : (commit s t).reply = t.reply := rfl
@[simp] theorem commit_cores : (commit s t).cores = t.cores := rfl
@[simp] theorem commit_jobs : (commit s t).jobs = t.jobs := rfl
@[simp] theorem commit_jobCount : (commit s t).jobCount = t.jobCount := rfl
@[simp] theorem commit_ms : (commit s t).ms = t.ms := rfl
@[simp] theorem commit_chans : (commit s t).chans = t.chans := rfl
@[simp] theorem commit_fab : (commit s t).fab = t.fab := rfl
@[simp] theorem commit_hif : (commit s t).hif = t.hif := rfl
@[simp] theorem commit_mbx : (commit s t).mbx = t.mbx := rfl
@[simp] theorem commit_lint : (commit s t).lint = t.lint := rfl
@[simp] theorem commit_mgt : (commit s t).mgt = t.mgt := rfl
@[simp] theorem commit_cfg : (commit s t).cfg = t.cfg := rfl
@[simp] theorem commit_ft : (commit s t).ft = t.ft := rfl
@[simp] theorem commit_pins : (commit s t).pins = t.pins := rfl
@[simp] theorem commit_seq : (commit s t).seq = t.seq := rfl
@[simp] theorem commit_jtag : (commit s t).jtag = t.jtag := rfl

/-! ### Reads after updates -/

@[simp] theorem State.core_setCore (r : CoreRef) (c : Core) : (s.setCore r c).core r = c := by simp [State.core]

theorem State.core_setCore_other {r q : CoreRef} (h : q ≠ r) (c : Core) : (s.setCore r c).core q = s.core q := by
  have : q.toNat ≠ r.toNat := fun e => h (BitVec.eq_of_toNat_eq e)
  simp [State.core, Tab.get_set_other _ _ this]

@[simp] theorem State.core_updCore (r : CoreRef) (f : Core → Core) : (s.updCore r f).core r = f (s.core r) := by
  simp [State.updCore]

theorem State.core_updCore_other {r q : CoreRef} (h : q ≠ r) (f : Core → Core) : (s.updCore r f).core q = s.core q := by
  simp [State.updCore, State.core_setCore_other _ h]

@[simp] theorem State.job_setJob (n : Nat) (j : Option Job) : (s.setJob n j).job n = j := by simp [State.job]

theorem State.job_setJob_other {n m : Nat} (h : m ≠ n) (j : Option Job) : (s.setJob n j).job m = s.job m := by
  simp [State.job, Tab.get_set_other _ _ h]

@[simp] theorem State.core_setJob (n : Nat) (j : Option Job) (r : CoreRef) : (s.setJob n j).core r = s.core r := rfl

@[simp] theorem State.job_setCore (r : CoreRef) (c : Core) (n : Nat) : (s.setCore r c).job n = s.job n := rfl

/-- An interface that holds a stream reads what was written: a core always, a gang while its job stands. -/
theorem State.ifc_setIfc (i : IfaceId) (x : Iface) (h : ∀ n g, i = .gang n g → (s.job n).isSome) :
    (s.setIfc i x).ifc i = x := by
  cases i with
  | core c => simp [State.setIfc, State.ifc]
  | gang n g =>
    obtain ⟨j, hj⟩ := Option.isSome_iff_exists.mp (h n g rfl)
    simp [State.setIfc, State.ifc, State.updJob, hj]

end Sys2Proof.Machine
end

