-- ==== Sys2Proof/Laws/Memory.lean ====
section
/-! SUPPORT. Memory: its canonical form through every change, what a command's changes make of it, and reads and writes
of bytes. -/

namespace Sys2Proof.Machine

/-- One change keeps memory's canonical form. -/
theorem MemOp.wf_apply (o : MemOp) {m : Tab Byte} (h : Memory.wf m = true) : Memory.wf (o.apply m) = true := by
  cases o with
  | byte a v => exact Tab.wf_set a v h
  | zero lo hi => exact Tab.wf_clear lo hi h

/-- Every list of changes keeps memory's canonical form. -/
theorem wf_writeAll (l : List MemOp) {m : Tab Byte} (h : Memory.wf m = true) : Memory.wf (writeAll l m) = true := by
  induction l generalizing m with
  | nil => exact h
  | cons o r ih => exact ih (o.wf_apply h)

theorem writeAll_append (l k : List MemOp) (m : Tab Byte) : writeAll (l ++ k) m = writeAll k (writeAll l m) := by
  induction l generalizing m with
  | nil => rfl
  | cons o r ih => exact ih _

/-- A byte after the changes of a command, newest first: what the newest change to it says, or what it was. -/
theorem get_writeAll (l : List MemOp) (m : Tab Byte) (a : Nat) :
    (writeAll l.reverse m).get 0 a = (logFind l a).getD (m.get 0 a) := by
  induction l with
  | nil => rfl
  | cons o r ih =>
    rw [List.reverse_cons, writeAll_append]
    cases o with
    | byte b v =>
      simp only [writeAll, MemOp.apply, Tab.get_set, logFind, ih]
      by_cases h : a = b
      · simp [h]
      · have : b ≠ a := fun e => h e.symm
        simp [h, this]
    | zero lo hi =>
      simp only [writeAll, MemOp.apply, Tab.get_clear, logFind, ih]
      split <;> simp

/-- Ending a command leaves every byte reading as the command saw it last. -/
theorem commit_get {s t : State} (h : t.mem = s.mem) (a : Nat) : (commit s t).mem.get 0 a = t.rd a := by
  rw [commit_mem, get_writeAll, State.rd, h]

@[simp] theorem State.rd_wr_same (s : State) (a : Nat) (v : Byte) : (s.wr a v).rd a = v := by
  simp [State.rd, logFind]

theorem State.rd_wr_other (s : State) {a b : Nat} (h : b ≠ a) (v : Byte) : (s.wr a v).rd b = s.rd b := by
  have : a ≠ b := fun e => h e.symm
  simp [State.rd, logFind, this]

/-- A run of bytes written reads back byte by byte, and every other byte reads as before. -/
theorem State.rd_wrN (s : State) (a : Nat) (bs : List Byte) (b : Nat) :
    (s.wrN a bs).rd b = if a ≤ b ∧ b < a + bs.length then bs.getD (b - a) 0 else s.rd b := by
  induction bs generalizing s a with
  | nil => simp [State.wrN, show ¬ (a ≤ b ∧ b < a) by omega]
  | cons v r ih =>
    rw [State.wrN, ih]
    by_cases h : b = a
    · subst h
      rw [if_neg (by omega), if_pos (by simp)]; simp
    · rw [State.rd_wr_other _ h]
      by_cases h2 : a + 1 ≤ b ∧ b < a + 1 + r.length
      · rw [if_pos h2, if_pos (by simp; omega)]
        have : b - a = (b - (a + 1)) + 1 := by omega
        rw [this]; simp
      · rw [if_neg h2, if_neg (by simp; omega)]

theorem State.wrN_cores (s : State) (a : Nat) (bs : List Byte) : (s.wrN a bs).cores = s.cores := by
  induction bs generalizing s a with
  | nil => rfl
  | cons v r ih => rw [State.wrN, ih]; rfl

/-- The memory of the state after reset is canonical. -/
theorem reset_mem_wf : Memory.wf State.reset.mem = true := rfl

end Sys2Proof.Machine
end

