-- ==== Sys2Proof/Laws/Run.lean ====
section
/-! SUPPORT. The shape of every meaning: `run`, `commit` and `step`, each with one lemma that says all it does. -/

namespace Sys2Proof.Machine

/-- A command whose operands the device can be given ends in the committed effect. -/
theorem run_next {i : Instr} (h : i.wf = true) (s : State) (f : State → State) : run i s f = .next (commit s (f s)) := by
  simp [run, h]

/-- Every other command faults. -/
theorem run_fault {i : Instr} (h : i.wf = false) (s : State) (f : State → State) : run i s f = .fault .illFormed := by
  simp [run, h]

/-- All that `run` can answer. -/
theorem run_cases {i : Instr} {s : State} {f : State → State} {o : Out} (h : run i s f = o) :
    (i.wf = true ∧ o = .next (commit s (f s))) ∨ (i.wf = false ∧ o = .fault .illFormed) := by
  subst h
  cases hw : i.wf
  · exact .inr ⟨rfl, run_fault hw s f⟩
  · exact .inl ⟨rfl, run_next hw s f⟩

/-- A next state of `run` is a committed one. -/
theorem run_next_inv {i : Instr} {s t : State} {f : State → State} (h : run i s f = .next t) : t = commit s (f s) := by
  rcases run_cases h with ⟨-, e⟩ | ⟨-, e⟩
  · exact Host.Outcome.next.inj e
  · cases e

/-- A committed effect that changed no byte and ended with nothing raised keeps memory as it is. -/
theorem commit_quiet (s t : State) (hw : t.wlog = []) : (commit s t).mem = s.mem := by simp [hw, writeAll]

/-- A command that leaves a quiet state unchanged answers that state. -/
theorem commit_self {s : State} (hw : s.wlog = []) (hr : s.raised = []) : commit s s = s := by
  cases s; simp only at hw hr; subst hw hr; rfl

/-- A committed state has canonical memory if the state before had. -/
theorem commit_mem_wf (s t : State) (h : Memory.wf s.mem = true) : Memory.wf (commit s t).mem = true := by
  rw [commit_mem]; exact wf_writeAll _ h

/-- What a step does: an idle tick on an empty queue, else the front command on the rest. -/
theorem step_idle {s : State} (h : s.pending = []) : step s = .next (idleTick s) := by simp [step, h]

/-- An idle tick's two parts. -/
theorem step_front (c : Instr) (r : List Instr) (s : State) (h : s.pending = c :: r) :
    step s = exec c { s with pending := r } := by simp [step, h]

end Sys2Proof.Machine
end

