-- ==== Sys2Proof/Laws/Stream.lean ====
section
/-! SUPPORT. Interfaces and streams: one relation that says what changing an interface does, how it composes, what each
shared operation on the head of a stream does in its terms, and what beginning the head command comes to. -/

namespace Sys2Proof.Machine

/-- The interface's state has a place: a core's always, a gang's while its job stands. -/
def Housed (s : State) (i : IfaceId) : Prop := ∀ n g, i = .gang n g → (s.job n).isSome = true

/-- From `s` to `t` interface `i` has become `y`, the job that holds it is changed by `jf`, and nothing else has changed. -/
structure IfcStep (s t : State) (i : IfaceId) (y : Iface) (jf : Job → Job) : Prop where
  at'    : t.ifc i = y
  other  : ∀ j, j ≠ i → t.ifc j = s.ifc j
  rest   : t = { s with cores := t.cores, jobs := t.jobs }
  cores  : ∀ r, t.core r = { s.core r with ifc := (t.core r).ifc }
  jobs   : ∀ n, match s.job n with
    | none => t.job n = none
    | some j => ∃ g, t.job n = some { (if s.jobNo i = some n then jf j else j) with gangSt := g }
  num    : y.job = (s.ifc i).job → t.jobNo i = s.jobNo i

theorem IfcStep.housed {s t : State} {i : IfaceId} {y : Iface} {jf : Job → Job} (h : IfcStep s t i y jf) (hs : Housed s i) :
    Housed t i := by
  intro n g e
  have h1 := hs n g e
  have h2 := h.jobs n
  obtain ⟨j, hj⟩ := Option.isSome_iff_exists.mp h1
  rw [hj] at h2
  obtain ⟨g', h3⟩ := h2
  rw [h3]; rfl

/-- Changing an interface. -/
theorem IfcStep.set {s : State} {i : IfaceId} (h : Housed s i) (y : Iface) : IfcStep s (s.setIfc i y) i y id := by
  cases i with
  | core c =>
    refine ⟨s.ifc_setIfc _ _ (by intro n g e; cases e), ?_, rfl, ?_, ?_, ?_⟩
    · intro j hj
      cases j with
      | core r =>
        have hr : r ≠ c := fun e => hj (by rw [e])
        simp only [State.setIfc, State.ifc, State.core_updCore_other _ hr]
      | gang n g => rfl
    · intro r
      by_cases hr : r = c
      · subst hr; simp [State.setIfc]
      · simp [State.setIfc, State.core_updCore_other _ hr]
    · intro n
      show match s.job n with
        | none => s.job n = none
        | some j => _
      split
      · assumption
      · rename_i j hj; exact ⟨j.gangSt, by simp only [id_eq, ite_self]; exact hj⟩
    · intro e
      simp only [State.jobNo, State.setIfc, State.core_updCore]
      exact e
  | gang n g =>
    obtain ⟨j, hj⟩ := Option.isSome_iff_exists.mp (h n g rfl)
    have hs : s.setIfc (.gang n g) y = s.setJob n (some { j with gangSt := j.gangSt.set {} g.toNat y }) := by
      simp [State.setIfc, State.updJob, hj]
    rw [hs]
    refine ⟨by simp [State.ifc], ?_, rfl, fun r => rfl, ?_, ?_⟩
    · intro k hk
      cases k with
      | core r => rfl
      | gang m q =>
        by_cases hm : m = n
        · subst hm
          have hq : q.toNat ≠ g.toNat := fun e => hk (by rw [BitVec.eq_of_toNat_eq e])
          simp only [State.ifc, State.job_setJob, hj, Tab.get_set_other _ _ hq]
        · simp only [State.ifc, State.job_setJob_other _ hm]
    · intro m
      by_cases hm : m = n
      · subst hm
        rw [hj]
        exact ⟨j.gangSt.set {} g.toNat y, by simp only [State.job_setJob, id_eq, ite_self]⟩
      · rw [State.job_setJob_other _ hm]
        split
        · assumption
        · rename_i k hk; exact ⟨k.gangSt, by simp only [id_eq, ite_self]; exact hk⟩
    · intro _
      simp [State.jobNo, hj]

/-- Two changes in a row. -/
theorem IfcStep.trans {s t u : State} {i : IfaceId} {y z : Iface} {f g : Job → Job} (h1 : IfcStep s t i y f)
    (h2 : IfcStep t u i z g) (hj : y.job = (s.ifc i).job) (hg : ∀ j k, g { j with gangSt := k } = { g j with gangSt := k }) :
    IfcStep s u i z (g ∘ f) := by
  refine ⟨h2.at', fun j hj' => (h2.other j hj').trans (h1.other j hj'), ?_, ?_, ?_, ?_⟩
  · rw [h2.rest, h1.rest]
  · intro r; rw [h2.cores r, h1.cores r]
  · intro n
    have a := h1.jobs n
    have b := h2.jobs n
    cases hs : s.job n with
    | none => rw [hs] at a; rw [a] at b; exact b
    | some j =>
      rw [hs] at a
      obtain ⟨k, hk⟩ := a
      rw [hk] at b
      obtain ⟨k', hk'⟩ := b
      refine ⟨k', ?_⟩
      rw [hk', h1.num hj]
      by_cases he : s.jobNo i = some n
      · rw [if_pos he, if_pos he, if_pos he, hg]; rfl
      · rw [if_neg he, if_neg he, if_neg he]
  · intro e
    rw [h2.num (by rw [e, h1.at', hj]), h1.num hj]

theorem IfcStep.refl (s : State) (i : IfaceId) : IfcStep s s i (s.ifc i) id := by
  refine ⟨rfl, fun _ _ => rfl, rfl, fun _ => rfl, ?_, fun _ => rfl⟩
  intro n
  split
  · assumption
  · rename_i j hj; exact ⟨j.gangSt, by simp only [id_eq, ite_self]; exact hj⟩

theorem IfcStep.congr {s t : State} {i : IfaceId} {y z : Iface} {f : Job → Job} (h : IfcStep s t i y f) (e : y = z) :
    IfcStep s t i z f := e ▸ h

/-- Two changes of the interface alone. -/
theorem IfcStep.seq {s t u : State} {i : IfaceId} {y z : Iface} {f : Job → Job} (h1 : IfcStep s t i y f)
    (h2 : IfcStep t u i z id) (hj : y.job = (s.ifc i).job) : IfcStep s u i z f :=
  h1.trans h2 hj fun _ _ => rfl

/-- A change of the interface ends a command as `OnlyIfc` says. -/
theorem IfcStep.only {s t : State} {i : IfaceId} {y : Iface} {f : Job → Job} (h : IfcStep s t i y f) (hq : Quiet s) :
    OnlyIfc [] s (commit s t) i y f := by
  have hr := h.rest
  obtain ⟨q1, q2⟩ := hq
  have hw : t.wlog = [] := by rw [hr]; exact q1
  refine ⟨?_, ?_, ⟨⟨rfl, rfl⟩, rfl, ?_⟩, h.cores, h.jobs⟩
  · rw [← h.at']; cases i <;> rfl
  · intro j hj; rw [← h.other j hj]; cases j <;> rfl
  · intro p hp
    cases p <;> simp only [List.mem_cons, List.not_mem_nil, or_false, not_true_eq_false, reduceCtorEq, not_false_eq_true,
      or_true] at hp <;> simp only [Part.same, commit_mem, commit_free, commit_replySt, commit_reply, commit_jobCount,
      commit_ms, commit_chans, commit_fab, commit_hif, commit_mbx, commit_lint, commit_mgt, commit_cfg, commit_ft, commit_pins,
      commit_seq, commit_jtag, hw, List.reverse_nil, writeAll] <;> (rw [hr]; try exact ⟨rfl, rfl⟩)

/-! ### The operations on a stream's head -/

theorem IfcStep.upd {s : State} {i : IfaceId} (h : Housed s i) (f : Iface → Iface) : IfcStep s (s.updIfc i f) i (f (s.ifc i)) id :=
  IfcStep.set h _

theorem IfcStep.strm {s : State} {i : IfaceId} (h : Housed s i) (st : Strm) (f : Stream → Stream) :
    IfcStep s (s.updStrm i st f) i ((s.ifc i).setStrm st (f ((s.ifc i).strm st))) id :=
  IfcStep.set h _

@[simp] theorem Iface.strm_setStrm (x : Iface) (st : Strm) (v : Stream) : (x.setStrm st v).strm st = v := by cases st <;> rfl
@[simp] theorem Iface.strm_setStrm_other (x : Iface) (st : Strm) (v : Stream) :
    (x.setStrm st v).strm (otherStrm st) = x.strm (otherStrm st) := by cases st <;> rfl
@[simp] theorem Iface.setStrm_setStrm (x : Iface) (st : Strm) (v w : Stream) : (x.setStrm st v).setStrm st w = x.setStrm st w := by
  cases st <;> rfl
@[simp] theorem Iface.setStrm_job (x : Iface) (st : Strm) (v : Stream) : (x.setStrm st v).job = x.job := by cases st <;> rfl

/-! ### Tokens -/

theorem mem_rangeFrom (lo n k : Nat) : k ∈ rangeFrom lo n ↔ lo ≤ k ∧ k < lo + n := by
  induction n generalizing lo with
  | zero => simp [rangeFrom]
  | succ n ih => simp only [rangeFrom, List.mem_cons, ih]; omega

theorem nodup_rangeFrom (lo n : Nat) : (rangeFrom lo n).Nodup := by
  induction n generalizing lo with
  | zero => simp [rangeFrom]
  | succ n ih =>
    rw [rangeFrom, List.nodup_cons]
    exact ⟨by rw [mem_rangeFrom]; omega, ih _⟩

theorem mem_maskBits (m n : Nat) : n ∈ maskBits m ↔ n < 32 ∧ bitOf m n = true := by
  simp [maskBits, upto, mem_rangeFrom]

theorem nodup_maskBits (m : Nat) : (maskBits m).Nodup := (nodup_rangeFrom 0 32).filter _

theorem Iface.tok_lt (x : Iface) (n : Nat) : x.tok n < 65536 := (x.tokens.get 0 n).isLt

theorem Iface.tok_setTok (x : Iface) (n v k : Nat) (h : v < 65536) :
    (x.setTok n v).tok k = if k = n then v else x.tok k := by
  unfold Iface.tok Iface.setTok
  rw [Tab.get_set]
  split
  · rw [BitVec.toNat_ofNat]; exact Nat.mod_eq_of_lt h
  · rfl

/-- A change of the counters named in a list, each once. -/
theorem Iface.forEach_tok (f : Nat → Iface → Iface) (g : Nat → Nat)
    (hf : ∀ n x k, (f n x).tok k = if k = n then g (x.tok k) else x.tok k) (l : List Nat) (hl : l.Nodup) (x : Iface) (k : Nat) :
    (forEach f l x).tok k = if k ∈ l then g (x.tok k) else x.tok k := by
  induction l generalizing x with
  | nil => simp [forEach]
  | cons a r ih =>
    rw [List.nodup_cons] at hl
    rw [forEach, ih hl.2, hf]
    by_cases hk : k = a
    · subst hk; simp [hl.1]
    · simp [hk]

theorem Iface.forEach_tok_eq (f : Nat → Iface → Iface) (h : ∀ n x, ∃ t, f n x = { x with tokens := t }) (l : List Nat)
    (x : Iface) : ∃ t, forEach f l x = { x with tokens := t } := by
  induction l generalizing x with
  | nil => exact ⟨x.tokens, rfl⟩
  | cons a r ih =>
    obtain ⟨t, ht⟩ := h a x
    obtain ⟨u, hu⟩ := ih (f a x)
    exact ⟨u, by rw [forEach, hu, ht]⟩

/-- Taking the counters of a WAIT word, which are all at least 1 or stay at 0. -/
theorem Iface.takeToks_tok (x : Iface) (m n : Nat) (hn : n < 32) :
    (x.takeToks m).tok n = x.tok n - (if bitOf m n then 1 else 0) := by
  unfold Iface.takeToks
  rw [Iface.forEach_tok _ (fun v => v - 1) (fun n x k => by
    rw [Iface.tok_setTok _ _ _ _ (by have := x.tok_lt n; omega)]
    by_cases h : k = n <;> simp [h]) _ (nodup_maskBits m)]
  by_cases hb : bitOf m n = true
  · simp [mem_maskBits, hn, hb]
  · simp [mem_maskBits, hb]

theorem Iface.takeToks_eq (x : Iface) (m : Nat) : ∃ t, x.takeToks m = { x with tokens := t } :=
  Iface.forEach_tok_eq _ (fun _ _ => ⟨_, rfl⟩) _ x

/-- Signalling the counters of a SIG word: one more in each, a counter at its end excepted. -/
theorem Iface.addToks_tok (x : Iface) (m n : Nat) (hn : n < 32) :
    (x.addToks m).tok n = if bitOf m n = true ∧ x.tok n ≠ 65535 then x.tok n + 1 else x.tok n := by
  unfold Iface.addToks
  rw [Iface.forEach_tok _ (fun v => if v = 65535 then v else v + 1) (fun n x k => by
    by_cases h : x.tok n = 65535
    · simp only [h, if_true]
      by_cases hk : k = n
      · subst hk; simp [h]
      · simp [hk]
    · simp only [h, if_false]
      rw [Iface.tok_setTok _ _ _ _ (by have := x.tok_lt n; omega)]
      by_cases hk : k = n
      · subst hk; simp [h]
      · simp [hk]) _ (nodup_maskBits m)]
  by_cases hb : bitOf m n = true
  · simp only [mem_maskBits, hn, hb, and_self, if_true, true_and]
    by_cases h : x.tok n = 65535 <;> simp [h]
  · simp [mem_maskBits, hb]

theorem Iface.addToks_eq (x : Iface) (m : Nat) : ∃ t, x.addToks m = { x with tokens := t } :=
  Iface.forEach_tok_eq _ (fun n x => by
    by_cases h : x.tok n = 65535
    · exact ⟨x.tokens, by simp [h]⟩
    · exact ⟨_, by simp only [h, if_false]; rfl⟩) _ x

theorem Iface.toksFull_iff (x : Iface) (m : Nat) : x.toksFull m = false ↔ ∀ n, n < 32 → bitOf m n = true → x.tok n ≠ 65535 := by
  simp only [Iface.toksFull, List.any_eq_false, mem_maskBits, decide_eq_true_eq, and_imp]

/-! ### Beginning the head command (R231) -/

/-- The interface of a head command is housed. -/
theorem HeadAt.housed {s : State} {i : IfaceId} {st : Strm} {c : BitVec 256} (h : HeadAt s i st c) : Housed s i := by
  intro n g e
  subst e
  cases hj : s.job n with
  | some j => rfl
  | none =>
    have := h.lone
    simp only [State.ifc, hj] at this
    cases st <;> simp [Iface.strm] at this

/-- Steps 1 to 4 of R231 for a head command whose turn has come. -/
theorem HeadAt.take {s : State} {i : IfaceId} {st : Strm} {c : BitVec 256} (h : HeadAt s i st c) :
    ∃ y, IfcStep s (s.takeHead i st c) i y id ∧ (y.strm st) = { (s.ifc i).strm st with taken := some true } ∧
      y.strm (otherStrm st) = (s.ifc i).strm (otherStrm st) ∧ (∀ n, n < 32 → y.tok n = tokTaken (s.ifc i) st c n) ∧
      y = { s.ifc i with acc := y.acc, exe := y.exe, tokens := y.tokens } := by
  rcases h.turn with ht | ⟨ht, hw, ha, hy, hp⟩
  · refine ⟨s.ifc i, ?_, ?_, rfl, ?_, ?_⟩
    · have : s.takeHead i st c = s := by simp [State.takeHead, ht]
      rw [this]; exact IfcStep.refl s i
    · cases hs : (s.ifc i).strm st; rw [hs] at ht; simp only at ht; rw [ht]
    · intro n _; simp [tokTaken, ht]
    · rfl
  · have e : s.takeHead i st c = (s.setIfc i ((s.ifc i).takeToks (cmdWait c))).updStrm i st fun t => { t with taken := some true } := by
      unfold State.takeHead
      simp only [ht, Option.isSome_none, Bool.false_eq_true, if_false, hw, ha, hy, Bool.not_false, Bool.and_self, if_true, hp]
    obtain ⟨tk, htk⟩ := (s.ifc i).takeToks_eq (cmdWait c)
    have h1 := IfcStep.set h.housed ((s.ifc i).takeToks (cmdWait c))
    have h2 := IfcStep.strm (h1.housed h.housed) st fun t => { t with taken := some true }
    rw [h1.at'] at h2
    have hjob : ((s.ifc i).takeToks (cmdWait c)).job = (s.ifc i).job := by rw [htk]
    refine ⟨_, e ▸ h1.seq h2 hjob, ?_, ?_, ?_, ?_⟩
    · rw [Iface.strm_setStrm, htk]; cases st <;> rfl
    · rw [Iface.strm_setStrm_other, htk]; cases st <;> rfl
    · intro n hn
      have : ∀ v, (Iface.setStrm ((s.ifc i).takeToks (cmdWait c)) st v).tok n = ((s.ifc i).takeToks (cmdWait c)).tok n := by
        intro v; cases st <;> rfl
      rw [this, Iface.takeToks_tok _ _ _ hn]
      simp [tokTaken, ht]
    · rw [htk]; cases st <;> rfl

/-- What `begin` does with a head command whose turn has come: its effect, and then the next command's arrival where the
head has changed. -/
theorem HeadAt.begin {s : State} {i : IfaceId} {st : Strm} {c : BitVec 256} (h : HeadAt s i st c) (mine : BitVec 256 → Bool)
    (eff : BitVec 256 → State → State) (hm : mine c = true) :
    s.begin i st mine eff =
      (if (((eff c (s.takeHead i st c)).ifc i).strm st).head = ((s.ifc i).strm st).head then eff c (s.takeHead i st c)
        else (eff c (s.takeHead i st c)).arrive i st) := by
  obtain ⟨y, h1, h2, -, -, -⟩ := h.take
  have hc : ((s.ifc i).strm st).cur = some c := by simp [Stream.cur, h.lone]
  have he : (s.takeHead i st c).emptyGang i = s.emptyGang i := by
    cases i with
    | core r => rfl
    | gang n g =>
      have hj := h1.jobs n
      simp only [State.emptyGang]
      cases hs : s.job n with
      | none => rw [hs] at hj; rw [hj]
      | some j =>
        rw [hs] at hj
        obtain ⟨k, hk⟩ := hj
        rw [hk]
        simp only [id_eq, ite_self]
        rfl
  have ht : (((s.takeHead i st c).ifc i).strm st).taken = some true := by rw [h1.at', h2]
  unfold State.begin
  simp only [h.isOpen, hc, hm, Bool.not_true, Bool.false_eq_true, if_false, ht, he, h.some', Bool.or_self]

/-- A command that reaches an empty head: nothing. -/
theorem State.arrive_empty (s : State) (i : IfaceId) (st : Strm) (h : ((s.ifc i).strm st).fetched = []) : s.arrive i st = s := by
  simp [State.arrive, Stream.cur, h]

theorem Iface.outsideAdd_eq (x : Iface) (m : Nat) :
    (x.span = none → x.outsideAdd m = x) ∧
    ∀ sp, x.span = some sp → ∃ o, x.outsideAdd m = { x with span := some { sp with outside := o } } := by
  constructor
  · intro h; simp [Iface.outsideAdd, h]
  · intro sp h; exact ⟨_, by simp only [Iface.outsideAdd, h]; rfl⟩

/-- Signalling SIG counters, none of which stands at its end (R233). -/
theorem State.signalToks_spec {s : State} {a : At} {mangle : Bool} {sig : Nat} (h : Housed s a.ifc)
    (hf : ∀ n, n < 32 → bitOf sig n = true → (s.ifc a.ifc).tok n < 65535) :
    ∃ y, IfcStep s (s.signalToks a mangle sig) a.ifc y id ∧
      (∀ n, n < 32 → y.tok n = (s.ifc a.ifc).tok n + (if bitOf sig n then 1 else 0)) ∧
      ((s.ifc a.ifc).span = none → y.span = none) ∧
      (∀ sp, (s.ifc a.ifc).span = some sp → ∃ o, y.span = some { sp with outside := o }) ∧
      y = { s.ifc a.ifc with tokens := y.tokens, span := y.span } := by
  have hfull : (s.ifc a.ifc).toksFull sig = false := by
    rw [Iface.toksFull_iff]; intro n hn hb e; have := hf n hn hb; omega
  have key : ∀ x : Iface, (∀ n, x.tok n = (s.ifc a.ifc).tok n) →
      ∀ n, n < 32 → (x.addToks sig).tok n = (s.ifc a.ifc).tok n + (if bitOf sig n then 1 else 0) := by
    intro x hx n hn
    rw [Iface.addToks_tok _ _ _ hn, hx]
    by_cases hb : bitOf sig n = true
    · have := hf n hn hb
      simp [hb, show (s.ifc a.ifc).tok n ≠ 65535 by omega]
    · simp [hb]
  have outs : ∀ b : Bool, ∃ z : Option Span, (if b = true then (s.ifc a.ifc).outsideAdd sig else s.ifc a.ifc) = { s.ifc a.ifc with span := z } ∧
      ((s.ifc a.ifc).span = none → z = none) ∧
      ∀ sp, (s.ifc a.ifc).span = some sp → ∃ o, z = some { sp with outside := o } := by
    intro b
    cases b with
    | false => exact ⟨(s.ifc a.ifc).span, rfl, id, fun sp e => ⟨sp.outside, e⟩⟩
    | true =>
      cases hsp : (s.ifc a.ifc).span with
      | none => exact ⟨none, by rw [if_pos rfl, ((s.ifc a.ifc).outsideAdd_eq sig).1 hsp, ← hsp], fun _ => rfl, fun sp e => by cases e⟩
      | some sp =>
        obtain ⟨o, ho⟩ := ((s.ifc a.ifc).outsideAdd_eq sig).2 sp hsp
        refine ⟨some { sp with outside := o }, by rw [if_pos rfl, ho], ?_, ?_⟩
        · intro e; cases e
        · intro sp' e; cases e; exact ⟨o, rfl⟩
  unfold State.signalToks
  simp only [hfull, Bool.false_eq_true, if_false]
  suffices hb : ∀ b : Bool, ∃ y,
      IfcStep s (s.setIfc a.ifc ((if b = true then (s.ifc a.ifc).outsideAdd sig else s.ifc a.ifc).addToks sig)) a.ifc y id ∧
      (∀ n, n < 32 → y.tok n = (s.ifc a.ifc).tok n + (if bitOf sig n then 1 else 0)) ∧
      ((s.ifc a.ifc).span = none → y.span = none) ∧
      (∀ sp, (s.ifc a.ifc).span = some sp → ∃ o, y.span = some { sp with outside := o }) ∧
      y = { s.ifc a.ifc with tokens := y.tokens, span := y.span } from hb _
  intro b
  obtain ⟨z, hz, z1, z2⟩ := outs b
  rw [hz]
  obtain ⟨tk, htk⟩ := ({ s.ifc a.ifc with span := z } : Iface).addToks_eq sig
  refine ⟨_, IfcStep.set h _, key _ (fun _ => rfl), ?_, ?_, ?_⟩
  · intro e; rw [htk]; exact z1 e
  · intro sp e; rw [htk]; exact z2 sp e
  · rw [htk]

theorem State.popHead_spec {s : State} {i : IfaceId} (h : Housed s i) (st : Strm) :
    IfcStep s (s.popHead i st) i ((s.ifc i).setStrm st { (s.ifc i).strm st with
      head := ((s.ifc i).strm st).head + 1, fetched := ((s.ifc i).strm st).fetched.tail, taken := none }) id :=
  IfcStep.strm h st _

/-- Taking a command out of the flight list. -/
theorem State.dropFlight_spec {s : State} {i : IfaceId} (h : Housed s i) (st : Strm) (idx : Nat) :
    IfcStep s (s.dropFlight i st idx) i ((s.ifc i).setStrm st { (s.ifc i).strm st with
      flight := ((s.ifc i).strm st).flight.filter fun f => decide (f.idx ≠ idx) }) id :=
  IfcStep.strm h st _

/-- A command in flight that has failed: it leaves the flight list uncompleted, and its TAG stands among the lost. -/
theorem State.loseFlight_spec {s : State} {i : IfaceId} (h : Housed s i) (st : Strm) (idx : Nat) :
    IfcStep s (s.loseFlight i st idx) i ((s.ifc i).setStrm st { (s.ifc i).strm st with
      flight := ((s.ifc i).strm st).flight.filter fun f => decide (f.idx ≠ idx)
      lost := ((s.ifc i).strm st).lost ++ ((s.flightOf i st idx).map fun f => cmdTag f.cmd).toList }) id := by
  have h1 := State.dropFlight_spec h st idx
  have h2 := IfcStep.strm (h1.housed h) st fun t => { t with
    lost := t.lost ++ ((s.flightOf i st idx).map fun f => cmdTag f.cmd).toList }
  refine (h1.seq h2 (Iface.setStrm_job ..)).congr ?_
  simp only [h1.at', Iface.strm_setStrm, Iface.setStrm_setStrm]

/-- A command of an interface that has not halted goes on. -/
@[simp] theorem Iface.mayHandle_running {x : Iface} (h : x.halted = false) (idx : Nat) : x.mayHandle idx = true := by
  simp [Iface.mayHandle, h]

/-- Of a halted interface a Mangle command goes on only before the first offender. -/
theorem Iface.mayHandle_halted {x : Iface} (h : x.halted = true) {k idx : Nat} (hk : x.stopAt = some k) :
    x.mayHandle idx = decide (idx < k) := by simp [Iface.mayHandle, h, hk]

/-- A command that writes no predicate completes, when none of its SIG counters stands at its end. -/
theorem State.complete_spec {s : State} {i : IfaceId} {st : Strm} {f : Flight} (h : Housed s i) (hp : f.preds = [])
    (hf : ∀ n, n < 32 → bitOf (cmdSig f.cmd) n = true → (s.ifc i).tok n < 65535) :
    ∃ y, IfcStep s (s.complete i st f) i y id ∧
      y.bob = (s.ifc i).bob.tagEnds (cmdTag f.cmd) (s.hif.time.toNat - f.begunAt) ∧
      (∀ n, n < 32 → y.tok n = (s.ifc i).tok n + (if bitOf (cmdSig f.cmd) n then 1 else 0)) ∧
      ((s.ifc i).span = none → y.span = none) ∧
      (∀ sp, (s.ifc i).span = some sp → ∃ o, y.span = some { sp with outside := o }) ∧
      y = { s.ifc i with acc := y.acc, exe := y.exe, tokens := y.tokens, bob := y.bob, span := y.span } ∧
      y.strm st = { (s.ifc i).strm st with
        flight := ((s.ifc i).strm st).flight.filter fun x => decide (x.idx ≠ f.idx) } ∧
      y.strm (otherStrm st) = (s.ifc i).strm (otherStrm st) := by
  have h2 := IfcStep.upd h fun x => { x.writePreds f.preds with
    bob := x.bob.tagEnds (cmdTag f.cmd) (s.hif.time.toNat - f.begunAt) }
  have h3 := State.dropFlight_spec (h2.housed h) st f.idx
  rw [h2.at'] at h3
  have h23 := h2.seq h3 (by rw [hp]; rfl)
  obtain ⟨y, h4, t1, t2, t3, t4⟩ := State.signalToks_spec (mangle := isMangleOp (cmdOp f.cmd))
    (a := ⟨i, st, f.idx, cmdTag f.cmd⟩) (sig := cmdSig f.cmd) (h23.housed h) (by
      intro n hn hb
      rw [h23.at', hp]
      have : ∀ (x : Iface) (w : Stream) (b : Bob),
          (Iface.setStrm { x.writePreds [] with bob := b } st w).tok n = x.tok n := by
        intro x w b; cases st <;> rfl
      rw [this]; exact hf n hn hb)
  simp only [h23.at'] at t1 t2 t3 t4
  simp only [hp] at t1 t2 t3 t4
  refine ⟨y, h23.seq h4 (by simp [hp, Iface.writePreds, forEach]), ?_⟩
  generalize y.tokens = tk at t4
  generalize hz : y.span = z at t4 t2 t3
  subst t4
  refine ⟨?_, ?_, ?_, ?_, ?_, ?_, ?_⟩
  · cases st <;> rfl
  · intro n hn; rw [t1 n hn]; cases st <;> rfl
  · intro e; exact t2 (by cases st <;> exact e)
  · intro sp e; exact t3 sp (by cases st <;> exact e)
  · cases st <;> rfl
  · cases st <;> rfl
  · cases st <;> rfl

/-- A control command that completes at once, when none of its SIG counters stands at its end. -/
theorem State.doneAtOnce_spec {s : State} {i : IfaceId} {st : Strm} {c : BitVec 256} (h : Housed s i)
    (hf : ∀ n, n < 32 → bitOf (cmdSig c) n = true → (s.ifc i).tok n < 65535) :
    ∃ y, IfcStep s (s.doneAtOnce i st c) i y id ∧
      y.bob = ((s.ifc i).bob.tagBegins (cmdTag c)).tagEnds (cmdTag c) 0 ∧
      (∀ n, n < 32 → y.tok n = (s.ifc i).tok n + (if bitOf (cmdSig c) n then 1 else 0)) ∧
      ((s.ifc i).span = none → y.span = none) ∧
      (∀ sp, (s.ifc i).span = some sp → ∃ o, y.span = some { sp with outside := o }) ∧
      y = { s.ifc i with acc := y.acc, exe := y.exe, tokens := y.tokens, bob := y.bob, span := y.span } ∧
      y.strm st = { (s.ifc i).strm st with
        head := ((s.ifc i).strm st).head + 1, fetched := ((s.ifc i).strm st).fetched.tail, taken := none,
        flight := ((s.ifc i).strm st).flight.filter fun f => decide (f.idx ≠ ((s.ifc i).strm st).head) } ∧
      y.strm (otherStrm st) = (s.ifc i).strm (otherStrm st) := by
  have h0 : IfcStep s (s.countTag i c) i { s.ifc i with bob := (s.ifc i).bob.tagBegins (cmdTag c) } id := IfcStep.upd h _
  have h1 := State.popHead_spec (h0.housed h) st
  rw [h0.at'] at h1
  have h01 := h0.seq h1 rfl
  have ht : ((s.countTag i c).popHead i st).hif.time.toNat - s.hif.time.toNat = 0 := by rw [h01.rest]; exact Nat.sub_self _
  obtain ⟨y, h2, b1, b2, b3, b4, b5, b6, b7⟩ := State.complete_spec (st := st)
    (f := { idx := ((s.ifc i).strm st).head, cmd := c, begunAt := s.hif.time.toNat }) (h01.housed h) rfl (by
      intro n hn hb
      rw [h01.at']
      have e : ∀ (x : Iface) (v : Stream), (x.setStrm st v).tok n = x.tok n := by intro x v; cases st <;> rfl
      rw [e]; exact hf n hn hb)
  rw [h01.at'] at b1 b2 b3 b4 b5 b6 b7
  simp only [ht] at b1
  refine ⟨y, h01.seq h2 (by cases st <;> rfl), ?_, ?_, ?_, ?_, ?_, ?_, ?_⟩
  · rw [b1]; cases st <;> rfl
  · intro n hn; rw [b2 n hn]; cases st <;> rfl
  · intro e; exact b3 (by cases st <;> exact e)
  · intro sp e; exact b4 sp (by cases st <;> exact e)
  · rw [b5]; cases st <;> rfl
  · rw [b6]; cases st <;> rfl
  · rw [b7]; cases st <;> rfl

/-- A control command that completes at once, from `begin` to the committed state. -/
theorem HeadAt.doneAtOnce {s : State} {i : IfaceId} {st : Strm} {c : BitVec 256} (hq : Quiet s) (h : HeadAt s i st c)
    (hf : SigsFit (s.ifc i) st c) (mine : BitVec 256 → Bool) (hm : mine c = true) :
    ∃ y, DoneAtOnce s i st c y ∧ OnlyIfc [] s (commit s (s.begin i st mine fun c s => s.doneAtOnce i st c)) i y id := by
  obtain ⟨y1, h1, a1, a2, a3, a4⟩ := h.take
  obtain ⟨y, h2, b1, b2, b3, b4, b5, b6, b7⟩ := State.doneAtOnce_spec (c := c) (st := st) (h1.housed h.housed) (by
    intro n hn hb
    rw [h1.at', a3 n hn]; exact hf n hn hb)
  rw [h1.at'] at b1 b2 b3 b4 b5 b6 b7
  have hjob : y1.job = (s.ifc i).job := by rw [a4]
  have h12 := h1.seq h2 hjob
  have hne : ((((s.takeHead i st c).doneAtOnce i st c).ifc i).strm st).head ≠ ((s.ifc i).strm st).head := by
    rw [h2.at', b6, a1]; simp
  rw [h.begin mine _ hm, if_neg hne, State.arrive_empty _ _ _ (by rw [h2.at', b6, a1]; simp [h.lone])]
  refine ⟨y, ⟨⟨?_, ?_, ?_, ?_, ?_, ?_⟩, ?_⟩, h12.only hq⟩
  · intro n hn; rw [b2 n hn, a3 n hn]; rfl
  · intro e; exact b3 (by rw [a4]; exact e)
  · intro sp e; exact b4 sp (by rw [a4]; exact e)
  · rw [b5, a4]
  · rw [b6, a1]; simp [Stream.left, h.lone]
  · rw [b7, a2]
  · rw [b1, a4]

end Sys2Proof.Machine
end

