-- ==== Sys2Proof/Laws/Vec.lean ====
section
/-! SUPPORT. The vector engine's step: one lemma that says what a vector row does when its instruction is the next one,
and small lemmas of the registers it writes. -/

namespace Sys2Proof.Machine

/-- What an instruction works from. -/
def VecAt.ctx (s : State) (c : CoreRef) (x : VRun) (w : Nat) : VCtx :=
  { s := s.touchAll (.core c) [(.fetch, instrAddr (s.core c).vec x, 4)], r := c, v := (s.core c).vec, x := x, w := w }

/-- A vector row whose instruction is the next one: its work commits, or faults with the state as it was. -/
theorem vecRun_at {s : State} {c : CoreRef} {x : VRun} {w : Nat} {row : Instr} {sem : VCtx → VAct} (h : VecAt s c x w)
    (hr : rowOf w c = some row) (hw : row.wf = true) :
    vecRun c row s sem = .next (commit s (match sem (VecAt.ctx s c x w) with
      | .ok y => vecCommit c y
      | .error e => s.vecFault c x e)) := by
  obtain ⟨h1, h2, h3, h4⟩ := h
  unfold vecRun
  rw [run_next hw]
  congr 2
  unfold State.vecStep
  simp only [h1, h2, Bool.false_eq_true, if_false]
  unfold instrAddr at h3 h4
  rw [h3]
  simp only [h4, hr, ne_eq, not_true_eq_false, if_false]
  rfl

/-- The home lookups change the home caches alone (R354, R355). -/
theorem State.touchLine_eq (s : State) (cls : Nat) (st wr : Bool) (l : Nat) :
    ∃ k, s.touchLine cls st wr l = { s with ms := { s.ms with home := k } } := ⟨_, rfl⟩

/-- A fold of operations that change the home caches alone does so too. -/
theorem forEach_home {α : Type} {f : α → State → State}
    (h : ∀ a s, ∃ k, f a s = { s with ms := { s.ms with home := k } }) (l : List α) (s : State) :
    ∃ k, forEach f l s = { s with ms := { s.ms with home := k } } := by
  induction l generalizing s with
  | nil => exact ⟨s.ms.home, rfl⟩
  | cons a r ih =>
    obtain ⟨k, hk⟩ := h a s
    obtain ⟨k', hk'⟩ := ih { s with ms := { s.ms with home := k } }
    exact ⟨k', by rw [forEach, hk, hk']⟩

theorem State.touch_eq (s : State) (cls : Nat → Nat) (st : Nat → Bool) (wr : Bool) (a n : Nat) :
    ∃ k, s.touch cls st wr a n = { s with ms := { s.ms with home := k } } := by
  unfold State.touch
  split
  · exact ⟨s.ms.home, rfl⟩
  · exact forEach_home (fun l s => s.touchLine_eq (cls (256 * l)) (st (256 * l)) wr l) _ s

theorem State.touchAll_eq (s : State) (i : IfaceId) (rs : Ranges) :
    ∃ k, s.touchAll i rs = { s with ms := { s.ms with home := k } } := by
  unfold State.touchAll
  refine forEach_home (fun r s => ?_) rs s
  exact s.touch_eq _ _ _ _ _

/-- An instruction that changes registers only: the row completes, and nothing but its engine changes. -/
theorem vecRun_done {s : State} {c : CoreRef} {x x' : VRun} {w : Nat} {row : Instr} {sem : VCtx → VAct} {v : Vec}
    {k : Conds} {target : Option DWord} (hq : Quiet s) (h : VecAt s c x w) (hr : rowOf w c = some row) (hw : row.wf = true)
    (hs : sem (VecAt.ctx s c x w) = .ok { s := (VecAt.ctx s c x w).s, v := v, x := x', conds := k, target := target }) :
    ∃ t, vecRun c row s sem = .next t ∧ OnlyVec s t c (v.retired x' k (target.getD (x'.next + 1))) := by
  refine ⟨_, vecRun_at h hr hw, ?_⟩
  rw [hs]
  obtain ⟨m, hm⟩ := s.touchAll_eq (.core c) [(.fetch, instrAddr (s.core c).vec x, 4)]
  have hc : (VecAt.ctx s c x w).s = { s with ms := { s.ms with home := m } } := hm
  simp only [vecCommit, hc, Bool.false_eq_true, if_false]
  obtain ⟨hq1, hq2⟩ := hq
  refine ⟨?_, ?_, ⟨⟨rfl, rfl⟩, rfl, ?_⟩, rfl⟩
  · show (State.core _ c) = _
    simp only [State.core, commit_cores, State.updVec, State.updCore, State.setCore_cores, Tab.get_set_same]
    rfl
  · intro r hr'
    have : r.toNat ≠ c.toNat := fun e => hr' (BitVec.eq_of_toNat_eq e)
    simp only [State.core, commit_cores, State.updVec, State.updCore, State.setCore_cores, Tab.get_set_other _ _ this]
  · intro p hp
    cases p <;> simp only [List.mem_cons, List.not_mem_nil, or_false, not_true_eq_false, reduceCtorEq, not_false_eq_true,
      or_true] at hp <;> first | rfl | exact ⟨rfl, rfl⟩ | skip
    simp [Part.same, State.updVec, State.updCore, hq1, writeAll]

/-! ### Scalar registers -/

/-- Writing Sd: every register reads as `ScalarIs` says. -/
theorem Vec.setS_scalarIs (v : Vec) (d y : Nat) : ScalarIs v (v.setS d y).s d (BitVec.ofNat 64 y) := by
  intro n hn
  by_cases hd : d = 0
  · subst hd; simp [Vec.setS, hn]
  · simp only [Vec.setS, hd, if_false, Tab.get_set]

theorem Vec.setS_eq (v : Vec) (d y : Nat) : v.setS d y = { v with s := (v.setS d y).s } := by
  unfold Vec.setS; split <;> rfl

/-- A scalar register's two readings. -/
theorem sreg_eq_sval (v : Vec) (n : Nat) : v.sreg n = (sval v n).toNat := by
  unfold Vec.sreg sval; split <;> simp

/-- An instruction that writes one scalar register: the row completes, Sd holds the value, and nothing else changes. -/
theorem vecRun_setS {s : State} {c : CoreRef} {x : VRun} {w : Nat} {row : Instr} {sem : VCtx → VAct} {d y : Nat}
    {k : Conds} {target : Option DWord} (hq : Quiet s) (h : VecAt s c x w) (hr : rowOf w c = some row) (hw : row.wf = true)
    (hs : sem (VecAt.ctx s c x w) =
      .ok { s := (VecAt.ctx s c x w).s, v := (s.core c).vec.setS d y, x := x, conds := k, target := target }) :
    ∃ t, vecRun c row s sem = .next t ∧ ∃ regs,
      Retires s t c x { (s.core c).vec with s := regs } k (target.getD (x.next + 1)) ∧
      ScalarIs (s.core c).vec regs d (BitVec.ofNat 64 y) := by
  obtain ⟨t, h1, h2⟩ := vecRun_done hq h hr hw hs
  refine ⟨t, h1, ((s.core c).vec.setS d y).s, ?_, Vec.setS_scalarIs _ d y⟩
  rw [Vec.setS_eq] at h2; exact h2

/-- An SR function of Sa and Sb. -/
theorem vecRun_scalarOp {s : State} {c : CoreRef} {x : VRun} {w : Nat} {row : Instr} (f : Nat → Nat → Nat × Cnd)
    (hq : Quiet s) (h : VecAt s c x w) (hr : rowOf w c = some row) (hw : row.wf = true) (hm : wMk w = 0) :
    ∃ t, vecRun c row s (scalarOp f) = .next t ∧ ∃ regs,
      Retires s t c x { (s.core c).vec with s := regs }
        (condsOf [(f (sval (s.core c).vec (wA w)).toNat (sval (s.core c).vec (wB w)).toNat).2]) (x.next + 1) ∧
      ScalarIs (s.core c).vec regs (wD w)
        (BitVec.ofNat 64 (f (sval (s.core c).vec (wA w)).toNat (sval (s.core c).vec (wB w)).toNat).1) := by
  apply vecRun_setS (target := none) hq h hr hw
  simp only [scalarOp, need, VecAt.ctx, hm, ← sreg_eq_sval]
  rfl

end Sys2Proof.Machine
end

