-- ==== Sys2Proof/Laws/VecRegs.lean ====
section
/-! SUPPORT. Vector registers bit by bit: what writing the elements of a group, and the bits of a mask register, does. -/

namespace Sys2Proof.Machine

theorem packElems_shift (w k : Nat) (l : List Nat) : packElems w k l = 2 ^ (w * k) * packElems w 0 l := by
  induction l generalizing k with
  | nil => simp [packElems]
  | cons e r ih =>
    rw [packElems, ih (k + 1), packElems, ih (0 + 1)]
    simp only [Nat.shiftLeft_eq, Nat.mul_zero, Nat.pow_zero, Nat.mul_one, Nat.zero_add, Nat.mul_add, Nat.pow_add]
    rw [Nat.mul_comm (e % 2 ^ w), Nat.mul_assoc]

theorem packElems_cons (w e : Nat) (r : List Nat) :
    packElems w 0 (e :: r) = 2 ^ w * packElems w 0 r + e % 2 ^ w := by
  rw [packElems, packElems_shift w (0 + 1) r]; simp [Nat.add_comm]

theorem packElems_lt (w : Nat) (l : List Nat) : packElems w 0 l < 2 ^ (w * l.length) := by
  induction l with
  | nil => simp [packElems]
  | cons e r ih =>
    rw [packElems_cons, List.length_cons, Nat.mul_add, Nat.mul_one, Nat.pow_add]
    have h1 : e % 2 ^ w < 2 ^ w := Nat.mod_lt _ (Nat.two_pow_pos w)
    have h2 : 2 ^ w * packElems w 0 r + 2 ^ w ≤ 2 ^ w * 2 ^ (w * r.length) := by
      have := Nat.mul_le_mul_left (2 ^ w) (Nat.succ_le_of_lt ih)
      rwa [Nat.succ_eq_add_one, Nat.mul_add, Nat.mul_one] at this
    rw [Nat.mul_comm (2 ^ (w * r.length))]; omega

/-- Packed elements bit by bit. -/
theorem testBit_packElems {w : Nat} (hw : 0 < w) (l : List Nat) (b : Nat) :
    (packElems w 0 l).testBit b = (match l[b / w]? with
      | some y => y.testBit (b % w)
      | none => false) := by
  induction l generalizing b with
  | nil => simp [packElems]
  | cons e r ih =>
    rw [packElems_cons, Nat.testBit_two_pow_mul_add _ (Nat.mod_lt _ (Nat.two_pow_pos w))]
    by_cases hb : b < w
    · simp [hb, Nat.div_eq_of_lt hb, Nat.mod_eq_of_lt hb, Nat.testBit_mod_two_pow]
    · have h1 : b / w = (b - w) / w + 1 := by
        rw [← Nat.sub_add_cancel (Nat.le_of_not_lt hb), Nat.add_div_right _ hw]; simp
      have h2 : b % w = (b - w) % w := Nat.mod_eq_sub_mod (Nat.le_of_not_lt hb)
      simp [hb, ih, h1, h2]

/-- The bit string of a group, bit by bit. -/
theorem Vec.testBit_group (v : Vec) (n g b : Nat) :
    (v.group n g).testBit b = (decide (b < 2048 * g) && groupBit v.v n b) := by
  induction g generalizing n b with
  | zero => simp [Vec.group]
  | succ g ih =>
    have hlt : (v.v.get 0 n).toNat < 2 ^ vlen := by unfold vlen; exact (v.v.get 0 n).isLt
    rw [Vec.group, Nat.shiftLeft_eq, Nat.add_comm, Nat.mul_comm, Nat.testBit_two_pow_mul_add _ hlt]
    unfold vlen
    by_cases hb : b < 2048
    · have : b < 2048 * (g + 1) := by omega
      simp [hb, this, groupBit, Nat.div_eq_of_lt hb, Nat.mod_eq_of_lt hb, BitVec.getLsbD]
    · have h1 : n + 1 + (b - 2048) / 2048 = n + b / 2048 := by omega
      have h2 : (b - 2048) % 2048 = b % 2048 := by omega
      have h3 : (b - 2048 < 2048 * g) ↔ b < 2048 * (g + 1) := by omega
      rw [if_neg hb, ih]
      simp [groupBit, h1, h2, h3]

theorem Vec.setGroup_other (v : Vec) (n g x k : Nat) (h : k < n ∨ n + g ≤ k) :
    (v.setGroup n g x).v.get 0 k = v.v.get 0 k := by
  induction g generalizing v n x with
  | zero => rfl
  | succ g ih =>
    rw [Vec.setGroup, ih _ (n + 1) _ (by omega)]
    exact Tab.get_set_other _ _ (by omega) _

theorem Vec.setGroup_bit (v : Vec) (n g x b : Nat) (h : b < 2048 * g) :
    groupBit (v.setGroup n g x).v n b = x.testBit b := by
  induction g generalizing v n x b with
  | zero => omega
  | succ g ih =>
    rw [Vec.setGroup]
    by_cases hb : b < 2048
    · unfold groupBit
      rw [Nat.div_eq_of_lt hb, Nat.mod_eq_of_lt hb, Nat.add_zero, Vec.setGroup_other _ _ _ _ _ (by omega)]
      simp only [Nat.add_zero, Tab.get_set_same, BitVec.getLsbD_ofNat, hb, decide_true, Bool.true_and]
    · have hi := ih { v with v := v.v.set 0 n (BitVec.ofNat 2048 x) } (n + 1) (x >>> vlen) (b - 2048) (by omega)
      unfold groupBit at hi ⊢
      have h1 : n + 1 + (b - 2048) / 2048 = n + b / 2048 := by omega
      have h2 : (b - 2048) % 2048 = b % 2048 := by omega
      rw [h1, h2] at hi
      have h3 : vlen + (b - 2048) = b := by unfold vlen; omega
      rw [hi, Nat.testBit_shiftRight, h3]

/-- Only the vector registers change. -/
theorem Vec.setGroup_eq (v : Vec) (n g x : Nat) : v.setGroup n g x = { v with v := (v.setGroup n g x).v } := by
  induction g generalizing v n x with
  | zero => rfl
  | succ g ih => rw [Vec.setGroup, ih]

theorem Vec.putElems_eq (v : Vec) (n g ew : Nat) (xs : List (Option Nat)) :
    v.putElems n g ew xs = { v with v := (v.putElems n g ew xs).v } := Vec.setGroup_eq _ _ _ _

theorem zipIdx_map_getElem? {α β : Type} (l : List α) (f : α × Nat → β) (i : Nat) :
    (l.zipIdx.map f)[i]? = l[i]?.map fun a => f (a, i) := by
  simp [List.getElem?_map, List.getElem?_zipIdx, Option.map_map, Function.comp_def]

/-- All that writing elements does (R273). -/
theorem Vec.putElems_elemsAre (v : Vec) (d g : Nat) {ew : Nat} (hw : 0 < ew) (xs : List (Option Nat)) :
    ElemsAre v.v (v.putElems d g ew xs).v d g ew xs := by
  constructor
  · intro b hb
    have hlt := packElems_lt ew (xs.zipIdx.map fun (x, k) => x.getD (fld (v.group d g) (ew * k) ew))
    simp only [List.length_map, List.length_zipIdx] at hlt
    unfold Vec.putElems
    rw [Vec.setGroup_bit _ _ _ _ _ hb]
    unfold withElems
    simp only [Nat.shiftLeft_eq]
    rw [Nat.mul_comm, Nat.testBit_two_pow_mul_add _ hlt]
    by_cases hx : b < ew * xs.length
    · rw [if_pos hx, testBit_packElems hw, zipIdx_map_getElem?]
      have hk : b / ew < xs.length := Nat.div_lt_of_lt_mul hx
      rw [List.getElem?_eq_getElem hk]
      simp only [Option.map_some]
      cases he : xs[b / ew] with
      | some y => simp
      | none =>
        have : ew * (b / ew) + b % ew = b := Nat.div_add_mod b ew
        simp only [Option.getD_none, fld]
        rw [Nat.testBit_mod_two_pow, Nat.testBit_shiftRight, this, Vec.testBit_group]
        simp [Nat.mod_lt _ hw, hb]
    · have hk : xs[b / ew]? = none := by
        rw [List.getElem?_eq_none]
        exact (Nat.le_div_iff_mul_le hw).mpr (by rw [Nat.mul_comm]; omega)
      rw [if_neg hx, hk, Nat.testBit_shiftRight, Vec.testBit_group]
      have : ew * xs.length + (b - ew * xs.length) = b := by omega
      simp [this, hb]
  · intro n hn
    exact Vec.setGroup_other v d g _ n hn

/-- All that writing the bits of a mask register below VL does (R273). -/
theorem Vec.setM_maskIs (v : Vec) (d x : Nat) :
    MaskIs v.m (v.setM d x).m d ((upto v.vlN).map x.testBit) := by
  constructor
  · intro k hk
    have hlen : ∀ lo n, (rangeFrom lo n).length = n := by
      intro lo n; induction n generalizing lo with
      | zero => rfl
      | succ n ih => simp [rangeFrom, ih]
    have hget : ∀ lo n i, (rangeFrom lo n)[i]? = if i < n then some (lo + i) else none := by
      intro lo n; induction n generalizing lo with
      | zero => intro i; simp [rangeFrom]
      | succ n ih =>
        intro i; cases i with
        | zero => simp [rangeFrom]
        | succ i => simp [rangeFrom, ih]; congr 2; omega
    simp only [Vec.setM, Tab.get_set_same, BitVec.getLsbD_ofNat, hk, decide_true, Bool.true_and, Nat.shiftLeft_eq]
    rw [Nat.mul_comm, Nat.testBit_two_pow_mul_add _ (Nat.mod_lt _ (Nat.two_pow_pos _)), List.getElem?_map, upto, hget]
    by_cases h : k < v.vlN
    · simp [h, Nat.testBit_mod_two_pow]
    · have : v.vlN + (k - v.vlN) = k := by omega
      simp [h, Nat.testBit_shiftRight, this, Vec.mreg, BitVec.getLsbD]
  · intro n hn
    exact Tab.get_set_other _ _ hn _

theorem Vec.setM_eq (v : Vec) (d x : Nat) : v.setM d x = { v with m := (v.setM d x).m } := rfl

end Sys2Proof.Machine
end

