-- ==== Sys2Proof/Tests/Slice0.lean ====
section
/-! SUPPORT. Tests: the checks of well-formed operands, witnesses of the hypotheses of the statements, and small steps whose
results are taken from the spec's own rules. -/

namespace Sys2Proof.Tests

-- The theorems below are elaborated one after another, so that their kernel checks do not wait for each other in threads of their own.
set_option Elab.async false

open Sys2Proof Sys2Proof.Machine

/-! ### Small states -/

/-- `n` words of a descriptor: those named at their numbers, the others 0. -/
def wordsAt (n : Nat) (l : List (Nat × Nat)) : List Nat := (upto n).map fun k => ((l.find? fun e => e.1 == k).map (·.2)).getD 0

/-- Memory with bytes from an address up. -/
def memAt (a : Nat) (bs : List Byte) : List (Nat × Byte) := bytesFrom a bs

/-- A window of all HBM and more, with every permission. -/
def win : BitVec 256 := BitVec.ofNat 256 (2 ^ 46 * 2 ^ 64 + 2 ^ 128 + 2 ^ 129 + 2 ^ 131)

/-- A job with that window that holds core 0, and has key 7. -/
def job0 : Job := { ring := 0, entry := 0x8000, desc := BitVec.ofNat 1536 (7 * 2 ^ 32), wins := [win], cores := [0] }

/-- The descriptor of gang 0, of cores 0 and 1, with SPLIT 0. -/
def gang01 : BitVec 512 := BitVec.ofNat 512 (2 ^ 14 + 2 * 2 ^ 16 + 2 ^ 272)

/-- A state whose job 0 runs, with a core 0, an interface of it and memory. -/
def st (k : Core) (x : Iface) (m : List (Nat × Byte)) : State :=
  { State.reset with
    mem := ⟨m⟩
    jobs := ⟨[(0, some job0)]⟩
    cores := ⟨[(0, { k with ifc := { x with job := some 0, top := true } })]⟩ }

/-- A state whose job 0 runs on gang 0, of cores 0 and 1. -/
def gst (x : Iface) : State :=
  { st {} {} [] with jobs := ⟨[(0, some { job0 with cores := [0, 1], gangs := [gang01], gangSt := ⟨[(0, { x with job := some 0, top := true })]⟩ })]⟩ }

/-! ### Vector programs -/

/-- The run of a program of core 0. -/
def run0 : VRun := { owner := .core 0, idx := 0, gang := false }

/-- Core 0 runs a program whose one word is `w`. -/
def vst (w : Nat) (v : Vec) (m : List (Nat × Byte)) (x : VRun) : State :=
  st { vec := { v with prog := 0x1000, run := some x } } {} (memAt 0x1000 (leBytes 4 w) ++ m)

/-- What `VecAt` says, as a test. -/
def atWord (s : State) (x : VRun) (w : Nat) : Bool :=
  decide ((s.core 0).vec.run = some x) && !s.darns (.vector 0) &&
  decide (s.denied (.core 0) false .fetch (instrAddr (s.core 0).vec x) 4 = none) && s.natAt (instrAddr (s.core 0).vec x) 4 == w

theorem vecAt_of {s : State} {x : VRun} {w : Nat} (h : atWord s x w = true) : VecAt s 0 x w := by
  simp only [atWord, Bool.and_eq_true, decide_eq_true_eq, Bool.not_eq_true', beq_iff_eq] at h
  exact ⟨h.1.1.1, h.1.1.2, h.1.2, h.2⟩

/-- An instruction word from its fields. -/
def word (opc d a b mk fn : Nat) : Nat := opc + d * 2 ^ 7 + a * 2 ^ 12 + b * 2 ^ 17 + mk * 2 ^ 22 + fn * 2 ^ 25

/-- An engine with VL 4 in a format, one register to a group. -/
def vec4 (fmt : Nat) : Vec := { vl := 4, vtype := BitVec.ofNat 7 fmt }

/-- Some state in which core `c` runs word `w` has a property. -/
def VecWit (P : State → CoreRef → VRun → Nat → Prop) : Prop := ∃ s c x w, Quiet s ∧ VecAt s c x w ∧ P s c x w

theorem vecWit (w : Nat) (v : Vec) (m : List (Nat × Byte)) (x : VRun) {P : State → CoreRef → VRun → Nat → Prop}
    (h : atWord (vst w v m x) x w = true) (hp : P (vst w v m x) 0 x w) : VecWit P :=
  ⟨_, 0, x, w, ⟨rfl, rfl⟩, vecAt_of h, hp⟩

/-! ### Witnesses: streams -/

/-- A command from its words. -/
def cmd (ws : List Nat) : BitVec 256 := BitVec.ofNat 256 (leNat (bytesOf ws))

/-- Core 0 with a command at the head of a stream, and an engine state. -/
def cst (k : Core) (x : Iface) (t : Strm) (c : BitVec 256) (m : List (Nat × Byte)) : State :=
  st k (x.setStrm t { x.strm t with fetched := [c], count := 8 }) m

/-- What `HeadAt` says, as a test. -/
def atHead (s : State) (i : IfaceId) (t : Strm) (c : BitVec 256) : Bool :=
  s.open i t && !s.emptyGang i && (((s.ifc i).strm t).fetched == [c]) && (((s.ifc i).strm t).taken == some true ||
    (((s.ifc i).strm t).taken == none) && (s.ifc i).waitsMet (cmdWait c) && (s.ifc i).ahead t && !s.yields i t c && (s.ifc i).pred c)

theorem headAt_of {s : State} {i : IfaceId} {t : Strm} {c : BitVec 256} (h : atHead s i t c = true) : HeadAt s i t c := by
  simp only [atHead, Bool.and_eq_true, Bool.or_eq_true, Bool.not_eq_true', beq_iff_eq] at h
  refine ⟨h.1.1.1, h.1.1.2, h.1.2, h.2.imp id fun h => ?_⟩
  obtain ⟨⟨⟨⟨a, b⟩, d⟩, e⟩, g⟩ := h
  exact ⟨a, b, d, e, g⟩

/-- Some state with a command at a head has a property. -/
def HeadWit (P : State → IfaceId → Strm → BitVec 256 → Prop) : Prop := ∃ s i t c, Quiet s ∧ HeadAt s i t c ∧ P s i t c

theorem headWit (k : Core) (x : Iface) (t : Strm) (c : BitVec 256) (m : List (Nat × Byte)) {P : State → IfaceId → Strm → BitVec 256 → Prop}
    (h : atHead (cst k x t c m) (.core 0) t c = true) (hp : P (cst k x t c m) (.core 0) t c) : HeadWit P :=
  ⟨_, _, _, _, ⟨rfl, rfl⟩, headAt_of h, hp⟩

/-- A state with a command at a head and its job as given. -/
def jst (j : Job) (x : Iface) (t : Strm) (c : BitVec 256) (m : List (Nat × Byte)) : State :=
  { cst {} x t c m with jobs := ⟨[(0, some j)]⟩ }

theorem headWitJob (j : Job) (x : Iface) (t : Strm) (c : BitVec 256) (m : List (Nat × Byte))
    {P : State → IfaceId → Strm → BitVec 256 → Prop}
    (h : atHead (jst j x t c m) (.core 0) t c = true) (hp : P (jst j x t c m) (.core 0) t c) : HeadWit P :=
  ⟨_, _, _, _, ⟨rfl, rfl⟩, headAt_of h, hp⟩

/-- Tokens T0 = 1, T1 = 65,534. -/
def toks : Iface := { tokens := ⟨[(0, 1), (1, 65534)]⟩ }

/-- WAIT names T0 and SIG T1, which then stands at its end; and a fence with nothing, and with something, in flight. -/
theorem witness_ControlCommands :
    (HeadWit fun s i t c => SigsFit (s.ifc i) t c ∧ ∃ p ∈ atOnce, p.2 c = true) ∧
    (HeadWit fun s i t c => SigsFit (s.ifc i) t c ∧ cmdOp c = 0x03 ∧ ((s.ifc i).strm t).flight = []) ∧
    HeadWit fun s i t c => SigsFit (s.ifc i) t c ∧ cmdOp c = 0x03 ∧ (∀ f ∈ ((s.ifc i).strm t).flight, cmdOp f.cmd ≠ 0x03) ∧
      ((s.ifc i).strm t).flight ≠ [] :=
  ⟨headWit {} toks .exe (cmd [0, 1, 2]) [] (by decide +kernel)
    ⟨by unfold SigsFit; decide +kernel, _, .head _, by decide +kernel⟩,
   headWit {} toks .acc (cmd [3, 1, 2]) [] (by decide +kernel) (by unfold SigsFit; decide +kernel),
   headWit {} { toks with acc := { flight := [{ idx := 7, cmd := cmd [0x10] }] } } .acc (cmd [3]) [] (by decide +kernel)
    (by unfold SigsFit; decide +kernel)⟩

/-- A command under P1, which is false. -/
theorem witness_SkippedCommands : ∃ s i t c, Quiet s ∧ s.open i t = true ∧ ((s.ifc i).strm t).fetched = [c] ∧
    ((s.ifc i).strm t).taken = none ∧ (s.ifc i).waitsMet (cmdWait c) = true ∧ (s.ifc i).ahead t = true ∧ s.yields i t c = false ∧ (s.ifc i).pred c = false ∧
    SigsFit (s.ifc i) t c ∧ (cmdOp c = 0x10 ∧ cmdXop c = 0) ∧ t = .acc ∧
    (((s.ifc i).strm t).flight.all fun f => cmdOp f.cmd != 0x03 && !f.isAcquire) = true :=
  ⟨cst {} toks .acc (cmd [0x1010, 1, 2]) [], .core 0, .acc, cmd [0x1010, 1, 2], ⟨rfl, rfl⟩, by unfold SigsFit; decide +kernel⟩

/-- An entry with generation 5 in slot 0, one reference, and generation 4 in slot 1. -/
def gent : GenEnt := { base0 := 0, base1 := 0, size := 0, gen0 := 5, gen1 := 4, ref0 := 1, ref1 := 65534 }

def gjob : Job := { job0 with gens := [gent] }

def gspan : Span := { addr := 0, desc := 0, snap := ⟨⟨[]⟩, 1, 0, 0, 0, 0⟩, rung := 0 }

def GenWit (P : State → IfaceId → Strm → BitVec 256 → GenEnt → Prop) : Prop := HeadWit fun s i t c => ∃ e,
  (∀ f ∈ ((s.ifc i).strm t).flight, f.isAcquire = false) ∧ SigsFit (s.ifc i) t c ∧ s.genEnt i (cmdTarget c) = some e ∧ cmdForm c = 1 ∧ P s i t c e

theorem genWit (x : Iface) (c : BitVec 256) {P : State → IfaceId → Strm → BitVec 256 → GenEnt → Prop}
    (h : atHead (jst gjob x .acc c []) (.core 0) .acc c = true ∧ (x.acc.flight = [] ∧ SigsFit ((jst gjob x .acc c []).ifc (.core 0)) .acc c ∧
      (jst gjob x .acc c []).genEnt (.core 0) (cmdTarget c) = some gent) ∧ cmdForm c = 1)
    (hp : P (jst gjob x .acc c []) (.core 0) .acc c gent) : GenWit P :=
  headWitJob gjob x .acc c [] h.1 ⟨gent, fun f hf => absurd (h.2.1.1 ▸ hf : f ∈ []) nofun, h.2.1.2.1, h.2.1.2.2, h.2.2, hp⟩

theorem witness_GenerationReferences :
    (GenWit fun _ _ _ c e => ∃ sl, cmdOp c = 0x01 ∧ e.slotWith (fun g => g == BitVec.ofNat 32 (cmdGen c)) = some sl ∧
      e.retiring sl = false ∧ e.refs sl < 65535) ∧
    (GenWit fun s i _ c e => ∃ sl, cmdOp c = 0x02 ∧ e.slotWith (fun g => g == BitVec.ofNat 32 (cmdGen c)) = some sl ∧
      0 < e.refs sl ∧ (s.ifc i).span = none) ∧
    (GenWit fun s i _ c e => ∃ sl, cmdOp c = 0x02 ∧ e.slotWith (fun g => g == BitVec.ofNat 32 (cmdGen c)) = some sl ∧
      0 < e.refs sl ∧ (s.ifc i).span.isSome = true) ∧
    GenWit fun _ _ _ c e => cmdOp c = 0x01 ∧ e.slotWith (fun g => g == BitVec.ofNat 32 (cmdGen c)) = none ∧ e.current.toNat < cmdGen c :=
  ⟨genWit toks (cmd [1, 1, 2, 1, 4]) (by unfold SigsFit; decide +kernel) ⟨true, by decide +kernel⟩,
   genWit toks (cmd [2, 1, 2, 1, 5]) (by unfold SigsFit; decide +kernel) ⟨false, by decide +kernel⟩,
   genWit { toks with span := some gspan } (cmd [2, 1, 2, 1, 5]) (by unfold SigsFit; decide +kernel) ⟨false, by decide +kernel⟩,
   genWit toks (cmd [1, 1, 2, 1, 6]) (by unfold SigsFit; decide +kernel) (by decide +kernel)⟩

/-- An acquire of generation 4 in flight, in a span. -/
theorem witness_AcquireWaits : ∃ s i st f e sl, Quiet s ∧ ((s.ifc i).strm st).flight = [f] ∧ ((s.ifc i).strm st).fetched = [] ∧
    f.isAcquire = true ∧ f.preds = [] ∧ (s.ifc i).halted = false ∧ s.genEnt i (cmdTarget f.cmd) = some e ∧
    e.slotWith (fun g => g == BitVec.ofNat 32 (cmdGen f.cmd)) = some sl ∧ e.retiring sl = false ∧ e.refs sl < 65535 ∧
    (∀ n, n < 32 → bitOf (cmdSig f.cmd) n = true → (s.ifc i).tok n < 65535) ∧ (s.ifc i).span = some gspan :=
  let f : Flight := { idx := 5, cmd := cmd [1, 1, 2, 1, 4] }
  ⟨{ st {} { toks with acc := { flight := [f] }, span := some gspan } [] with jobs := ⟨[(0, some gjob)]⟩ }, .core 0, .acc, f, gent, true,
    ⟨rfl, rfl⟩, by decide +kernel⟩

/-- The interface's own counter T1, at 65,533 after SIG takes it to 65,534 and before it reaches its end. -/
theorem witness_RemoteSignals : HeadWit fun s i t c => ∃ tgt, SigsFit (s.ifc i) t c ∧ cmdOp c = 0x02 ∧ cmdForm c = 2 ∧
    s.remoteTarget i c = some tgt ∧ (s.ifc tgt).tok (cmdToken c) < 65535 ∧ tgt = i ∧ tokDone (s.ifc i) t c (cmdToken c) < 65535 :=
  headWit {} toks .acc (cmd [2, 1, 1, 2 + 2 ^ 16]) [] (by decide +kernel) ⟨.core 0, by unfold SigsFit; decide +kernel⟩

theorem witness_BackwardContributions : HeadWit fun s i t c => ∃ n j, SigsFit (s.ifc i) t c ∧ cmdOp c = 0x02 ∧ cmdForm c = 3 ∧
    s.jobNo i = some n ∧ s.job n = some j :=
  headWit {} toks .acc (cmd [2, 0, 0, 3]) [] (by decide +kernel) ⟨0, job0, by unfold SigsFit; decide +kernel⟩

/-! ### Witnesses: vector programs -/

theorem witness_ScalarIntegerResults : VecWit fun _ c _ w => ∃ p ∈ scalarInts, rowOf w c = some (p.1 c) ∧ wMk w = 0 :=
  vecWit (word 0x10 1 2 3 0 0) {} [] run0 (by decide +kernel) ⟨_, .head _, by decide +kernel⟩

theorem witness_ScalarFloatResults : VecWit fun _ c _ w => ∃ p ∈ scalarFloats, rowOf w c = some (p.1 c) ∧ wMk w = 0 :=
  vecWit (word 0x10 1 2 3 0 0x10) {} [] run0 (by decide +kernel) ⟨_, .head _, by decide +kernel⟩

theorem witness_ScalarConversionResults : VecWit fun _ c _ w => ∃ p ∈ scalarConversions, rowOf w c = some (p.1 c) ∧ wMk w = 0 :=
  vecWit (word 0x10 1 2 3 0 0x1A) {} [] run0 (by decide +kernel) ⟨_, .head _, by decide +kernel⟩

theorem witness_ScalarImmediateResults :
    (VecWit fun _ c _ w => rowOf w c = some (.slli c) ∧ fld w 26 6 = 0) ∧ VecWit fun _ c _ w => rowOf w c = some (.scalarUpper c) :=
  ⟨vecWit (word 0x11 1 2 4 0 0 + 63 * 2 ^ 20) {} [] run0 (by decide +kernel) (by decide +kernel),
   vecWit (word 0x12 1 0 0 0 0x40) {} [] run0 (by decide +kernel) (by decide +kernel)⟩

theorem witness_BranchAndJumpTargets :
    (VecWit fun _ c _ w => ∃ p ∈ branchTests, rowOf w c = some (p.1 c)) ∧ (VecWit fun _ c _ w => rowOf w c = some (.jump c)) ∧
    VecWit fun _ c _ w => rowOf w c = some (.jumpRegister c) ∧ wMk w = 0 :=
  ⟨vecWit (word 0x30 1 2 0 0 0) {} [] run0 (by decide +kernel) ⟨_, .head _, by decide +kernel⟩,
   vecWit (word 0x31 1 0 0 0 0) {} [] run0 (by decide +kernel) (by decide +kernel),
   vecWit (word 0x10 1 2 0 0 0x1F) {} [] run0 (by decide +kernel) (by decide +kernel)⟩

/-- FP32 and INT32 programs, VV and VS. -/
theorem witness_VectorElementResults :
    (VecWit fun s c _ w => ∃ p ∈ elemRows, rowOf w c = some (p.row c) ∧ elemLegal (s.core c).vec w p.ints p.one) ∧
    VecWit fun s c _ w => ∃ p ∈ elemRows, rowOf w c = some (p.row c) ∧ elemLegal (s.core c).vec w p.ints p.one :=
  ⟨vecWit (word 0x01 1 2 3 0 0) (vec4 1) [] run0 (by decide +kernel) ⟨_, .head _, by decide +kernel, by unfold elemLegal; decide +kernel⟩,
   vecWit (word 0x02 31 31 31 7 0) (vec4 0x0D) [] run0 (by decide +kernel) ⟨_, .head _, by decide +kernel, by unfold elemLegal; decide +kernel⟩⟩

theorem witness_VectorBitResults :
    (VecWit fun s c _ w => let v := (s.core c).vec
      groupOk (wD w) v.grp = true ∧ groupOk (wA w) v.grp = true ∧ ∃ p ∈ bitRows, rowOf w c = some (p.1 c) ∧ v.fmtCode = 0x0C ∧
        groupOk (wB w) v.grp = true) ∧
    (VecWit fun s c _ w => let v := (s.core c).vec
      groupOk (wD w) v.grp = true ∧ groupOk (wA w) v.grp = true ∧ rowOf w c = some (.vmov c) ∧ wB w = 0) ∧
    VecWit fun s c _ w => let v := (s.core c).vec
      groupOk (wD w) v.grp = true ∧ groupOk (wA w) v.grp = true ∧ rowOf w c = some (.vmerge c) ∧ wMk w ≠ 0 ∧
        (wOpc w = 0x02 ∨ groupOk (wB w) v.grp = true) :=
  ⟨vecWit (word 0x01 1 2 3 0 0x18) (vec4 0x0C) [] run0 (by decide +kernel)
    ⟨by decide +kernel, by decide +kernel, _, .head _, by decide +kernel⟩,
   vecWit (word 0x01 1 2 0 0 0x0E) (vec4 1) [] run0 (by decide +kernel) (by decide +kernel),
   vecWit (word 0x01 1 2 3 1 0x0F) (vec4 1) [] run0 (by decide +kernel) (by decide +kernel)⟩

theorem witness_MaskResults :
    (VecWit fun s c _ w => let v := (s.core c).vec
      ∃ p ∈ cmpRows, rowOf w c = some (p.1 c) ∧ v.fmtCode ≤ 3 ∧ wD w < 8 ∧ groupOk (wA w) v.grp = true ∧ groupOk (wB w) v.grp = true) ∧
    (VecWit fun _ c _ w => wMk w = 0 ∧ wA w < 8 ∧ wB w < 8 ∧ ∃ p ∈ maskRows, rowOf w c = some (p.1 c) ∧ wD w < 8) ∧
    (VecWit fun _ c _ w => wMk w = 0 ∧ wA w < 8 ∧ wB w < 8 ∧ rowOf w c = some (.mnot c) ∧ wD w < 8 ∧ wB w = 0) ∧
    (VecWit fun _ c _ w => wMk w = 0 ∧ wA w < 8 ∧ wB w < 8 ∧ rowOf w c = some (.mset c) ∧ wD w < 8 ∧ wA w = 0 ∧ wB w = 0) ∧
    (VecWit fun _ c _ w => wMk w = 0 ∧ wA w < 8 ∧ wB w < 8 ∧ rowOf w c = some (.mpop c)) ∧
    VecWit fun _ c _ w => wMk w = 0 ∧ wA w < 8 ∧ wB w < 8 ∧ rowOf w c = some (.mfirst c) :=
  ⟨vecWit (word 0x01 7 2 3 0 0x10) (vec4 1) [] run0 (by decide +kernel) ⟨_, .head _, by decide +kernel⟩,
   vecWit (word 0x03 7 7 7 0 0) (vec4 1) [] run0 (by decide +kernel) (by refine ⟨?_, ?_, ?_, _, .head _, ?_⟩ <;> decide +kernel),
   vecWit (word 0x03 1 2 0 0 4) (vec4 1) [] run0 (by decide +kernel) (by decide +kernel),
   vecWit (word 0x03 1 0 0 0 7) (vec4 1) [] run0 (by decide +kernel) (by decide +kernel),
   vecWit (word 0x03 1 2 0 0 5) (vec4 1) [] run0 (by decide +kernel) (by decide +kernel),
   vecWit (word 0x03 1 2 0 0 6) (vec4 1) [] run0 (by decide +kernel) (by decide +kernel)⟩

theorem witness_ReductionResults :
    (VecWit fun s c _ w => let v := (s.core c).vec
      ∃ p ∈ redRows, rowOf w c = some (p.1 c) ∧ v.fmtCode = 1 ∧ groupOk (wA w) v.grp = true ∧ 0 < v.vlN ∧ v.fmt.isInt = false) ∧
    (VecWit fun s c _ w => let v := (s.core c).vec
      ∃ p ∈ redRows, rowOf w c = some (p.1 c) ∧ v.fmtCode = 0x0D ∧ groupOk (wA w) v.grp = true ∧ 0 < v.vlN ∧ v.fmt.isInt = true) ∧
    VecWit fun s c _ w => let v := (s.core c).vec
      ∃ p ∈ redRows, rowOf w c = some (p.1 c) ∧ v.fmtCode = 1 ∧ groupOk (wA w) v.grp = true ∧ v.vlN = 0 :=
  ⟨vecWit (word 0x01 1 2 0 0 0x20) (vec4 1) [] run0 (by decide +kernel) ⟨_, .head _, by decide +kernel⟩,
   vecWit (word 0x01 1 2 0 0 0x20) (vec4 0x0D) [] run0 (by decide +kernel) ⟨_, .head _, by decide +kernel⟩,
   vecWit (word 0x01 1 2 0 0 0x20) { vtype := 1 } [] run0 (by decide +kernel) ⟨_, .head _, by decide +kernel⟩⟩

theorem witness_SegmentResults : VecWit fun s c _ w => let v := (s.core c).vec
    ∃ p ∈ segRows, rowOf w c = some (p.1 c) ∧ v.fmtCode ≤ 3 ∧ groupOk (wD w) v.grp = true ∧ groupOk (wA w) v.grp = true :=
  vecWit (word 0x01 1 2 0 1 0x24) (vec4 1) [] run0 (by decide +kernel) ⟨_, .head _, by decide +kernel⟩

/-- The index within and at VL, and no element at all; and a valid slot. -/
theorem witness_ExtractAndInterpolate :
    (VecWit fun s c _ w => let v := (s.core c).vec
      groupOk (wA w) v.grp = true ∧ rowOf w c = some (.vext c) ∧ v.vlN = 0) ∧
    (VecWit fun s c _ w => let v := (s.core c).vec
      groupOk (wA w) v.grp = true ∧ rowOf w c = some (.vext c) ∧ (sval v (wB w)).toNat < v.vlN ∧ v.active (wMk w) (sval v (wB w)).toNat = false) ∧
    (VecWit fun s c _ w => let v := (s.core c).vec
      groupOk (wA w) v.grp = true ∧ rowOf w c = some (.vext c) ∧ 0 < v.vlN ∧ (sval v (wB w)).toNat < v.vlN ∧
        v.active (wMk w) (sval v (wB w)).toNat = true) ∧
    (VecWit fun s c _ w => let v := (s.core c).vec
      groupOk (wA w) v.grp = true ∧ rowOf w c = some (.vext c) ∧ 0 < v.vlN ∧ (sval v (wB w)).toNat = v.vlN) ∧
    VecWit fun s c _ w => let v := (s.core c).vec
      groupOk (wA w) v.grp = true ∧ rowOf w c = some (.vinterp c) ∧ v.fmtCode = 1 ∧ groupOk (wD w) v.grp = true ∧ wB w < 4 ∧
        (v.tbl.get {} (wB w)).valid = true :=
  ⟨vecWit (word 0x02 1 2 3 0 0x38) { vtype := 1 } [] run0 (by decide +kernel) (by decide +kernel),
   vecWit (word 0x02 1 2 3 1 0x38) (vec4 1) [] run0 (by decide +kernel) (by decide +kernel),
   vecWit (word 0x02 1 2 3 0 0x38) { vec4 1 with s := ⟨[(3, 3)]⟩ } [] run0 (by decide +kernel) (by decide +kernel),
   vecWit (word 0x02 1 2 3 0 0x38) { vec4 1 with s := ⟨[(3, 4)]⟩ } [] run0 (by decide +kernel) (by decide +kernel),
   vecWit (word 0x01 1 2 3 0 0x30) { vec4 1 with tbl := ⟨[(3, { valid := true })]⟩ } [] run0 (by decide +kernel) (by decide +kernel)⟩

theorem witness_ConvertResults : VecWit fun s c _ w => let v := (s.core c).vec
    let n := cvtRegs v (fmtOf (wFn w - 0x40))
    rowOf w c = some (.vcvt c) ∧ v.fmtCode ≤ 5 ∧ n ≤ 8 ∧ groupOk (wD w) n = true ∧ groupOk (wA w) v.grp = true ∧ wD w + n ≤ wA w :=
  vecWit (word 0x01 1 2 0 0 0x42) (vec4 1) [] run0 (by decide +kernel) (by decide +kernel)

theorem witness_PackAndUnpack :
    (VecWit fun s c _ w => let v := (s.core c).vec
      let n := v.arrayRegs (fmtOf (wFn w - 0x50)).width
      v.fmtCode ≤ 3 ∧ rowOf w c = some (.vpack c) ∧ groupOk (wD w) n = true ∧ groupOk (wA w) v.grp = true ∧ wD w + n ≤ wA w ∧
        wA w + v.grp ≤ wB w ∧ v.supplied = true) ∧
    VecWit fun s c _ w => let v := (s.core c).vec
      let n := v.arrayRegs (fmtOf (wFn w - 0x60)).width
      v.fmtCode ≤ 3 ∧ rowOf w c = some (.vunpack c) ∧ groupOk (wD w) v.grp = true ∧ groupOk (wA w) n = true ∧ wD w + v.grp ≤ wA w ∧
        wD w + v.grp ≤ wB w :=
  ⟨vecWit (word 0x01 1 2 3 0 0x56) { vec4 1 with cvtCtl := BitVec.ofNat 64 (2 ^ 34) } [] run0 (by decide +kernel) (by decide +kernel),
   vecWit (word 0x01 1 2 3 0 0x66) (vec4 1) [] run0 (by decide +kernel) (by decide +kernel)⟩

/-- The image of a Press table whose header keeps R132, as bytes: x0 = 0, x1 = 1, the rest 0. -/
def image : List (Nat × Byte) := [(0x2000 + 6, 0x80#8), (0x2000 + 7, 0x3F#8)]

theorem witness_SystemInstructions :
    (VecWit fun _ c _ w => rowOf w c = some (.setvl c) ∧ wB w < 16 ∧ fld w 24 1 = 0) ∧
    (VecWit fun s c _ w => rowOf w c = some (.cvtset c) ∧ wD w = 0 ∧ wMk w = 0 ∧ (sval (s.core c).vec (wA w)).toNat < 2 ^ 35) ∧
    (VecWit fun _ c _ w => rowOf w c = some (.psetp c) ∧ wD w < 16) ∧ (VecWit fun _ c _ w => rowOf w c = some (.vcond c)) ∧
    (VecWit fun _ c _ w => rowOf w c = some (.vlen c)) ∧
    VecWit fun s c _ w => let a := (sval (s.core c).vec (wA w)).toNat
      rowOf w c = some (.vtbl c) ∧ wD w < 4 ∧ accessOk s c .read 1 a 4128 ∧ tableGood (leWords (s.bytesAt a 4128)) = true :=
  ⟨vecWit (word 0x3F 1 2 15 3 1) {} [] run0 (by decide +kernel) (by decide +kernel),
   vecWit (word 0x3F 0 2 3 0 2) {} [] run0 (by decide +kernel) (by decide +kernel),
   vecWit (word 0x3F 15 2 0 0 3) {} [] run0 (by decide +kernel) (by decide +kernel),
   vecWit (word 0x3F 1 0 0 0 4) {} [] run0 (by decide +kernel) (by decide +kernel),
   vecWit (word 0x3F 1 0 0 0 6) {} [] run0 (by decide +kernel) (by decide +kernel),
   vecWit (word 0x3F 3 2 0 0 5) { s := ⟨[(2, 0x2000)]⟩ } image run0 (by decide +kernel) (by unfold accessOk; decide +kernel)⟩

theorem witness_VectorLoads :
    (VecWit fun s c _ w => let v := (s.core c).vec
      groupOk (wD w) v.grp = true ∧ 8 ≤ v.ew ∧ rowOf w c = some (.vld c) ∧ 0 < v.vlN ∧
        ∀ k < v.vlN, v.active (wMk w) k = true → accessOk s c .read (v.ew / 8) (stridedAddr v w k) (v.ew / 8)) ∧
    (VecWit fun s c _ w => let v := (s.core c).vec
      groupOk (wD w) v.grp = true ∧ 8 ≤ v.ew ∧ rowOf w c = some (.vldx c) ∧ v.runOk w = true ∧
        overlapBad (wD w) v.grp (wB w) v.runRegs = false ∧
        ∀ k < v.vlN, v.active (wMk w) k = true → accessOk s c .read (v.ew / 8) (indexedAddr v w k) (v.ew / 8)) ∧
    VecWit fun s c _ w => rowOf w c = some (.sld c) ∧
      accessOk s c .read (2 ^ wFn3 w) (scalarAddr (s.core c).vec w) (2 ^ wFn3 w) :=
  ⟨vecWit (word 0x20 1 2 0 0 0) { vec4 1 with s := ⟨[(2, 0x2000)]⟩ } [] run0 (by decide +kernel) (by unfold accessOk; decide +kernel),
   vecWit (word 0x22 1 2 3 0 0) { vec4 1 with s := ⟨[(2, 0x2000)]⟩ } [] run0 (by decide +kernel) (by unfold accessOk; decide +kernel),
   vecWit (word 0x26 1 2 3 0 0) { s := ⟨[(2, 0x2000)]⟩ } [] run0 (by decide +kernel) (by unfold accessOk; decide +kernel)⟩

theorem witness_VectorStores :
    (VecWit fun s c _ w => let v := (s.core c).vec
      groupOk (wD w) v.grp = true ∧ 8 ≤ v.ew ∧ rowOf w c = some (.vst c) ∧ 0 < v.vlN ∧
        ∀ k < v.vlN, v.active (wMk w) k = true → accessOk s c .write (v.ew / 8) (stridedAddr v w k) (v.ew / 8)) ∧
    (VecWit fun s c _ w => let v := (s.core c).vec
      groupOk (wD w) v.grp = true ∧ 8 ≤ v.ew ∧ rowOf w c = some (.vstx c) ∧ v.runOk w = true ∧
        ∀ k < v.vlN, v.active (wMk w) k = true → accessOk s c .write (v.ew / 8) (indexedAddr v w k) (v.ew / 8)) ∧
    VecWit fun s c _ w => rowOf w c = some (.sst c) ∧
      accessOk s c .write (2 ^ wFn3 w) (scalarAddr (s.core c).vec w) (2 ^ wFn3 w) :=
  ⟨vecWit (word 0x21 1 2 0 0 0) { vec4 1 with s := ⟨[(2, 0x2000)]⟩ } [] run0 (by decide +kernel) (by unfold accessOk; decide +kernel),
   vecWit (word 0x23 1 2 3 0 0) { vec4 1 with s := ⟨[(2, 0x2000)]⟩ } [] run0 (by decide +kernel) (by unfold accessOk; decide +kernel),
   vecWit (word 0x27 1 2 3 0 0) { s := ⟨[(2, 0x2000)]⟩ } [] run0 (by decide +kernel) (by unfold accessOk; decide +kernel)⟩

theorem witness_PackedArrays :
    (VecWit fun s c _ w => let v := (s.core c).vec
      let a := (sval v (wA w)).toNat
      v.ew < 8 ∧ groupOk (wD w) v.grp = true ∧ wB w = 0 ∧ a < 2 ^ 61 ∧ rowOf w c = some (.vld c) ∧
        ∀ b ∈ (upto ((v.vlN * v.ew + 7) / 8)).filter (packedHolds v w), accessOk s c .read 1 (a + b) 1) ∧
    VecWit fun s c _ w => let v := (s.core c).vec
      let a := (sval v (wA w)).toNat
      v.ew < 8 ∧ groupOk (wD w) v.grp = true ∧ wB w = 0 ∧ a < 2 ^ 61 ∧ rowOf w c = some (.vst c) ∧
        ∀ b ∈ (upto ((v.vlN * v.ew + 7) / 8)).filter (packedHolds v w), accessOk s c .write 1 (a + b) 1 :=
  ⟨vecWit (word 0x20 1 2 0 0 0) { vec4 10 with s := ⟨[(2, 0x2001)]⟩ } [] run0 (by decide +kernel) (by unfold accessOk; decide +kernel),
   vecWit (word 0x21 1 2 0 0 0) { vec4 10 with s := ⟨[(2, 0x2001)]⟩ } [] run0 (by decide +kernel) (by unfold accessOk; decide +kernel)⟩

/-- An entry of a data queue. -/
def ent : QEnt := { data := List.replicate 512 1, last := false }

/-- The state of `vst` with entries in a data queue. -/
def qst (w : Nat) (v : Vec) (q : Nat) (l : List QEnt) : State :=
  let s := vst w v [] run0
  s.setCore 0 { s.core 0 with dq := ⟨[(q, l)]⟩ }

theorem witness_VectorQueueInstructions :
    (∃ s c x w, Quiet s ∧ VecAt s c x w ∧ x.gang = false ∧ let v := (s.core c).vec
      let n := (v.vlN * v.ew + 7) / 8
      let l := dqOf (s.core c) (wA w)
      0 < n ∧ groupOk (wD w) v.grp = true ∧ rowOf w c = some (.vqpop c) ∧ wA w < 2 ∧ (∀ e ∈ l, e.data.length = 512) ∧
        x.off1 + n ≤ 512 * (l.take 64).length) ∧
    VecWit fun s c x w => x.gang = false ∧ let v := (s.core c).vec
      let n := (v.vlN * v.ew + 7) / 8
      0 < n ∧ groupOk (wD w) v.grp = true ∧ rowOf w c = some (.vqpush c) ∧ wA w = 2 ∧ wMk w = 0 ∧
        (dqOf (s.core c) 2).length ≤ 64 ∧ noTaker s c 2 :=
  ⟨⟨qst (word 0x24 1 1 0 0 0) (vec4 1) 1 [ent], 0, run0, word 0x24 1 1 0 0 0, ⟨rfl, rfl⟩, vecAt_of (by decide +kernel), rfl, by decide +kernel⟩,
   vecWit (word 0x25 1 2 0 0 0) (vec4 1) [] run0 (by decide +kernel) (by unfold noTaker; decide +kernel)⟩

/-- The last bytes of an entry of queue 1, and, with VL 0, none of an empty queue 0. -/
theorem witness_QueuePopCompletes :
    (∃ s c x w, Quiet s ∧ VecAt s c x w ∧ rowOf w c = some (.vqpop c) ∧ x.gang = false ∧ wA w = 1 ∧ let v := (s.core c).vec
      let n := (v.vlN * v.ew + 7) / 8
      groupOk (wD w) v.grp = true ∧ 0 < n ∧ x.off1 + n = 512 * ((dqOf (s.core c) (wA w)).take 64).length) ∧
    VecWit fun s c x w => rowOf w c = some (.vqpop c) ∧ x.gang = false ∧ wA w < 2 ∧ let v := (s.core c).vec
      groupOk (wD w) v.grp = true ∧ (v.vlN * v.ew + 7) / 8 = 0 :=
  let w := word 0x24 1 1 0 0 0
  let x := { run0 with off1 := 496 }
  let s := vst w (vec4 1) [] x
  ⟨⟨s.setCore 0 { s.core 0 with dq := ⟨[(1, [ent])]⟩ }, 0, x, w, ⟨rfl, rfl⟩, vecAt_of (by decide +kernel), by decide +kernel⟩,
   vecWit (word 0x24 1 0 0 0 0) { vtype := 1 } [] run0 (by decide +kernel) (by decide +kernel)⟩

/-- The last entry that queue 2 has room for, under a mask; and nothing, to a full queue 3. -/
theorem witness_QueuePushCompletes :
    (∃ s c x w, Quiet s ∧ VecAt s c x w ∧ rowOf w c = some (.vqpush c) ∧ x.gang = false ∧ wA w = 2 ∧ let v := (s.core c).vec
      let n := (v.vlN * v.ew + 7) / 8
      groupOk (wD w) v.grp = true ∧ 0 < n ∧ wMk w ≠ 0 ∧ (dqOf (s.core c) 2).length + (x.push2.length + n) / 512 = 64 ∧ noTaker s c 2) ∧
    ∃ s c x w, Quiet s ∧ VecAt s c x w ∧ rowOf w c = some (.vqpush c) ∧ x.gang = false ∧ wA w = 3 ∧ let v := (s.core c).vec
      groupOk (wD w) v.grp = true ∧ (v.vlN * v.ew + 7) / 8 = 0 ∧ noTaker s c 3 :=
  let w := word 0x25 1 2 0 1 0
  let x := { run0 with push2 := List.replicate 496 7 }
  let s := vst w (vec4 1) [] x
  ⟨⟨s.setCore 0 { s.core 0 with dq := ⟨[(2, List.replicate 63 ent)]⟩ }, 0, x, w, ⟨rfl, rfl⟩, vecAt_of (by decide +kernel),
      by unfold noTaker; decide +kernel⟩,
   ⟨qst (word 0x25 1 3 0 0 0) { vtype := 1 } 3 (List.replicate 64 ent), 0, run0, word 0x25 1 3 0 0 0, ⟨rfl, rfl⟩, vecAt_of (by decide +kernel),
      by unfold noTaker; decide +kernel⟩⟩

theorem witness_ProgramEnds :
    (VecWit fun s c x w => rowOf w c = some (.vend c) ∧ fld w 7 18 = 0 ∧ x.owner = .core c ∧ x.gang = false ∧ (s.core c).subs = [] ∧
      x.pop0 ≠ some false ∧ x.pop1 ≠ some false ∧ x.push2 ≠ [] ∧ x.any2 = true ∧ (dqOf (s.core c) 2).length < 64 ∧ noTaker s c 2 ∧ x.any3 = false ∧
      x.push3 = []) ∧
    VecWit fun s c x w => rowOf w c = some (.vend c) ∧ fld w 7 18 = 0 ∧ x.owner = .core c ∧ x.gang = false ∧ (s.core c).subs = [] ∧
      x.pop0 ≠ some false ∧ x.pop1 ≠ some false ∧ x.push2 = [] ∧ x.any2 = false ∧ x.push3 = [] ∧ x.any3 = true ∧ noTaker s c 3 :=
  ⟨vecWit (word 0x3F 0 0 0 0 0) {} [] { run0 with push2 := [1], any2 := true } (by decide +kernel) (by unfold noTaker; decide +kernel),
   vecWit (word 0x3F 0 0 0 0 0) {} [] { run0 with any3 := true } (by decide +kernel) (by unfold noTaker; decide +kernel)⟩

theorem witness_InstructionRestarts : ∃ s c, Quiet s ∧ (s.core c).vec.run ≠ none := ⟨vst 0 {} [] run0, 0, ⟨rfl, rfl⟩, by decide +kernel⟩

/-- A reserved word, and the illegal fields of each row named. -/
theorem witness_IllegalInstructionStops :
    (VecWit fun s c x w => x.owner = .core c ∧ x.conds = {} ∧ (s.ifc (.core c)).halted = false ∧
      (∀ f ∈ (s.ifc (.core c)).exe.flight, f.conds = {}) ∧ rowOf w c = none) ∧
    (VecWit fun s c _ w => rowOf w c = some (.vadd c) ∧ groupOk (wD w) (s.core c).vec.grp = false) ∧
    (VecWit fun _ c _ w => rowOf w c = some (.vmov c) ∧ wB w ≠ 0) ∧
    (VecWit fun s c _ w => rowOf w c = some (.vld c) ∧ groupOk (wD w) (s.core c).vec.grp = false) ∧
    (VecWit fun _ c _ w => rowOf w c = some (.add c) ∧ wMk w ≠ 0) ∧ (VecWit fun _ c _ w => rowOf w c = some (.mand c) ∧ 8 ≤ wA w) ∧
    (VecWit fun _ c _ w => rowOf w c = some (.setvl c) ∧ 16 ≤ wB w) ∧ VecWit fun _ c _ w => rowOf w c = some (.vend c) ∧ fld w 7 18 ≠ 0 :=
  ⟨vecWit 0x7F {} [] run0 (by decide +kernel) (by decide +kernel),
   vecWit (word 0x01 1 2 2 0 0) { vtype := 0x21 } [] run0 (by decide +kernel) (by decide +kernel),
   vecWit (word 0x01 1 2 1 0 0x0E) {} [] run0 (by decide +kernel) (by decide +kernel),
   vecWit (word 0x20 1 2 0 0 0) { vtype := 0x21 } [] run0 (by decide +kernel) (by decide +kernel),
   vecWit (word 0x10 1 2 3 1 0) {} [] run0 (by decide +kernel) (by decide +kernel),
   vecWit (word 0x03 1 8 2 0 0) {} [] run0 (by decide +kernel) (by decide +kernel),
   vecWit (word 0x3F 1 2 16 0 1) {} [] run0 (by decide +kernel) (by decide +kernel),
   vecWit (word 0x3F 1 0 0 0 0) {} [] run0 (by decide +kernel) (by decide +kernel)⟩

/-! ### Witnesses: layer spans -/

theorem tok_none {x : Iface} (h : x.tokens = ⟨[]⟩) (n : Nat) : x.tok n < 65000 := by
  unfold Iface.tok; rw [h]; show (0#16).toNat < 65000; decide

/-- Both streams of core 0 at LAYER_BEGIN of a descriptor at 0x2000, in a job as given. -/
def lst (j : Job) (m : List (Nat × Byte)) : State :=
  let q : Stream := { fetched := [cmd [4, 0, 0, 0x2000]], count := 8 }
  { st {} { acc := q, exe := q } m with jobs := ⟨[(0, some j)]⟩ }

def atLayer (s : State) (i : IfaceId) (ca cx : BitVec 256) : Bool :=
  atHead s i .acc ca && atHead s i .exe cx && (cmdOp ca == 4) && (cmdOp cx == 4) && (cmdAddr ca == cmdAddr cx) && (s.ifc i).quiet &&
  (s.ifc i).tokens == ⟨[]⟩

theorem atLayerBegin_of {s : State} {i : IfaceId} {ca cx : BitVec 256} (h : atLayer s i ca cx = true) : atLayerBegin s i ca cx := by
  simp only [atLayer, Bool.and_eq_true, beq_iff_eq] at h
  refine ⟨headAt_of h.1.1.1.1.1.1, headAt_of h.1.1.1.1.1.2, h.1.1.1.1.2, h.1.1.1.2, h.1.1.2, h.1.2, tok_none h.2⟩

/-- A layer descriptor: identity 1, MAX_RUNG 5, some patches at 0x4000, record at 0x3000. -/
def ldesc (patches : Nat) : List (Nat × Byte) := memAt 0x2000 (leBytes 32 (1 + 5 * 2 ^ 12 + patches * 2 ^ 16 + 0x3000 * 2 ^ 64 + 0x4000 * 2 ^ 128))

/-- Without and with a request, at the highest rung that the layer allows. -/
theorem witness_LayerBeginTakesEffect :
    (∃ s i ca cx d, Quiet s ∧ atLayerBegin s i ca cx ∧ layerReadable s i (cmdAddr ca) d ∧ layerPatches d = 0 ∧
      fld (s.natAt (layerState d + 4) 4) 8 8 = recApplied (s.natAt (layerState d) 4)) ∧
    ∃ s i ca cx d, Quiet s ∧ atLayerBegin s i ca cx ∧ layerReadable s i (cmdAddr ca) d ∧ layerPatches d = 0 ∧
      let w0 := s.natAt (layerState d) 4
      let w1 := s.natAt (layerState d + 4) 4
      fld w1 8 8 ≠ recApplied w0 ∧ fld w1 0 3 = layerMaxRung d ∧ fld w1 3 5 = 0 ∧ fld w1 16 16 = 0 ∧
        s.denied i false .write (layerState d) 4 = none :=
  ⟨⟨lst job0 (ldesc 0), .core 0, _, _, BitVec.ofNat 256 ((lst job0 (ldesc 0)).natAt 0x2000 32), ⟨rfl, rfl⟩,
      atLayerBegin_of (ca := cmd [4, 0, 0, 0x2000]) (cx := cmd [4, 0, 0, 0x2000]) (by decide +kernel),
      by unfold layerReadable; decide +kernel, by decide +kernel, by decide +kernel⟩,
   ⟨lst job0 (ldesc 0 ++ memAt 0x3000 [0, 0, 0, 0, 5, 1]), .core 0, _, _,
      BitVec.ofNat 256 ((lst job0 (ldesc 0 ++ memAt 0x3000 [0, 0, 0, 0, 5, 1])).natAt 0x2000 32), ⟨rfl, rfl⟩,
      atLayerBegin_of (ca := cmd [4, 0, 0, 0x2000]) (cx := cmd [4, 0, 0, 0x2000]) (by decide +kernel),
      by unfold layerReadable; decide +kernel, by decide +kernel, by decide +kernel⟩⟩

/-- The layer was last at rung 2, and its record now says 0; its one patch writes 9 at 0x5000. -/
theorem witness_LayerPatchesApplied : ∃ s i ca cx d n j, Quiet s ∧ atLayerBegin s i ca cx ∧ layerReadable s i (cmdAddr ca) d ∧
    s.jobNo i = some n ∧ s.job n = some j ∧ fld (s.natAt (layerState d + 4) 4) 8 8 = recApplied (s.natAt (layerState d) 4) ∧
    0 < layerPatches d ∧ j.rungs.get 0 (layerId d) ≠ recRung (s.natAt (layerState d) 4) ∧
    s.denied i false .read (layerPatchAddr d) (32 * layerPatches d) = none ∧
    ∀ p ∈ (upto (layerPatches d)).map fun k => s.natAt (layerPatchAddr d + 32 * k) 32,
      plainDev (dwordAt p 0) = true ∧ dwordAt p 0 % 4 = 0 ∧ s.denied i false .write (dwordAt p 0) 4 = none :=
  ⟨lst { job0 with rungs := ⟨[(1, 2)]⟩ } (ldesc 1 ++ memAt 0x4000 (leBytes 32 (0x5000 + 9 * 2 ^ 64))), .core 0, _, _,
    BitVec.ofNat 256 ((lst { job0 with rungs := ⟨[(1, 2)]⟩ } (ldesc 1)).natAt 0x2000 32), 0, _, ⟨rfl, rfl⟩,
    atLayerBegin_of (ca := cmd [4, 0, 0, 0x2000]) (cx := cmd [4, 0, 0, 0x2000]) (by decide +kernel),
    by unfold layerReadable; decide +kernel, by decide +kernel, rfl, by decide +kernel⟩

theorem witness_LayerEndWaits : HeadWit fun s i _ c => cmdOp c = 0x05 ∧ ∃ sp, (s.ifc i).span = some sp :=
  headWit {} { span := some gspan } .exe (cmd [5]) [] (by decide +kernel) ⟨by decide +kernel, gspan, by decide +kernel⟩

/-- A span whose two ends have come, its record at 0x3000, with the norm of one tap staged. -/
def endSpan : Span := { gspan with desc := cmd [0, 0, 0x3000], endA := true, endX := true, sampled := 1 }

/-- A LAYER_END in flight. -/
def endFlight : Flight := { idx := 2, cmd := cmd [5] }

def cspan (m : Mangle) (sp : Span) : State :=
  let q : Stream := { count := 8, head := 3, flight := [endFlight] }
  st { mng := m } { acc := q, exe := q, span := some sp } []

theorem witness_SpanCommits : ∃ s c sp fa fx, Quiet s ∧ (s.ifc (.core c)).span = some sp ∧ s.atCommit (.core c) sp = true ∧
    (s.ifc (.core c)).acc.flight = [fa] ∧ (s.ifc (.core c)).exe.flight = [fx] ∧ fa.preds = [] ∧ fx.preds = [] ∧
    (∀ n, (s.ifc (.core c)).tok n < 65000) ∧
    (∀ d ∈ sp.got, d.conds.inv = 0 ∧ d.overflows = false ∧ d.intOverflow = false) ∧ sp.groupInv = false ∧ sp.disagree = 0 ∧ sp.released = [] ∧
    layerState sp.desc % 32 = 0 ∧ plainDev (layerState sp.desc) = true ∧
    s.denied (.core c) false .read (layerState sp.desc) 32 = none ∧ s.denied (.core c) false .write (layerState sp.desc) 4 = none ∧
    s.denied (.core c) false .write (layerState sp.desc + 8) 24 = none :=
  ⟨cspan { stNorm := ⟨[(0, 1)]⟩ } endSpan, 0, endSpan, endFlight, endFlight, ⟨rfl, rfl⟩, by decide +kernel, by decide +kernel, rfl, rfl, rfl, rfl,
    tok_none rfl, by decide +kernel⟩

/-- An overflow at rung 4 asks for rung 5, the highest. -/
theorem witness_SpanRepeats : ∃ s c sp, Quiet s ∧ (s.ifc (.core c)).span = some sp ∧ s.atRepeat (.core c) sp = true ∧
    sp.newRung = layerMaxRung sp.desc ∧ layerPatches sp.desc = 0 ∧ sp.acquired = [] ∧
    layerState sp.desc % 32 = 0 ∧ plainDev (layerState sp.desc) = true ∧
    s.denied (.core c) false .read (layerState sp.desc) 32 = none ∧ s.denied (.core c) false .write (layerState sp.desc) 12 = none :=
  let sp : Span := { gspan with desc := cmd [5 * 2 ^ 12, 0, 0x3000], stopped := true, rung := 4, got := [
    { idx := 0, strm := .exe, tag := 0, seq := none, rung := some 4, isInt := false, scaled := 0, conds := { ovf := 1 } }] }
  ⟨cspan {} sp, 0, sp, ⟨rfl, rfl⟩, by decide +kernel⟩

/-! ### Witnesses: fetching and completing commands -/

/-- Core 0 with a stream of commands at 0x1000, as `q` stands in it. -/
def atBase (q : Stream) : State := st {} { acc := { q with base := 0x1000, count := 4 } } []

/-- With 511 entries in use, and as the head. -/
theorem witness_CommandsFetched :
    (∃ s i t, Quiet s ∧ let x := s.ifc i
      let q := x.strm t
      let idx := q.head + q.fetched.length
      x.top = true ∧ x.halted = false ∧ idx < q.count ∧ q.fetched.length + q.flight.length = 511 ∧
      s.denied i false .fetch (q.base.toNat + 32 * idx) 32 = none ∧ q.fetched ≠ []) ∧
    ∃ s i t, Quiet s ∧ let x := s.ifc i
      let q := x.strm t
      let idx := q.head + q.fetched.length
      let a := q.base.toNat + 32 * idx
      let c := BitVec.ofNat 256 (s.natAt a 32)
      x.top = true ∧ x.halted = false ∧ idx < q.count ∧ q.fetched.length + q.flight.length < 512 ∧ s.denied i false .fetch a 32 = none ∧
      q.fetched = [] ∧ s.cmdBad i t c = false ∧ s.spanBreaks i t c = false ∧ x.bob.breaks t idx (cmdTag c) = false :=
  ⟨⟨atBase { head := 2, fetched := [0], flight := List.replicate 510 { idx := 1, cmd := 0 } }, .core 0, .acc, ⟨rfl, rfl⟩, by decide +kernel⟩,
   ⟨atBase { head := 3 }, .core 0, .acc, ⟨rfl, rfl⟩, by decide +kernel⟩⟩

/-- A NOP with a reserved class. -/
theorem witness_BadCommandHalts : ∃ s i t n j, Quiet s ∧ let x := s.ifc i
    let q := x.strm t
    let a := q.base.toNat + 32 * q.head
    let c := BitVec.ofNat 256 (s.natAt a 32)
    x.top = true ∧ x.halted = false ∧ q.fetched = [] ∧ q.head < q.count ∧ q.flight.length < 512 ∧
    s.denied i false .fetch a 32 = none ∧ s.cmdBad i t c = true ∧ s.jobNo i = some n ∧ s.job n = some j ∧ j.halt = none :=
  ⟨st {} { acc := { base := 0x1000, count := 1 } } (memAt 0x1000 [0, 7]), .core 0, .acc, 0, job0, ⟨rfl, rfl⟩, by decide +kernel⟩

/-- Core 0 with one command in flight in its access stream, beside tokens. -/
def fly (f : Flight) (x : Iface) : State := st {} { x with acc := { x.acc with flight := [f] } } []

theorem witness_CommandsComplete : ∃ s i t idx f, Quiet s ∧ s.flightOf i t idx = some f ∧ s.ended i f = true ∧ s.isHem i = false ∧
    f.gen = none ∧ f.conds = {} ∧ f.scaled = 0 ∧ ∀ n, n < 32 → bitOf (cmdSig f.cmd) n = true → (s.ifc i).tok n < 65535 :=
  let f : Flight := { idx := 5, cmd := cmd [0x10, 0, 3], fin := true, preds := [(2, true)] }
  ⟨fly f toks, .core 0, .acc, 5, f, ⟨rfl, rfl⟩, by decide +kernel⟩

/-- Conditions of a command outside a span: INVALID in a job whose NAN_HALT is 1, and OVERFLOW. -/
theorem witness_NumericConditionsReported :
    (∃ s i t idx f, Quiet s ∧ (s.flightOf i t idx = some f ∧ s.ended i f = true ∧ s.isHem i = false ∧ isGang i = false ∧ f.gen = none ∧
      (s.ifc i).span = none ∧ (s.ifc i).halted = false ∧ cmdOp f.cmd ≠ 0x50 ∧
      ∀ n, n < 32 → bitOf (cmdSig f.cmd) n = true → (s.ifc i).tok n < 65535) ∧
      0 < f.conds.inv ∧ f.conds.ovf = 0 ∧ f.conds.iovf = 0 ∧ s.nanHalt i = true) ∧
    ∃ s i t idx f, Quiet s ∧ (s.flightOf i t idx = some f ∧ s.ended i f = true ∧ s.isHem i = false ∧ isGang i = false ∧ f.gen = none ∧
      (s.ifc i).span = none ∧ (s.ifc i).halted = false ∧ cmdOp f.cmd ≠ 0x50 ∧
      ∀ n, n < 32 → bitOf (cmdSig f.cmd) n = true → (s.ifc i).tok n < 65535) ∧ f.conds.inv = 0 ∧ 0 < f.conds.ovf :=
  let f : Flight := { idx := 5, cmd := cmd [0x11, 0, 3], fin := true, conds := { inv := 1 } }
  let g : Flight := { idx := 5, cmd := cmd [0x11, 0, 3], fin := true, conds := { ovf := 1 } }
  let s := { fly f toks with jobs := ⟨[(0, some { job0 with numCtrl := 2 })]⟩ }
  ⟨⟨s, .core 0, .acc, 5, f, ⟨rfl, rfl⟩, by decide +kernel⟩, ⟨fly g toks, .core 0, .acc, 5, g, ⟨rfl, rfl⟩, by decide +kernel⟩⟩

/-! ### Witnesses: transfers -/

/-- On a core whose engine is free; and on a gang of two cores, of which one is free and the other runs a program. -/
theorem witness_VrunBegins :
    (HeadWit fun s i t c => t = .exe ∧ cmdOp c = 0x30 ∧ isGang i = false ∧ let ps := s.vrunParts i (cmdWord c 7)
      (∀ p ∈ ps, subFree s i p.core) ∧ (ps.map (·.core)).Nodup ∧ ps ≠ []) ∧
    ∃ s i c, Quiet s ∧ HeadAt s i .exe c ∧ cmdOp c = 0x30 ∧ isGang i = true ∧ let ps := s.vrunParts i (cmdWord c 7)
      (∀ p ∈ ps, subFree s i p.core ∨ (s.core p.core).vec.run.isSome = true) ∧ (ps.map (·.core)).Nodup ∧
      (∃ p ∈ ps, subFree s i p.core) ∧ ∃ p ∈ ps, (s.core p.core).vec.run.isSome = true :=
  let c := cmd [0x30, 0, 0, 0x1000, 0, 7, 0, 100]
  let s := gst { exe := { fetched := [c], count := 8 } }
  let t := s.setCore 1 { s.core 1 with vec := { run := some run0 } }
  ⟨headWit {} {} .exe c [] (by decide +kernel) (by unfold subFree; decide +kernel),
   ⟨t, .gang 0 0, c, ⟨rfl, rfl⟩, headAt_of (by decide +kernel), by decide +kernel, rfl, by unfold subFree; decide +kernel⟩⟩

/-- A copy of five bytes, and one of none. -/
theorem witness_CopiesMove :
    (HeadWit fun s i t c => t = .acc ∧ s.engineFree i = true ∧ cmdOp c = 0x10 ∧ plainCopy s i c) ∧
    HeadWit fun s i t c => t = .acc ∧ s.engineFree i = true ∧ cmdOp c = 0x11 ∧ cmdXop c = 0 ∧ cmdLen c = 0 :=
  ⟨headWit {} {} .acc (cmd [0x10, 0, 0, 0x2001, 0, 0x3001, 0, 5]) [] (by decide +kernel) (by unfold plainCopy; decide +kernel),
   headWit {} {} .acc (cmd [0x11, 0, 0, 0x2001, 0, 0x3001]) [] (by decide +kernel) (by decide +kernel)⟩

/-- At both ends of the ranges of XOP, to HBM and to the last element of the Cupboard. -/
theorem witness_AtomicsCombine :
    (HeadWit fun s i t c => t = .acc ∧ s.engineFree i = true ∧ ∃ p ∈ atomicRows i, cmdOp c = 0x11 ∧ p.2.1 ≤ cmdXop c ∧ cmdXop c ≤ p.2.2.1 ∧
      let z := atomicSize (cmdXop c)
      0 < cmdLen c ∧ cmdLen c % z = 0 ∧ plainDev (cmdAddr c) = true ∧ plainDev (cmdDst c) = true ∧ inRegs (cmdAddr c) = false ∧
      cmdAddr c % z = 0 ∧ cmdDst c % z = 0 ∧ cmdDst c + cmdLen c ≤ hbmEnd ∧ s.engineCore i ≠ none ∧
      s.denied i false .read (cmdAddr c) (cmdLen c) = none ∧ s.denied i false .atomic (cmdDst c) (cmdLen c) = none) ∧
    HeadWit fun s i t c => t = .acc ∧ s.engineFree i = true ∧ ∃ p ∈ atomicRows i, cmdOp c = 0x11 ∧ p.2.1 ≤ cmdXop c ∧ cmdXop c ≤ p.2.2.1 ∧
      let z := atomicSize (cmdXop c)
      0 < cmdLen c ∧ cmdLen c % z = 0 ∧ plainDev (cmdAddr c) = true ∧ plainDev (cmdDst c) = true ∧ inRegs (cmdAddr c) = false ∧
      cmdAddr c % z = 0 ∧ cmdDst c % z = 0 ∧ (cupbBase ≤ cmdDst c ∧ cmdDst c + cmdLen c = cupbBase + 2 ^ 34) ∧ s.engineCore i ≠ none ∧
      s.denied i false .read (cmdAddr c) (cmdLen c) = none ∧ s.denied i false .atomic (cmdDst c) (cmdLen c) = none :=
  ⟨headWit {} {} .acc (cmd [0x11, 0, 0, 0x2000, 0, 0x3000, 0, 8 + 1 * 2 ^ 24]) [] (by decide +kernel) ⟨rfl, by decide +kernel, _, .head _, by decide +kernel⟩,
   headWit {} {} .acc (cmd [0x11, 0, 0, 0x2000, 0, (cupbBase + 2 ^ 34 - 4) % 2 ^ 32, (cupbBase + 2 ^ 34 - 4) / 2 ^ 32, 4 + 12 * 2 ^ 24]) []
    (by decide +kernel) ⟨rfl, by decide +kernel, _, .tail _ (.tail _ (.head _)), by decide +kernel⟩⟩

/-- Two elements of four bytes; index 0 is below LIMIT and index 1 at it. -/
def gdesc : List (Nat × Byte) := memAt 0x2000 (bytesOf [2, 2, 1, 0, 0x3000, 0, 0x4000, 0, 0x5000]) ++ memAt 0x3004 [1]

/-- The descriptor as the machine reads it. -/
def gd : Nat := leNat (bytesOf [2, 2, 1, 0, 0x3000, 0, 0x4000, 0, 0x5000])

set_option synthInstance.maxSize 2000 in
set_option synthInstance.maxHeartbeats 200000 in
theorem witness_GatherAndScatter :
    (HeadWit fun s i t c => t = .acc ∧ s.engineFree i = true ∧ cmdOp c = 0x12 ∧ ∃ d, gatherReadable s i c false d ∧
      (∀ k < gCount d, gatherIdx s d k < gLimit d → s.denied i false .read (gBase d + gatherIdx s d k * gSize d) (gSize d) = none) ∧
      (∀ k < gCount d, s.denied i false .write (gData d + k * gSize d) (gSize d) = none) ∧
      apart s (gData d) (gCount d * gSize d) (gIndex d) (gCount d * gIdxSize d) ∧
      ∀ k < gCount d, gatherIdx s d k < gLimit d → apart s (gData d) (gCount d * gSize d) (gBase d + gatherIdx s d k * gSize d) (gSize d)) ∧
    HeadWit fun s i t c => t = .acc ∧ s.engineFree i = true ∧ cmdOp c = 0x13 ∧ ∃ d, gatherReadable s i c true d ∧ gOp d = 0 ∧
      ∀ k < gCount d, gatherIdx s d k < gLimit d → s.denied i false .write (gBase d + gatherIdx s d k * gSize d) (gSize d) = none ∧
        s.denied i false .read (gData d + k * gSize d) (gSize d) = none ∧
        apart s (gBase d + gatherIdx s d k * gSize d) (gSize d) (gIndex d) (gCount d * gIdxSize d) ∧
        apart s (gBase d + gatherIdx s d k * gSize d) (gSize d) (gData d) (gCount d * gSize d) :=
  ⟨headWit {} {} .acc (cmd [0x12, 0, 0, 0x2000]) gdesc (by decide +kernel)
    ⟨rfl, rfl, by decide +kernel, gd, by unfold gatherReadable; decide +kernel, by decide +kernel, by decide +kernel,
      by unfold apart; decide +kernel⟩,
   headWit {} {} .acc (cmd [0x13, 0, 0, 0x2000]) gdesc (by decide +kernel)
    ⟨rfl, rfl, by decide +kernel, gd, by unfold gatherReadable; decide +kernel, by decide +kernel, by unfold apart; decide +kernel⟩⟩

/-- Past the end of every window, and in a window of a stack that has failed. -/
theorem witness_DeniedAccessHalts :
    (HeadWit fun s i t c => t = .acc ∧ i = .core 0 ∧ s.engineFree i = true ∧ cmdOp c = 0x10 ∧ cmdXop c = 0 ∧ 0 < cmdLen c ∧ plainDev (cmdAddr c) = true ∧
      inRegs (cmdAddr c) = false ∧ ∃ e, s.denied i false .read (cmdAddr c) (cmdLen c) = some e ∧ e.code = 0x0980#16) ∧
    ∃ s r c e, Quiet s ∧ HeadAt s (.core r) .acc c ∧ s.engineFree (.core r) = true ∧ cmdOp c = 0x10 ∧ cmdXop c = 0 ∧ 0 < cmdLen c ∧
      plainDev (cmdAddr c) = true ∧ inRegs (cmdAddr c) = false ∧ s.denied (.core r) false .read (cmdAddr c) (cmdLen c) = some e ∧
      e.code ≠ 0x0980#16 :=
  let none' : Job := { job0 with wins := [BitVec.ofNat 256 (2 ^ 12 * 2 ^ 64 + 2 ^ 128)] }
  let c := cmd [0x10, 0, 0, 0xFFF, 0, 0x3000, 0, 2]
  let s := { cst {} {} .acc c [] with ms := { hbm := 4 } }
  ⟨headWitJob none' {} .acc c [] (by decide +kernel) (by
      refine ⟨rfl, rfl, rfl, ?_, ?_, ?_, ?_, ?_, ⟨0x0980, 0x1000, 1, .read⟩, ?_⟩ <;> decide +kernel),
   ⟨s, 0, c, ⟨0x0F83, 0xFFF, 0, .read⟩, ⟨rfl, rfl⟩, headAt_of (by decide +kernel), by decide +kernel⟩⟩

/-! ### Witnesses: the Mangle, the Press, OPTSTEP and the Iron -/

/-- A tile descriptor of FP16 operands with an FP32 output, 2 by 2 by 2: A at 0x4000, W at 0x5000, the output at 0x6000. -/
def tdesc (w2 : Nat) : List Nat :=
  wordsAt 27 [(0, 2 * 2 ^ 8 + 2 * 2 ^ 16 + 2 ^ 24), (1, 2 + 2 * 2 ^ 16 + 2 * 2 ^ 24), (2, w2), (8, 0x4000), (12, 0x5000), (16, 0x6000), (24, 4),
    (25, 4), (26, 8)]

/-- The same as the machine reads it. -/
def td (w2 : Nat) : TDesc := BitVec.ofNat 1024 (leNat (bytesOf (tdesc w2)))

def tmem (w2 : Nat) : List (Nat × Byte) := memAt 0x2000 (bytesOf (tdesc w2))

/-- A tile of core 0 for it. -/
def tile0 (w2 : Nat) : Tile :=
  ({ core := 0, reg := TDesc.whole (td w2), raw := none, presser := 0, pr := TDesc.whole (td w2) } : Leaf).tile (.core 0) 0 0x20 (td w2) 0
    [] {} none false

def TableWit (P : State → CoreRef → Nat → Prop) : Prop := ∃ s r c, Quiet s ∧ HeadAt s (.core r) .acc c ∧ s.engineFree (.core r) = true ∧ cmdOp c = 0x10 ∧ cmdLen c = 4128 ∧
    plainDev (cmdAddr c) = true ∧ inRegs (cmdAddr c) = false ∧ s.denied (.core r) false .read (cmdAddr c) 4128 = none ∧
    noFills (s.ifc (.core r)).acc ∧ (∀ u ∈ (s.core r).mng.tiles, u.tblFrom = none) ∧
    tableGood (leWords (s.bytesAt (cmdAddr c) 4128)) = true ∧ cmdXop c = 2 ∧ P s r (fld (cmdDst c) 0 4)

/-- With no tile that names the slot, and with one that has begun and names it. -/
theorem witness_TableLoads : (TableWit fun s r n => s.tilesNaming (.core r) n = []) ∧ TableWit fun s r n => s.tilesNaming (.core r) n ≠ [] :=
  let c := cmd [0x10, 0, 0, 0x2000, 0, 8, 0, 4128 + 2 * 2 ^ 24]
  ⟨⟨cst {} {} .acc c image, 0, c, ⟨rfl, rfl⟩, headAt_of (by decide +kernel), by unfold noFills; decide +kernel⟩,
   ⟨cst { mng := { tiles := [tile0 (8 * 2 ^ 12)] } } {} .acc c image, 0, c, ⟨rfl, rfl⟩, headAt_of (by decide +kernel), by unfold noFills; decide +kernel⟩⟩

theorem witness_TilesBegin :
    (∃ s r c d, Quiet s ∧ HeadAt s (.core r) .exe c ∧ (s.core r).mng.tiles = [] ∧ (s.ifc (.core r)).span = none ∧
      (∃ p ∈ mangleRows (.core r), cmdOp c = p.2) ∧ tileReadable s r c d ∧
      tileReady s r (({ core := r, reg := TDesc.whole d, raw := none, presser := r, pr := TDesc.whole d } : Leaf).tile (.core r)
        (s.ifc (.core r)).exe.head (cmdOp c) d (((s.jobOf (.core r)).map (·.iter)).getD 0) (s.frozenRows (dflowOf (cmdOp c) d) d)
        ((s.core r).mng.tbl.get {} (TDesc.tbl d)) none false)) ∧
    ∃ s r u, Quiet s ∧ (s.core r).mng.tiles = [u] ∧ tileReady s r u :=
  ⟨⟨cst {} {} .exe (cmd [0x20, 0, 0, 0x2000]) (tmem 0), 0, cmd [0x20, 0, 0, 0x2000], td 0, ⟨rfl, rfl⟩, headAt_of (by decide +kernel),
      by decide +kernel, by decide +kernel, ⟨_, .head _, by decide +kernel⟩, by unfold tileReadable noFills; decide +kernel,
      by unfold tileReady; decide +kernel⟩,
   ⟨st { mng := { tiles := [tile0 0] } } {} [], 0, tile0 0, ⟨rfl, rfl⟩, by unfold tileReady; decide +kernel⟩⟩

/-- Number 4,095, which the counter leaves to become 0; and a number that is not the counter's. -/
theorem witness_TileNumbersChecked :
    (∃ s r u e, Quiet s ∧ let x := s.ifc (.core r)
      let k := s.core r
      x.halted = false ∧ x.store = [e] ∧ e.kind = .tile ∧ e.lead = r ∧ k.mng.tiles = [u] ∧ u.owner = .core r ∧ u.idx = e.idx ∧
      u.phase = .array ∧ u.raw = none ∧ (TDesc.hold u.desc = true → u.wts = []) ∧ u.tblFrom = none ∧ k.mng.normWait = [] ∧
      noFills x.acc ∧ x.seq = e.seq) ∧
    ∃ s r u e, Quiet s ∧ let x := s.ifc (.core r)
      let k := s.core r
      x.halted = false ∧ x.store = [e] ∧ e.kind = .tile ∧ e.lead = r ∧ k.mng.tiles = [u] ∧ u.owner = .core r ∧ u.idx = e.idx ∧
      u.phase = .array ∧ u.raw = none ∧ (TDesc.hold u.desc = true → u.wts = []) ∧ u.tblFrom = none ∧ k.mng.normWait = [] ∧
      noFills x.acc ∧ x.seq ≠ e.seq :=
  let u := { tile0 0 with phase := .array, slot := some 0 }
  let e : StoreEnt := { idx := 0, seq := 4095, kind := .tile, lead := 0 }
  ⟨⟨st { mng := { tiles := [u] } } { store := [e], seq := 4095 } [], 0, u, e, ⟨rfl, rfl⟩, by unfold noFills; decide +kernel⟩,
   ⟨st { mng := { tiles := [u] } } { store := [e], seq := 4094 } [], 0, u, e, ⟨rfl, rfl⟩, by unfold noFills; decide +kernel⟩⟩

/-- The last row. -/
theorem witness_PressRowsWritten : ∃ s r u, Quiet s ∧ (s.core r).mng.tiles = [u] ∧ u.phase = .press ∧ u.raw = none ∧
    s.darns (.mangle r) = false ∧ TDesc.tbl u.desc = 0 ∧ (TDesc.fOut u.desc).isMx = false ∧ TDesc.normEn u.desc = false ∧
    TDesc.cerrEn u.desc = false ∧ u.sampled = false ∧ queueRef (TDesc.outAddr u.desc) = none ∧ u.wts = [] ∧
    u.row + 1 = (u.region'.rows u.df).2 ∧ u.peers = [] ∧ u.home = none ∧ u.rowsQ = [] ∧ u.full = false ∧
    (s.ifc u.owner).mayHandle u.idx = true ∧ (s.core r).mng.normWait = [] ∧ noFills (s.ifc u.owner).acc :=
  let u := { tile0 0 with phase := .press, row := 1, acc := [[1, 2], [3, 4]] }
  ⟨st { mng := { tiles := [u] } } {} [], 0, u, ⟨rfl, rfl⟩, by unfold noFills; decide +kernel⟩

theorem witness_TilesComplete : ∃ s r u f, Quiet s ∧ let i := IfaceId.core r
    (s.core r).mng.tiles = [u] ∧ u.phase = .done ∧ u.owner = i ∧ u.conds = {} ∧ u.pconds = {} ∧ u.attempt = 0 ∧
    s.flightOf i .exe u.idx = some f ∧ f.parts = 1 ∧ f.fin = true ∧ f.reqs = 0 ∧ f.qneed = 0 ∧ f.qend = 0 ∧ f.gen = none ∧
    f.conds = {} ∧ f.scaled = 0 ∧ f.allPreds = [] ∧ s.darns (.access i f.idx) = false ∧ (s.ifc i).mayHandle u.idx = true ∧
    ∀ n, n < 32 → bitOf (cmdSig f.cmd) n = true → (s.ifc i).tok n < 65535 :=
  let u := { tile0 0 with phase := .done }
  let f : Flight := { idx := 0, cmd := cmd [0x20, 0, 3, 0x2000], fin := true, parts := 1 }
  ⟨st { mng := { tiles := [u] } } { exe := { flight := [f] } } [], 0, u, f, ⟨rfl, rfl⟩, by decide +kernel⟩

/-- A scale byte that the attempt takes to 0xFE. -/
theorem witness_CarefulRetries : ∃ s r u j, Quiet s ∧ (s.core r).mng.tiles = [u] ∧ u.phase = .press ∧ s.darns (.mangle r) = false ∧
    u.row = u.outRows ∧ u.raw = none ∧ u.home = none ∧ (s.ifc u.owner).mayHandle u.idx = true ∧ s.jobOf u.owner = some j ∧ bitOf j.numCtrl.toNat 0 = true ∧ (TDesc.fOut u.desc).isMx = true ∧
    TDesc.supplied u.desc = true ∧ 0 < u.pconds.ovf ∧ u.early = false ∧ u.attempt = 7 ∧
    ∀ l ∈ u.sup, ∀ b ∈ l, b + u.attempt + 1 ≤ 0xFE :=
  let d : TDesc := BitVec.ofNat 1024 (leNat (bytesOf ((2 * 2 ^ 8 + 2 * 2 ^ 16 + 6 * 2 ^ 24 + 2 ^ 31) :: (tdesc 0).drop 1)))
  let u : Tile := { tile0 0 with desc := d, phase := .press, row := 2, pconds := { ovf := 1 }, attempt := 7, sup := [[0xF6]] }
  let j := { job0 with numCtrl := 1 }
  ⟨{ st { mng := { tiles := [u] } } {} [] with jobs := ⟨[(0, some j)]⟩ }, 0, u, j, ⟨rfl, rfl⟩, by decide +kernel⟩

theorem witness_CreaseSamplesDecided :
    (∃ s r p sp, Quiet s ∧ (s.core r).mng.sample = some p ∧ p.owner = .core r ∧ (s.ifc (.core r)).span = some sp ∧
      p.outs ≠ [] ∧ ∀ x ∈ p.outs.flatten.zip p.shad.flatten, x.1.isFinite = true ∧ x.1 = x.2) ∧
    ∃ s r p sp, Quiet s ∧ (s.core r).mng.sample = some p ∧ p.owner = .core r ∧ (s.ifc (.core r)).span = some sp ∧
      ∃ x ∈ p.outs.flatten.zip p.shad.flatten, (x.1.isFinite && x.2.isFinite) = false ∧ x.1 ≠ x.2 :=
  let p : Sample := { owner := .core 0, idx := 0, outs := [[.fin false 1 0]], shad := [[.fin false 1 0]] }
  let q : Sample := { owner := .core 0, idx := 0, outs := [[.nan]], shad := [[.fin false 1 0]] }
  ⟨⟨st { mng := { sample := some p } } { span := some gspan } [], 0, p, gspan, ⟨rfl, rfl⟩, by decide +kernel⟩,
   ⟨st { mng := { sample := some q } } { span := some gspan } [], 0, q, gspan, ⟨rfl, rfl⟩, by decide +kernel, by decide +kernel,
      by decide +kernel, (.nan, .fin false 1 0), by decide +kernel⟩⟩

/-- An OPTSTEP descriptor of one FP32 element, with CHECK or without. -/
def odesc (check : Nat) : List Nat :=
  wordsAt 32 [(0, 8 * check + 2 ^ 8 + 3 * 2 ^ 16 + 2 ^ 24), (1, 1), (14, 0x3000), (16, 0x3100), (20, 0x3200), (22, 0x3300), (24, 0x3400),
    (26, 0x3500), (28, 0x3600), (30, 0x3700)]

def OptWit (P : State → ODesc → Prop) : Prop :=
  ∃ s r c d, Quiet s ∧ HeadAt s (.core r) .acc c ∧ s.engineFree (.core r) = true ∧ cmdOp c = 0x50 ∧ optReadable s r c d ∧ P s d

/-- Without a bad gradient, and with a NaN where CHECK is 1. -/
theorem witness_OptimizerStep :
    (OptWit fun s d => (ODesc.check d && ((upto (ODesc.elems d)).map (operandAt s (ODesc.fG d) (ODesc.gAddr d) 0 0 0)).any
      fun x => !x.isFinite) = false) ∧
    OptWit fun s d => (ODesc.check d && ((upto (ODesc.elems d)).map (operandAt s (ODesc.fG d) (ODesc.gAddr d) 0 0 0)).any
      fun x => !x.isFinite) = true :=
  let c := cmd [0x50, 0, 0, 0x2000]
  let d := fun k : Nat => BitVec.ofNat 1024 (leNat (bytesOf (odesc k)))
  let s := fun k : Nat => cst {} {} .acc c (memAt 0x2000 (bytesOf (odesc k)) ++ memAt 0x3000 [0, 0, 0xC0, 0x7F])
  ⟨⟨s 0, 0, c, d 0, ⟨rfl, rfl⟩, headAt_of (by decide +kernel), rfl, by decide +kernel, by unfold optReadable; decide +kernel, by decide +kernel⟩,
   ⟨s 1, 0, c, d 1, ⟨rfl, rfl⟩, headAt_of (by decide +kernel), rfl, by decide +kernel, by unfold optReadable; decide +kernel, by decide +kernel⟩⟩

/-- A solver descriptor of one unknown in FP32: mode as given, the row pointers at 0x4000, the column at 0x4100, 1 at 0x4200, b at
0x4300, x at 0x4400, work at 0x8000, the status record at 0x4500, x of the forward solve at 0x4600, the pattern gradient at 0x4700. -/
def sdesc (mode : Nat) : List Nat :=
  wordsAt 40 [(0, mode * 2 ^ 20), (1, 1), (2, 4), (14, 1 + 2 ^ 8 + 2 ^ 16 + 2 ^ 24), (18, 0x4000), (20, 0x4100), (22, 0x4200), (24, 0x4300),
    (26, 0x4400), (28, 0x8000), (34, 0x4500), (36, 0x4600), (38, 0x4700)]

def sd (mode : Nat) : SDesc := BitVec.ofNat 2048 (leNat (bytesOf (sdesc mode)))

def smem (mode : Nat) (x : List Byte) : List (Nat × Byte) :=
  memAt 0x2000 (bytesOf (sdesc mode)) ++ memAt 0x4000 (bytesOf [0, 1]) ++ memAt 0x4200 (bytesOf [0x40000000]) ++ memAt 0x4400 x

def IronWit (P : State → CoreRef → BitVec 256 → SDesc → Prop) : Prop :=
  ∃ s r c d, Quiet s ∧ HeadAt s (.core r) .exe c ∧ ironReady s r c d ∧ P s r c d

theorem ironWit (op mode : Nat) (x : List Byte) {P : State → CoreRef → BitVec 256 → SDesc → Prop}
    (h : atHead (cst {} {} .exe (cmd [op, 0, 0, 0x2000]) (smem mode x)) (.core 0) .exe (cmd [op, 0, 0, 0x2000]) = true)
    (hr : ironReady (cst {} {} .exe (cmd [op, 0, 0, 0x2000]) (smem mode x)) 0 (cmd [op, 0, 0, 0x2000]) (sd mode))
    (hp : P (cst {} {} .exe (cmd [op, 0, 0, 0x2000]) (smem mode x)) 0 (cmd [op, 0, 0, 0x2000]) (sd mode)) : IronWit P :=
  ⟨_, _, _, _, ⟨rfl, rfl⟩, headAt_of h, hr, hp⟩

/-- The four rows; of the pattern gradient alone also a lambda whose first element is a NaN. -/
theorem witness_IronSolves :
    (IronWit fun s _ c d => cmdOp c = 0x40 ∧ SDesc.adjMode d = 0 ∧ (ironMat s d).emptyRow = none) ∧
    (IronWit fun s _ c d => cmdOp c = 0x41 ∧ SDesc.adjMode d = 0 ∧ (ironMat s d).emptyRow = none) ∧
    (IronWit fun s _ c d => cmdOp c = 0x41 ∧ SDesc.adjMode d = 1 ∧ (ironMat s d).emptyRow = none) ∧
    (IronWit fun s _ c d => cmdOp c = 0x41 ∧ SDesc.adjMode d = 2 ∧
      ∀ x ∈ s.vecAt (SDesc.xFmt d) (SDesc.tagX d) (SDesc.x d) (SDesc.n d), x.isNan = false) ∧
    IronWit fun s _ c d => cmdOp c = 0x41 ∧ SDesc.adjMode d = 2 ∧
      let lam := s.vecAt (SDesc.xFmt d) (SDesc.tagX d) (SDesc.x d) (SDesc.n d)
      ∃ k, (∀ n < k, (nth lam n .zero).isNan = false) ∧ k < lam.length ∧ (nth lam k .zero).isNan = true :=
  ⟨ironWit 0x40 0 [] (by decide +kernel) (by unfold ironReady; decide +kernel) (by decide +kernel),
   ironWit 0x41 0 [] (by decide +kernel) (by unfold ironReady; decide +kernel) (by decide +kernel),
   ironWit 0x41 1 [] (by decide +kernel) (by unfold ironReady; decide +kernel) (by decide +kernel),
   ironWit 0x41 2 [] (by decide +kernel) (by unfold ironReady; decide +kernel) (by decide +kernel),
   ironWit 0x41 2 [0, 0, 0xC0, 0x7F] (by decide +kernel) (by unfold ironReady; decide +kernel)
     ⟨by decide +kernel, by decide +kernel, 0, fun n h => absurd h (Nat.not_lt_zero n), by decide +kernel⟩⟩

def EndWit (P : State → CoreRef → Solve → BitVec 16 → Prop) : Prop :=
  ∃ s r v code, Quiet s ∧ (s.ifc (.core r)).solve = some v ∧ s.darns (.iron r) = false ∧ SDesc.n v.desc ≠ 0 ∧ v.out.codes = [code] ∧
    codeClass code ≠ 2 ∧
    (SDesc.solves v.desc = true → v.out.resNorm.isSome = true ∧ v.out.bNorm.isSome = true) ∧ P s r v code

/-- The end of a solve by a descriptor with an ADJ_MODE, and above it WARM, each four bits. -/
def solved (mode : Nat) : Solve :=
  { idx := 0, addr := 0x2000, adj := decide (0 < mode % 16), desc := sd (mode % 16) ||| BitVec.ofNat 2048 (mode / 16 * 2 ^ 12)
    out := { codes := [0x0800], x := [1], resNorm := some 0, bNorm := some 0, nnz := 1 } }

theorem endWit (mode : Nat) {P : State → CoreRef → Solve → BitVec 16 → Prop}
    (h : ((st {} { solve := some (solved mode) } (smem mode [])).ifc (.core 0)).solve = some (solved mode) ∧
      SDesc.n (solved mode).desc ≠ 0)
    (hp : P (st {} { solve := some (solved mode) } (smem mode [])) 0 (solved mode) 0x0800) : EndWit P :=
  ⟨_, _, _, _, ⟨rfl, rfl⟩, h.1, rfl, h.2, rfl, by decide, fun _ => ⟨rfl, rfl⟩, hp⟩

/-- A solve, one with a warm-start record, the pattern gradient, and both. -/
theorem witness_SolvesEnd :
    (EndWit fun _ _ v _ => SDesc.solves v.desc = true ∧ SDesc.pattern v.desc = false ∧ SDesc.warm v.desc = 0) ∧
    (EndWit fun _ _ v _ => SDesc.solves v.desc = true ∧ SDesc.pattern v.desc = false ∧ SDesc.warm v.desc = 1) ∧
    (EndWit fun _ _ v _ => SDesc.solves v.desc = false ∧ SDesc.pattern v.desc = true) ∧
    EndWit fun s r v _ => SDesc.solves v.desc = true ∧ SDesc.pattern v.desc = true ∧ s.ms.poison = ⟨[]⟩ ∧
      let d : SDesc := v.desc
      let xs := bytesFrom (SDesc.x d) (v.out.x.zipIdx.flatMap fun (n, k) =>
        let f := fmtOf (SDesc.xFmt d)
        let rn := rndOf (SDesc.rnd d) (SDesc.grad d) (((s.jobOf (.core r)).map Job.seed).getD 0) v.iter.toNat
          (SDesc.xTid d) (k % 2 ^ 48)
        leBytes (f.width / 8) (f.cvt (SDesc.tagX d) rn (qVal (SDesc.w d) (SDesc.tagX d) n)).1)
      ∀ a n, (a, n) ∈ [(SDesc.xf d, SDesc.n d * fmtBytes (SDesc.xfFmt d)), (SDesc.rowPtr d, 4 * (SDesc.ptrRows d + 1)),
        (SDesc.colIdx d, 4 * ironCnt s d)] → ∀ k < n, ∀ w ∈ xs, s.place w.1 = none ∨ s.place w.1 ≠ s.place (a + k) := by
  refine ⟨endWit 0 (by decide +kernel) (by decide +kernel), endWit 16 (by decide +kernel) (by decide +kernel), endWit 2 (by decide +kernel) (by decide +kernel),
    endWit 1 (by decide +kernel) ⟨by decide +kernel, by decide +kernel, by decide +kernel, ?_⟩⟩
  intro d xs a n h
  simp only [List.mem_cons, Prod.mk.injEq, List.not_mem_nil, or_false] at h
  obtain ⟨rfl, rfl⟩ | ⟨rfl, rfl⟩ | ⟨rfl, rfl⟩ := h <;> decide +kernel

/-! ### Witnesses: the collective units -/

/-- A route table of sizes `dims`, in which nodes 0 and 8 are devices 0 and 8, and this device is 0. -/
def rt (dims : Nat) : RouteTable :=
  { myPhys := 0, dims := BitVec.ofNat 32 dims, brk := 0, portEn := 0x1FFF, map := ⟨[(0, 0x8000), (8, 0x8008)]⟩ }

/-- Two devices along X, two along Z, and one. -/
def alongX : Nat := 0x010102
def alongZ : Nat := 0x020101
def alone : Nat := 0x010101

/-- A collective descriptor: word 0, word 1 (COUNT), word 2, and the partner; SRC at 0x3000, DST at 0x4000, the status record at 0x5000. -/
def cdesc (w0 n w2 partner : Nat) : List Nat :=
  wordsAt 32 [(0, w0), (1, n), (2, w2), (5, partner * 2 ^ 16), (8, 0x3000), (12, 0x4000), (18, cupbBase % 2 ^ 32), (19, cupbBase / 2 ^ 32),
    (20, 2 ^ 22), (30, 0x5000)]

def cd (w0 n w2 partner : Nat) : CDesc := BitVec.ofNat 1024 (leNat (bytesOf (cdesc w0 n w2 partner)))

/-- An operation of core 0 for it, on channel 0. -/
def cop (d : CDesc) (x : COpState) : COp := { seq := 4, owner := .core 0, idx := 2, tag := 0, desc := d, node := 0, state := x }

/-- A state with it and with packets of class 3 that have come. -/
def ost (dims : Nat) (l : List COp) (e : List Packet) : State :=
  { st {} { acc := { flight := [{ idx := 2, cmd := 0 }] } } [] with
    chans := ⟨[(0, { seq := 5, job := some 0, ops := l })]⟩, fab := { rt := some (rt dims), eject := ⟨[(3, e)]⟩ }
    ms := { cupb := ⟨[(0, 1)]⟩ } }

/-- An all-reduce of two FP32 elements along X, at the head of core 0's access stream. -/
def arDesc : CDesc := cd (2 * 2 ^ 4 + 2 ^ 16) 2 0 0
def arState : State :=
  { cst {} {} .acc (cmd [0x60, 0, 0, 0x2000]) (memAt 0x2000 (bytesOf (cdesc (2 * 2 ^ 4 + 2 ^ 16) 2 0 0))) with
    chans := ⟨[(0, { ops := List.replicate 15 (cop 0 .waiting) })]⟩, fab := { rt := some (rt alongX) }, ms := { cupb := ⟨[(0, 1)]⟩ } }

theorem witness_CollectivesBegin : ∃ s i c, ∃ d : CDesc, ∃ node, Quiet s ∧ HeadAt s i .acc c ∧ cmdOp c = 0x60 ∧ s.ownNode = some node ∧
    let tp : Topo := { dim := s.dims, node := if CDesc.role d = 2 then CDesc.partner d else node }
    s.engineCore i ≠ none ∧ (s.chan (fld (cmdWord c 5) 0 4)).ops.length = 15 ∧
    d = BitVec.ofNat 1024 (s.natAt (cmdAddr c) 128) ∧ s.denied i false .read (cmdAddr c) 128 = none ∧
    s.collBad tp (((s.jobOf i).map Job.bcNeed).getD 0) d = false ∧
    (CDesc.role d ≠ 2 → ∀ n ∈ tp.others d, s.physOfNode n ≠ none) ∧ (CDesc.role d ≠ 0 → s.physOfNode (CDesc.partner d) ≠ none) ∧
    (∀ a ∈ tp.ranges d, ∀ e, s.denied i false a.1 a.2.1 a.2.2 = some e → e.code ≠ 0x0980#16) ∧ ∃ p ∈ collRows i, CDesc.op d = p.2 := by
  have h : ∀ a ∈ ({ dim := arState.dims, node := if CDesc.role arDesc = 2 then CDesc.partner arDesc else 0 } : Topo).ranges arDesc,
      arState.denied (.core 0) false a.1 a.2.1 a.2.2 = none := by decide +kernel
  have h' : ∀ a ∈ ({ dim := arState.dims, node := if CDesc.role arDesc = 2 then CDesc.partner arDesc else 0 } : Topo).ranges arDesc, ∀ e,
      arState.denied (.core 0) false a.1 a.2.1 a.2.2 = some e → e.code ≠ 0x0980#16 := fun a ha e he => absurd (he.symm.trans (h a ha)) nofun
  refine ⟨arState, .core 0, cmd [0x60, 0, 0, 0x2000], arDesc, 0, ⟨rfl, rfl⟩, headAt_of ?_, ?_, ?_, ?_, ?_, ?_, ?_, ?_, ?_, ?_, h', _, .head _, ?_⟩ <;>
    decide +kernel

def MoveWit (P : State → COp → Prop) : Prop :=
  ∃ (s : State) (ch : Fin 16) (o : COp), Quiet s ∧ (s.chan ch).ops = [o] ∧ o.state = .waiting ∧ plainRing o.desc ∧ o.stalled = [] ∧
    o.out = ⟨[]⟩ ∧ o.spill = [] ∧ o.ahead = [] ∧ o.early = 0 ∧ o.hotOff = [] ∧ o.taken = none ∧ s.ms.hbm = 0 ∧ s.ms.critical = 0 ∧ P s o

theorem moveWit (dims : Nat) (d : CDesc) {P : State → COp → Prop} (h : plainRing d ∧ P (ost dims [cop d .waiting] []) (cop d .waiting)) : MoveWit P := by
  refine ⟨ost dims [cop d .waiting] [], 0, cop d .waiting, ⟨rfl, rfl⟩, rfl, rfl, h.1, ?_⟩
  exact ⟨rfl, rfl, rfl, rfl, rfl, rfl, rfl, rfl, rfl, h.2⟩

/-- A ring of one device, and of two. -/
theorem witness_CollectivesMoveData :
    (MoveWit fun s o => let d : CDesc := o.desc
      let ub := CDesc.unitBytes d
      ({ dim := s.dims, node := o.node.toNat } : Topo).ring d = 1 ∧
      (∀ u < CDesc.count d, s.denied o.owner false .read (CDesc.src d + u * ub) ub = none) ∧
      s.denied o.owner false .write (CDesc.dst d) (CDesc.count d * ub) = none) ∧
    MoveWit fun s o => let d : CDesc := o.desc
      let tp : Topo := { dim := s.dims, node := o.node.toNat }
      let n := tp.ring d
      let ub := CDesc.unitBytes d
      let part := tp.part d ((tp.me.x + (n - 1)) % n)
      n = 2 ∧ CDesc.op d ≠ 2 ∧ s.physOfNode (tp.atX ((tp.me.x + 1) % n)) = some 8 ∧ 0 < part.2 ∧ part.2 * ub ≤ 4032 ∧
      ∀ u < part.1 + part.2, part.1 ≤ u → s.denied o.owner false .read (CDesc.src d + u * ub) ub = none :=
  ⟨moveWit alone (cd (2 * 2 ^ 4 + 2 ^ 16) 2 0 0) (by unfold plainRing; decide +kernel),
   moveWit alongX (cd (2 * 2 ^ 4 + 2 ^ 16) 2 0 0) (by unfold plainRing; decide +kernel)⟩

theorem witness_CollectivesComplete : ∃ s, ∃ ch : Fin 16, ∃ o rest r, Quiet s ∧ (s.chan ch).ops = o :: rest ∧ o.owner = .core r ∧
    o.state = .moving ∧ o.stalled = [] ∧ o.out = ⟨[]⟩ ∧ o.owed = 0 ∧ o.unacked = 0 ∧ o.spill = [] ∧ o.handed = false ∧
    CDesc.op o.desc ≤ 2 ∧ CDesc.role o.desc ≠ 2 ∧ s.darns (.coll ch) = false ∧
    s.denied o.owner false .write (CDesc.stat o.desc) 64 = none :=
  let o := cop (cd (2 * 2 ^ 4 + 2 ^ 16) 2 0 0) .moving
  ⟨ost alone [o] [], 0, o, [], 0, ⟨rfl, rfl⟩, by decide +kernel⟩

def TimeWit (P : State → COp → Prop) : Prop :=
  ∃ (s : State) (ch : Fin 16) (o : COp) (r : CoreRef), Quiet s ∧ (s.chan ch).ops = [o] ∧ o.owner = .core r ∧
    (s.ifc (.core r)).halted = false ∧ s.pins.peClk = true ∧ P s o

/-- The deadline with the copy one unit short, and complete; and the two timers of an armed and of a moving operation. -/
theorem witness_CollectiveTimers :
    (TimeWit fun s o => let d : CDesc := o.desc
      (o.state = .armed ∧ CDesc.role d = 1 ∧ o.taken = none ∧ o.late = false ∧ CDesc.length d ≠ 0 ∧ CDesc.trig d = true ∧
        ((s.jobOf o.owner).map (·.iter)).getD 0 = o.armIter) ∧
      o.bkUnits + 1 = (({ dim := s.dims, node := o.node.toNat } : Topo).srcUnits d).2) ∧
    (TimeWit fun s o => let d : CDesc := o.desc
      (o.state = .armed ∧ CDesc.role d = 1 ∧ o.taken = none ∧ o.late = false ∧ CDesc.length d ≠ 0 ∧ CDesc.trig d = true ∧
        ((s.jobOf o.owner).map (·.iter)).getD 0 = o.armIter) ∧
      o.bkUnits = (({ dim := s.dims, node := o.node.toNat } : Topo).srcUnits d).2 ∧ s.physOfNode (CDesc.partner d) = some 8) ∧
    (TimeWit fun s o => let d : CDesc := o.desc
      CDesc.role d ≠ 2 ∧ (∀ n ∈ ({ dim := s.dims, node := o.node.toNat } : Topo).others d, s.physOfNode n ≠ none) ∧ o.state = .armed) ∧
    TimeWit fun s o => let d : CDesc := o.desc
      CDesc.role d ≠ 2 ∧ (∀ n ∈ ({ dim := s.dims, node := o.node.toNat } : Topo).others d, s.physOfNode n ≠ none) ∧ o.state = .moving :=
  let d := cd (2 * 2 ^ 4 + 2 ^ 6 + 2 ^ 8 + 2 ^ 16) 2 0 8
  let o := fun (x : COpState) (k : Nat) => { cop d x with bkUnits := k }
  ⟨⟨ost alongX [o .armed 1] [], 0, o .armed 1, 0, ⟨rfl, rfl⟩, by decide +kernel⟩,
   ⟨ost alongX [o .armed 2] [], 0, o .armed 2, 0, ⟨rfl, rfl⟩, by decide +kernel⟩,
   ⟨ost alongX [o .armed 0] [], 0, o .armed 0, 0, ⟨rfl, rfl⟩, by decide +kernel⟩,
   ⟨ost alongX [o .moving 0] [], 0, o .moving 0, 0, ⟨rfl, rfl⟩, by decide +kernel⟩⟩

/-- A packet from device 8 for an operation on channel 0. -/
def cpk (kind kspec : Nat) (d : CDesc) (w4 w7 w8 : Nat) (bs : List Byte) : Packet :=
  mkPacket kind 0 8 7 0 kspec 0 false ([w4, 4, CDesc.digest d, w7, w8] ++ [0, 0, 0, 0]) bs

theorem place_apart (s : State) {a b : Nat} (ha : hbmEnd ≤ a) (hb : b < hbmEnd) : s.place a = none ∨ s.place a ≠ s.place b := by
  rw [Decidable.or_iff_not_imp_left]
  intro _ he
  rw [State.place, if_neg (by omega), State.place, if_pos hb] at he
  split at he
  · dsimp only at he
    split at he
    · have := Option.some.inj he; omega
    · cases he
  · split at he
    · simp only [Option.map_eq_some_iff] at he
      obtain ⟨r, -, h⟩ := he
      have : hbmEnd ≤ basketBase := by decide
      omega
    · cases he

/-- The last partial sum of the own part, and the one row of the other device. -/
theorem witness_CollectiveDataConsumed :
    (∃ s p o peer, Quiet s ∧ packetFor s p o ∧ hKind p.hdr = 0x30 ∧ o.state = .moving ∧ s.peerOf o (hSrc p.hdr) = some peer ∧
      s.ms.hbm = 0 ∧ s.ms.critical = 0 ∧ (o.stalled = [] ∧ o.spill = [] ∧ o.ahead = [] ∧ o.hotOff = []) ∧
      let d : CDesc := o.desc
      let tp : Topo := { dim := s.dims, node := o.node.toNat }
      let n := p.word 8 % 2 ^ 12
      let ub := CDesc.unitBytes d
      let own := tp.own d
      0 < n ∧ CDesc.role d = 0 ∧ plainRing d ∧ CDesc.op d = 1 ∧ p.stage = 1 ∧ p.hop + 1 = tp.ring d ∧ 2 ≤ tp.ring d ∧
      p.payload.length = n * ub ∧ own.1 ≤ p.word 7 ∧ p.word 7 + n = own.1 + own.2 ∧
      (∀ k < n, s.denied o.owner false .read (CDesc.src d + (p.word 7 + k) * ub) ub = none) ∧
      (∀ j < CDesc.minStage d s.dims.2.2, ∀ k < n * ub,
        s.place (CDesc.stage d + j) = none ∨ s.place (CDesc.stage d + j) ≠ s.place (CDesc.src d + p.word 7 * ub + k)) ∧
      s.denied o.owner false .write (CDesc.dst d + (p.word 7 - own.1) * ub) (n * ub) = none) ∧
    ∃ s p o peer, Quiet s ∧ packetFor s p o ∧ hKind p.hdr = 0x30 ∧ o.state = .moving ∧ s.peerOf o (hSrc p.hdr) = some peer ∧
      s.ms.hbm = 0 ∧ s.ms.critical = 0 ∧ (o.stalled = [] ∧ o.spill = [] ∧ o.ahead = [] ∧ o.hotOff = []) ∧
      let d : CDesc := o.desc
      let n := p.word 8 % 2 ^ 12
      let z := (coordOf s.dims peer).z
      let rb := CDesc.rowBytes d
      0 < n ∧ CDesc.role d = 0 ∧ CDesc.op d = 3 ∧ p.stage = 4 ∧ 0 < rb ∧ p.payload.length = n * rb ∧ p.word 7 + n = CDesc.cap d ∧
      s.denied o.owner false .write (CDesc.dst d + (z * CDesc.cap d + p.word 7) * rb) (n * rb) = none :=
  let d := cd (1 + 2 * 2 ^ 4 + 2 ^ 16) 2 0 0
  let p := cpk 0x30 0 d (2 ^ 4 + 2 ^ 8) 0 1 [0, 0, 0x80, 0x3F]
  let o := cop d .moving
  let d3 := cd 3 1 (32 + 2 ^ 16) 0
  let p3 := cpk 0x30 0 d3 (4 * 2 ^ 4) 0 1 (List.replicate 32 7)
  let o3 := cop d3 .moving
  ⟨⟨ost alongX [o] [p], p, o, 8, ⟨rfl, rfl⟩, by
      obtain ⟨h1, h2, h3, h4, h5⟩ : hbmEnd ≤ CDesc.stage d ∧ CDesc.src d + 8 < hbmEnd ∧ p.word 7 = 0 ∧ p.word 8 % 2 ^ 12 = 1 ∧ CDesc.unitBytes d = 4 := by decide +kernel
      have hp : ∀ j < CDesc.minStage d (ost alongX [o] [p]).dims.2.2, ∀ k < p.word 8 % 2 ^ 12 * CDesc.unitBytes d, _ := fun j _ k hk =>
        place_apart (ost alongX [o] [p]) (a := CDesc.stage d + j) (b := CDesc.src d + p.word 7 * CDesc.unitBytes d + k) (by omega) (by
          rw [h4, h5] at hk; rw [h3]; omega)
      refine ⟨by unfold packetFor; decide +kernel, ?_⟩
      repeat' apply And.intro
      all_goals first | exact hp | (try unfold plainRing); decide +kernel⟩,
   ⟨ost alongZ [o3] [p3], p3, o3, 8, ⟨rfl, rfl⟩, by unfold packetFor; decide +kernel, by decide +kernel⟩⟩

def CtlWit (P : State → Packet → COp → Prop) : Prop :=
  ∃ s p o, Quiet s ∧ packetFor s p o ∧ hKind p.hdr = 0x31 ∧ P s p o

/-- The descriptor, and the packet, of a type for an operation of a role. -/
def ctlDesc (role : Nat) : CDesc := cd (2 * 2 ^ 4 + role * 2 ^ 8 + 2 ^ 16) 2 0 8
def ctlPacket (ct role : Nat) : Packet := cpk 0x31 ct (ctlDesc role) 0 1 0 []
def ctlState (ct role : Nat) : State := ost alongX [cop (ctlDesc role) .moving] [ctlPacket ct role]

theorem ctlWit (ct role : Nat) {P : State → Packet → COp → Prop}
    (h : packetFor (ctlState ct role) (ctlPacket ct role) (cop (ctlDesc role) .moving) ∧ hKind (ctlPacket ct role).hdr = 0x31 ∧
      P (ctlState ct role) (ctlPacket ct role) (cop (ctlDesc role) .moving)) : CtlWit P :=
  ⟨_, _, _, ⟨rfl, rfl⟩, h.1, h.2.1, h.2.2⟩

theorem witness_CollectiveControlPackets :
    (CtlWit fun _ p _ => p.ctype = 0) ∧ (CtlWit fun s p o => p.ctype = 1 ∧ s.peerOf o (hSrc p.hdr) = some 8) ∧
    (CtlWit fun _ p o => p.ctype = 2 ∧ CDesc.role o.desc = 2) ∧ (CtlWit fun _ p _ => p.ctype = 3) ∧
    CtlWit fun s p o => p.ctype = 4 ∧ o.owner = .core 0 ∧ (s.ifc (.core 0)).halted = false := by
  refine ⟨ctlWit 0 0 ?_, ctlWit 1 0 ?_, ctlWit 2 2 ?_, ctlWit 3 0 ?_, ctlWit 4 0 ?_⟩ <;> unfold packetFor <;> decide +kernel

/-! ### Witnesses: jobs and faults -/

/-- A ring of two entries at 0x8000 with one job descriptor, of a job of core 0, and the device ready. -/
def ringSt (word0 : Nat) : State :=
  { st {} {} (memAt 0x8000 (bytesOf [word0, 9, 0, 0, 0, 0, 0x2000, 0, 1, 0, 0x2100, 0, 1, 0, 0x2200, 0, 0, 0, 0x2300])) with
    jobs := ⟨[]⟩, cores := ⟨[]⟩
    hif := { ready := true, rings := ⟨[(0, { base := 0x8000, size := 1, tail := 65535, head := 65534 })]⟩ } }

/-- A check has passed. -/
def passes (x : Except Reject Unit) : Bool := match x with
  | .ok _ => true
  | .error _ => false

theorem ok_of {x : Except Reject Unit} (h : passes x = true) : x = .ok () := by
  cases x with
  | ok u => rfl
  | error e => cases h

/-- A descriptor that is good, and one of a reserved version. -/
theorem witness_JobsStart :
    (∃ s, ∃ ring : Fin 8, Quiet s ∧ let r := s.ring ring
      let entry := r.base.toNat + r.head.toNat % r.entries * 256
      let d := s.natAt entry 192
      s.hif.ready = true ∧ r.entries ≠ 0 ∧ r.head ≠ r.tail ∧ r.taken = none ∧ s.ft.folded = false ∧
      s.jobChecks entry d (s.jobFrom ring entry d) = .ok () ∧ s.copyBad (s.jobFrom ring entry d) = none ∧
      (s.jobFrom ring entry d).cores ≠ [] ∧ (s.jobFrom ring entry d).hemGangs = []) ∧
    ∃ s, ∃ ring : Fin 8, Quiet s ∧ let r := s.ring ring
      let entry := r.base.toNat + r.head.toNat % r.entries * 256
      let d := s.natAt entry 192
      s.hif.ready = true ∧ r.entries ≠ 0 ∧ r.head ≠ r.tail ∧ r.taken = none ∧ s.ft.folded = false ∧
      s.readable entry 192 = .ok () ∧ s.descGood d = false ∧ jdIrq d = false :=
  ⟨⟨ringSt 1, 0, ⟨rfl, rfl⟩, rfl, by decide +kernel, by decide +kernel, rfl, rfl, ok_of (by decide +kernel), by decide +kernel⟩,
   ⟨ringSt 2, 0, ⟨rfl, rfl⟩, rfl, by decide +kernel, by decide +kernel, rfl, rfl, ok_of (by decide +kernel), by decide +kernel⟩⟩

/-- A job of core 0 whose streams are at their ends. -/
theorem witness_JobsComplete : ∃ s n j, Quiet s ∧ s.job n = some j ∧ j.ended = false ∧ s.jobDone n j = true ∧
    (∀ e ∈ j.gens, e.ref0 = 0 ∧ e.ref1 = 0) ∧ codeClass j.code ≠ 2 ∧ jdIrq j.desc.toNat = false ∧ j.gens ≠ [] :=
  let j := { job0 with ifaces := [0], gens := [{ gent with ref0 := 0, ref1 := 0 }] }
  ⟨{ st {} { acc := { head := 3, count := 3 } } [] with jobs := ⟨[(0, some j)]⟩ }, 0, j, ⟨rfl, rfl⟩, by decide +kernel⟩

/-- The step that halts the interfaces, and the one that ends the job. -/
theorem witness_JobsHalt :
    (∃ s n j code idx r t, Quiet s ∧ s.job n = some j ∧ j.ended = false ∧ j.halt = some (code, idx, some (.core r), t) ∧ j.halted = false) ∧
    ∃ s n j code idx r t, Quiet s ∧ s.job n = some j ∧ j.ended = false ∧ j.halt = some (code, idx, some (.core r), t) ∧
      j.halted = true ∧ s.jobStill n j = true ∧ j.fatal = [] ∧ j.failed = [] ∧ s.ft.folded = false ∧ jdIrq j.desc.toNat = false :=
  let j := fun b => { job0 with ifaces := [0], halt := some (0x0681, 3, some (.core 0), .exe), halted := b }
  let s := fun b => { st {} { halted := true } [] with jobs := ⟨[(0, some (j b))]⟩ }
  ⟨⟨s false, 0, j false, 0x0681, 3, 0, .exe, ⟨rfl, rfl⟩, by decide +kernel⟩, ⟨s true, 0, j true, 0x0681, 3, 0, .exe, ⟨rfl, rfl⟩, by decide +kernel⟩⟩

/-- A done job with a reference left and an error among its codes; and a job that halts, as it has not and as it has. -/
theorem witness_EveryDoneJobCompletes : ∃ s n j, Quiet s ∧ s.job n = some j ∧ j.ended = false ∧ j.halt = none ∧
    (∀ i ∈ s.topIfaces n j, let y := s.ifc i
      y.halted = false ∧ y.store = [] ∧ y.solve = none ∧ y.acc.count ≤ y.acc.head ∧ y.acc.flight = [] ∧
      y.exe.count ≤ y.exe.head ∧ y.exe.flight = []) ∧ s.topIfaces n j ≠ [] ∧ (∃ e ∈ j.gens, e.ref0 ≠ 0) ∧ codeClass j.code = 2 :=
  let j := { job0 with ifaces := [0], gens := [gent], code := 0x0681 }
  ⟨{ st {} { acc := { head := 3, count := 3 } } [] with jobs := ⟨[(0, some j)]⟩ }, 0, j, ⟨rfl, rfl⟩, by decide +kernel⟩

theorem witness_EveryHaltedJobHalts : ∀ b : Bool, ∃ s n j h, Quiet s ∧ s.job n = some j ∧ j.ended = false ∧ j.halt = some h ∧
    j.halted = b ∧ j.fatal = [] ∧ s.allIfaces n j ≠ [] :=
  let j := fun b => { job0 with ifaces := [0], halt := some (0x0681, 3, some (.core 0), .exe), halted := b }
  fun b => ⟨{ st {} {} [] with jobs := ⟨[(0, some (j b))]⟩ }, 0, j b, (0x0681, 3, some (.core 0), .exe), ⟨rfl, rfl⟩, by cases b <;> decide +kernel⟩

/-- A good and a bad re-read, a recomputation that succeeds, and one that fails. -/
theorem witness_ParityErrors :
    (∃ s r x, Quiet s ∧ (s.core r).vec.run = some x ∧ x.owner = .core r ∧ s.ft.reread ≠ 0xFFFFFFFF ∧ s.ft.darn ≠ 0xFFFFFFFF ∧
      s.ft.darning.contains (.vector r) = false) ∧
    ∃ s r x, Quiet s ∧ (s.core r).vec.run = some x ∧ x.owner = .core r ∧ s.ft.reread ≠ 0xFFFFFFFF ∧ s.ft.darn ≠ 0xFFFFFFFF ∧
      s.ft.darning.contains (.vector r) = true ∧ (s.ifc (.core r)).halted = false ∧ (upto 16).all (fun ch => (s.chan ch).ops.isEmpty) = true :=
  ⟨⟨vst 0 {} [] run0, 0, run0, ⟨rfl, rfl⟩, by decide +kernel⟩,
   ⟨{ vst 0 {} [] run0 with ft := { darning := [.vector 0] } }, 0, run0, ⟨rfl, rfl⟩, by decide +kernel⟩⟩

/-- A stack that is trained; 14 and 15 retries; a job with a window on the stack; and a stack at full rate, and one at half rate. -/
theorem witness_HbmEvents :
    (∃ s, ∃ line : BitVec 31, Quiet s ∧ s.poisoned line.toNat = false ∧ s.ft.poison ≠ 0xFFFFFFFF ∧
      (s.ms.recent.filter fun x => x.1 == line.toNat / 2 ^ 28).length = 62) ∧
    (∃ s, ∃ k : Fin 8, Quiet s ∧ bitOf s.ms.hbm.toNat (4 * k) = true ∧ s.stackFailed k = false) ∧
    (∃ s, ∃ k : Fin 8, Quiet s ∧ s.stackFailed k = false ∧ s.ms.retries.get 0 k = 14) ∧
    (∃ s, ∃ k : Fin 8, Quiet s ∧ s.stackFailed k = false ∧ s.ms.retries.get 0 k = 15 ∧
      ∃ n j, s.job n = some j ∧ j.ended = false ∧ j.onStack k = true ∧ j.halt = none) ∧
    ∀ b, ∃ s, ∃ k : Fin 8, Quiet s ∧ bitOf s.ms.hbm.toNat (4 * k + 1) = b ∧ s.ms.home.asks.get [] (4 * k.val + 3) ≠ [] :=
  let s := fun ms => { st {} {} [] with ms := ms }
  ⟨⟨s { recent := List.replicate 62 (7, 0) }, 0x7FFFFFFF, ⟨rfl, rfl⟩, by decide +kernel⟩,
   ⟨s { hbm := 0x10000000 }, 7, ⟨rfl, rfl⟩, by decide +kernel⟩, ⟨s { retries := ⟨[(7, 14)]⟩ }, 7, ⟨rfl, rfl⟩, by decide +kernel⟩,
   ⟨s { retries := ⟨[(7, 15)]⟩ }, 7, ⟨rfl, rfl⟩, by decide +kernel, by decide +kernel, 0, job0, by decide +kernel⟩,
   fun b => ⟨s { hbm := if b then 2 else 0, home := { asks := ⟨[(3, [5])]⟩ } }, 0, ⟨rfl, rfl⟩, by cases b <;> decide +kernel⟩⟩

theorem witness_RinseScrubs : ∃ s, ∃ l : BitVec 31, Quiet s ∧ bitOf s.ms.rinse.toNat 0 = true ∧ s.hif.ready = true ∧
    s.ft.folded = false ∧ s.stackFailed (l.toNat / 2 ^ 28) = false ∧ s.poisoned l.toNat = false ∧ s.ms.rinseHbm + 2 = 2 ^ 31 ∧
    s.ms.rinseCor ≠ 0xFFFFFFFF ∧ s.ms.rinseUnc ≠ 0xFFFFFFFF ∧ s.ft.poison ≠ 0xFFFFFFFF ∧
    (s.ms.recent.filter fun x => x.1 == l.toNat / 2 ^ 28).length < 63 :=
  ⟨{ st {} {} [] with ms := { rinseHbm := 2 ^ 31 - 2 }, hif := { ready := true } }, 0x7FFFFFFE, ⟨rfl, rfl⟩, by decide +kernel⟩

/-- A Fold with a job that runs, and its second phase with no dirty line. -/
theorem witness_FoldPhases :
    (∃ s c, Quiet s ∧ s.ft.folded = false ∧ s.ft.want = some c ∧ s.liveDies ≠ [] ∧
      ∃ n j, s.job n = some j ∧ j.ended = false ∧ j.halt = none) ∧
    ∃ s, Quiet s ∧ s.ft.folded = true ∧ s.ft.bridge = false ∧ s.running = [] ∧ s.ms.home.lines = ⟨[]⟩ :=
  ⟨⟨{ st {} {} [] with ft := { want := some .tj115 }, seq := { coreRun := true }, pins := { vaux := true, enCore := 15, pgCore := 15, operation := 15 } },
      .tj115, ⟨rfl, rfl⟩, by decide +kernel, by decide +kernel, by decide +kernel, 0, job0, by decide +kernel⟩,
   ⟨{ State.reset with ft := { folded := true } }, ⟨rfl, rfl⟩, by decide +kernel⟩⟩

/-! ### Witnesses: the host interface and the mailboxes -/

/-- A device that runs and is ready, its link up and an IDE stream bound, with core 0 in a job. -/
def live : State :=
  { st {} {} [] with
    hif := { ready := true, linkUp := true, cfgReady := true, ideStr := [1] }
    pins := { vaux := true, enAna := true, enIo := true, enMem := true, enCore := 15, pgAna := true, pgIo := true, pgMem := true, pgCore := 15,
              perstN := true, operation := 15 }
    seq := { up := 7, coreRun := true }, mgt := { phase := 11, thimble := true, copy := some false, pol := { on := true, v := 750, now := 700 } } }

/-- The last 4,096 bytes, the last 512, a poisoned line, and a device that is not ready. -/
theorem witness_HostMemoryAccesses :
    (∃ s, ∃ off : BitVec 39, Quiet s ∧ s.hif.linkUp = true ∧ s.hif.d3hot = false ∧ s.hif.posted = [] ∧ (∀ k < 8, s.stackFailed k = false) ∧
      off.toNat + 4096 = 2 ^ 39 ∧ s.hif.ready = true ∧ s.poisonIn off.toNat 4096 = none) ∧
    (∃ s, ∃ off : BitVec 39, Quiet s ∧ s.hif.linkUp = true ∧ s.hif.d3hot = false ∧ s.hif.posted = [] ∧ (∀ k < 8, s.stackFailed k = false) ∧
      s.hif.ready = true ∧ s.poisonIn off.toNat 1 = some 3) ∧
    (∃ s, ∃ off : BitVec 39, Quiet s ∧ s.hif.linkUp = true ∧ s.hif.d3hot = false ∧ s.hif.posted = [] ∧ (∀ k < 8, s.stackFailed k = false) ∧
      off.toNat + 1 ≤ 2 ^ 39 ∧ s.hif.ready = false) ∧
    ∃ s, ∃ off : BitVec 39, Quiet s ∧ s.hif.linkUp = true ∧ s.hif.d3hot = false ∧ s.hif.posted = [] ∧ (∀ k < 8, s.stackFailed k = false) ∧
      off.toNat + (List.replicate 512 (0 : Byte)).length = 2 ^ 39 ∧ s.hif.ready = true ∧ s.ft.folded = false ∧ s.ms.poison = ⟨[]⟩ :=
  ⟨⟨live, BitVec.ofNat 39 (2 ^ 39 - 4096), ⟨rfl, rfl⟩, by decide +kernel⟩,
   ⟨{ live with ms := { poison := ⟨[(3, true)]⟩ } }, 1023, ⟨rfl, rfl⟩, by decide +kernel⟩,
   ⟨{ live with hif := { linkUp := true } }, 0, ⟨rfl, rfl⟩, by decide +kernel⟩,
   ⟨live, BitVec.ofNat 39 (2 ^ 39 - 512), ⟨rfl, rfl⟩, by decide +kernel⟩⟩

/-- A value that is a reserved encoding of no register (for COL_THERM the limits 1 and 2, and HYST 1), and one of the
register at an offset, where it has any. -/
def goodVal : Nat := 0x00010201
def badVal (off : Nat) : Nat := if off = 0x802000 then 0 else 0x3F3F0010

/-- The device with every register group owned by a party, and with a good, or bad, write to a register at the front of the queue. -/
def ownedBy (n : BitVec 2) : State := { live with hif := { live.hif with owner := ⟨(upto 18).map fun g => (g, n)⟩ } }
def queuedAt (n : BitVec 2) (off v : Nat) : State :=
  { ownedBy n with hif := { (ownedBy n).hif with posted := [{ off := BitVec.ofNat 26 off, wide := false, value := BitVec.ofNat 64 v }] } }

/-- The registers of the core domain, of stack 7, and those among them that have a reserved encoding. -/
def coreOffs : List Nat := [0x800200, 0x800204, 0x800280, 0x800300, 0x80103C, 0x801040, 0x802000, 0x802004]
def coreBad : List Nat := [0x800200, 0x80103C, 0x801040, 0x802000, 0x802004]

/-- For every register: a good write by the owner of its group, a bad one, and one of a group that is not the host's; the same of a write
at the front of the queue; and the last offset of the map. -/
theorem witness_HostRegisterWrites :
    (∃ s, Quiet s ∧ hostUp s ∧ ∀ p ∈ nearRegs goodVal 7, s.owner p.group = 3 ∧ p.good = true) ∧
    (∃ s, Quiet s ∧ hostUp s ∧ ∃ p ∈ nearRegs 0 7, s.owner p.group = 3 ∧ p.good = false) ∧
    (∃ s, Quiet s ∧ hostUp s ∧ ∀ p ∈ nearRegs goodVal 7, s.owner p.group ≠ 3) ∧
    (∀ n ∈ [2, 3], ∀ off ∈ coreOffs, ∃ s, Quiet s ∧
      s.hif.posted = [{ off := BitVec.ofNat 26 off, wide := false, value := BitVec.ofNat 64 goodVal }] ∧
      s.coreUp = true ∧ ∃ p ∈ coreRegs s goodVal 7, p.off = off ∧ p.good = true ∧ s.owner p.group = n) ∧
    (∀ off ∈ coreBad, ∃ s, Quiet s ∧ s.hif.posted = [{ off := BitVec.ofNat 26 off, wide := false, value := BitVec.ofNat 64 (badVal off) }] ∧
      s.coreUp = true ∧ ∃ p ∈ coreRegs s (badVal off) 7, p.off = off ∧ p.good = false ∧ s.owner p.group = 3) ∧
    ∃ s, ∃ off : BitVec 26, Quiet s ∧ s.coreUp = true ∧ 0x800000 ≤ off.toNat ∧ off = 0x3FFFFFF :=
  ⟨⟨ownedBy 3, ⟨rfl, rfl⟩, by unfold hostUp; decide +kernel⟩, ⟨ownedBy 3, ⟨rfl, rfl⟩, by unfold hostUp; decide +kernel⟩,
   ⟨ownedBy 2, ⟨rfl, rfl⟩, by unfold hostUp; decide +kernel⟩,
   fun n hn off ho => ⟨queuedAt n off goodVal, ⟨rfl, rfl⟩, rfl, rfl, by revert n off; decide +kernel⟩,
   fun off ho => ⟨queuedAt 3 off (badVal off), ⟨rfl, rfl⟩, rfl, rfl, by revert off; decide +kernel⟩,
   ⟨live, 0x3FFFFFF, ⟨rfl, rfl⟩, by decide +kernel⟩⟩

/-- A ring of two entries of which one is free: one ahead and two. -/
theorem witness_RingCommands :
    (∃ (s : State) (k : Fin 8) (v : Word), Quiet s ∧ hostUp s ∧ s.owner (k + 1) = 3 ∧ let r := s.ring k
      let n := r.entries
      n ≠ 0 ∧ (v.toNat % 65536 + 65536 - r.tail.toNat) % 65536 = (r.head.toNat + n + 65536 - r.tail.toNat) % 65536) ∧
    (∃ (s : State) (k : Fin 8) (v : Word), Quiet s ∧ hostUp s ∧ s.owner (k + 1) = 3 ∧ let r := s.ring k
      let n := r.entries
      n ≠ 0 ∧ (r.head.toNat + n + 65536 - r.tail.toNat) % 65536 + 1 = (v.toNat % 65536 + 65536 - r.tail.toNat) % 65536) ∧
    (∃ (s : State) (k : Fin 8), Quiet s ∧ hostUp s ∧ s.owner (k + 1) = 3 ∧ fld (s.ring k).sizeSh.toNat 0 4 = 12 ∧ (s.ring k).head = (s.ring k).tail ∧
      s.ringBusy k = false) ∧
    ∃ s, Quiet s ∧ hostUp s ∧ s.owner 0 = 3 ∧ s.hif.rings.wf {} = true :=
  let s : State := { live with hif := { live.hif with rings := ⟨[(7, { size := 1, head := 65535, tail := 0, sizeSh := 12 })]⟩ } }
  let q : State := { live with hif := { live.hif with rings := ⟨[(7, { sizeSh := 12 })]⟩ } }
  ⟨⟨s, 7, 1, ⟨rfl, rfl⟩, by unfold hostUp; decide +kernel⟩, ⟨s, 7, 2, ⟨rfl, rfl⟩, by unfold hostUp; decide +kernel⟩,
   ⟨q, 7, ⟨rfl, rfl⟩, by unfold hostUp; decide +kernel⟩, ⟨s, ⟨rfl, rfl⟩, by unfold hostUp; decide +kernel⟩⟩

theorem witness_GroupOwnership :
    (∃ s, ∃ g : Fin 18, Quiet s ∧ s.vilothRuns = true ∧ g = 15 ∧ 2 ≤ (s.owner g).toNat) ∧
    (∃ s, ∃ g : Fin 18, Quiet s ∧ s.vilothRuns = true ∧ s.owner g = 2) ∧ ∃ s, ∃ g : Fin 18, Quiet s ∧ hostUp s ∧ s.owner g = 2 :=
  ⟨⟨live, 15, ⟨rfl, rfl⟩, by decide +kernel⟩, ⟨{ live with hif := { live.hif with owner := ⟨[(3, 2)]⟩ } }, 3, ⟨rfl, rfl⟩, by decide +kernel⟩,
   ⟨live, 13, ⟨rfl, rfl⟩, by unfold hostUp; decide +kernel⟩⟩

/-- No job runs and the table has been committed; the registers of the last logical core; and a job that has ended. -/
theorem witness_ActionRegisters :
    (∃ s, Quiet s ∧ hostUp s ∧ s.owner 11 = 3 ∧ s.running = [] ∧ s.fab.rtWait = none ∧ s.fab.worms = ⟨[]⟩) ∧
    (∃ s r c, Quiet s ∧ hostUp s ∧ s.logicalOf r = some c ∧ s.physOf c = some r ∧ c = 255 ∧ s.owner 14 = 3 ∧
      (s.ifc (.core r)).halted = false) ∧
    ∃ s r c n j, Quiet s ∧ hostUp s ∧ s.logicalOf r = some c ∧ s.physOf c = some r ∧ c < 256 ∧ s.owner 14 = 3 ∧
      (s.ifc (.core r)).job = some n ∧ s.job n = some j ∧ j.ended = true :=
  let j := { job0 with ended := true }
  ⟨⟨{ live with jobs := ⟨[]⟩ }, ⟨rfl, rfl⟩, by unfold hostUp; decide +kernel⟩,
   ⟨live, 0x1F7, 255, ⟨rfl, rfl⟩, by unfold hostUp; decide +kernel⟩,
   ⟨{ live with jobs := ⟨[(0, some j)]⟩ }, 0, 0, 0, j, ⟨rfl, rfl⟩, by unfold hostUp; decide +kernel⟩⟩

theorem witness_ReadsThatClear : ∃ s, Quiet s ∧ hostUp s ∧ s.seq.still = none ∧ s.seq.coreRun = true := ⟨live, ⟨rfl, rfl⟩, by unfold hostUp; decide +kernel⟩

/-- A device with one mailbox channel as given. -/
def box (n : Nat) (c : Mbox) : State := { live with mbx := { ch := ⟨[(n, c)]⟩, order := if c.full then [Fin.ofNat 16 n] else [] } }

/-- The last channel of BAR0 and the first of BAR4, empty and full, with a window that has room for one word, none, and one word. -/
theorem witness_MailboxTransfers :
    (∃ s, ∃ n : Fin 16, Quiet s ∧ s.hif.d3hot = false ∧ s.hif.posted = [] ∧ bitOf s.hif.irq.toNat 16 = false ∧ n = 7 ∧ reachesMbx s (mbxSender n) n ∧
      (s.mbox n).full = false ∧ (s.mbox n).win.length = 255) ∧
    (∃ s, ∃ n : Fin 16, Quiet s ∧ s.hif.d3hot = false ∧ s.hif.posted = [] ∧ bitOf s.hif.irq.toNat 16 = false ∧ n = 8 ∧ reachesMbx s (mbxSender n) n ∧
      (s.mbox n).full = true ∧ (s.mbox n).win.length = 256) ∧
    (∃ s, ∃ n : Fin 16, Quiet s ∧ s.hif.d3hot = false ∧ s.hif.posted = [] ∧ bitOf s.hif.irq.toNat 16 = false ∧ n = 7 ∧ reachesMbx s (mbxReceiver n) n ∧
      (mbxReceiver n = .host → s.hif.ready = true ∨ s.ft.folded = true) ∧ (s.mbox n).full = true ∧ s.mbxEnabled n = false ∧
      (s.mbox n).win = [5]) ∧
    ∃ s, ∃ n : Fin 16, Quiet s ∧ s.hif.d3hot = false ∧ s.hif.posted = [] ∧ bitOf s.hif.irq.toNat 16 = false ∧ n = 8 ∧ reachesMbx s (mbxReceiver n) n ∧
      (mbxReceiver n = .host → s.hif.ready = true ∨ s.ft.folded = true) ∧ (s.mbox n).full = false ∧ (s.mbox n).win = [] :=
  ⟨⟨box 7 { win := List.replicate 255 1 }, 7, ⟨rfl, rfl⟩, rfl, rfl, by decide +kernel, rfl, by show _ ∧ _; decide +kernel, by decide +kernel⟩,
   ⟨box 8 { full := true, win := List.replicate 256 1 }, 8, ⟨rfl, rfl⟩, rfl, rfl, by decide +kernel, rfl, by show _ ∧ _; decide +kernel, by decide +kernel⟩,
   ⟨box 7 { full := true, win := [5] }, 7, ⟨rfl, rfl⟩, rfl, rfl, by decide +kernel, rfl, by show _ ∧ _; decide +kernel, by decide +kernel⟩,
   ⟨box 8 {}, 8, ⟨rfl, rfl⟩, rfl, rfl, by decide +kernel, rfl, by show _ ∧ _; decide +kernel, by decide +kernel⟩⟩

/-- R466, R498: a read of MBX_SIRQ_EN by the host outside a bound stream is refused and logged; by the secure host it reads. -/
theorem test_bar4_read_insecure :
    (live.bar4Read .host 0x104).replySt = .unsupported ∧ (live.bar4Read .host 0x104).hif.lastCode = Code.mbxInsecure := by decide +kernel
theorem test_bar4_read_secure :
    ({ live with mbx := { live.mbx with sirqEn := 5 } }.bar4Read .secureHost 0x104).reply = [5, 0, 0, 0] := by decide +kernel

theorem witness_LinkServices : ∃ s, ∃ k : Byte, Quiet s ∧ s.hif.linkUp = true ∧ s.vilothRuns = true ∧ s.hif.ideStr = [k] ∧
    s.hif.heldVec ≠ [] ∧ ∀ v ∈ s.hif.heldVec, bitOf (s.hif.msixTab.get msixReset v.toNat).toNat 96 = false :=
  ⟨{ live with hif := { live.hif with heldVec := [3], msixTab := ⟨[(3, 1)]⟩ } }, 1, ⟨rfl, rfl⟩, by decide +kernel⟩

/-- A running device with one request. -/
def ask (ch op : Nat) (arg : Word) (ws : List Word) (m : Mgt) : State :=
  { box ch { word := BitVec.ofNat 64 (op + 9 * 2 ^ 8 + ws.length * 2 ^ 16 + arg.toNat * 2 ^ 32), full := true, win := ws } with
    mgt := { m with phase := 11, thimble := true } }

theorem asked_of {ch op : Nat} {arg : Word} {ws : List Word} {m : Mgt} (hr : m.recovery = false)
    (h : (ask ch op arg ws m).mbx.order = [Fin.ofNat 16 ch] ∧ (ask ch op arg ws m).mbxEnabled ch = false ∧
      (ask ch op arg ws m).mbxEnabled (ch + 4) = false ∧ (ask ch op arg ws m).mbox (ch + 4) = {} ∧ (ask ch op arg ws m).mbox ch =
        { word := BitVec.ofNat 64 (op + (9 : Byte).toNat * 2 ^ 8 + ws.length * 2 ^ 16 + arg.toNat * 2 ^ 32), full := true, win := ws }) :
    asked (ask ch op arg ws m) ch op 9 arg ws := ⟨rfl, rfl, rfl, hr, by show 9 ≤ 11; decide, fun _ => rfl, h.1, h.2.1, h.2.2.1, h.2.2.2.1, h.2.2.2.2⟩

/-- A Lint record of a number. -/
def rec' (n : Word) : LintRec := { code := 0x0E41, source := 0, seq := n, time := 0, key := 0, loc := 0, args := [0, 0, 0, 0, 0] }

/-- The requests of Viloth, on its first and last channels. -/
theorem witness_VilothMessages :
    (∃ s tag arg, Quiet s ∧ asked s 0 0x01 tag arg []) ∧
    (∃ s tag arg r l, Quiet s ∧ asked s 3 0x02 tag arg [] ∧ s.lint.held.dropWhile (fun r => r.seq.toNat != arg.toNat) = r :: l) ∧
    (∃ s tag arg r l, Quiet s ∧ asked s 3 0x02 tag arg [] ∧ s.lint.held = r :: l ∧ (∀ x ∈ r :: l, x.seq ≠ arg) ∧
      arg.toNat < s.lint.nextSeq.toNat) ∧
    (∃ (s : State) (tag : Byte) (arg : Word) (cap vset : BitVec 16), Quiet s ∧ asked s 3 0x03 tag arg [cap.setWidth 32, vset.setWidth 32] ∧
      s.owner 15 = 2 ∧ cap.toNat = 600 ∧ cap.toNat ≤ s.capMax ∧ vset.toNat = 850) ∧
    (∃ s tag arg, Quiet s ∧ asked s 0 0x06 tag arg []) ∧ (∃ s tag arg, Quiet s ∧ asked s 0 0x07 tag arg []) ∧
    ∃ s tag arg, ∃ op : Byte, Quiet s ∧ asked s 0 op.toNat tag arg [] ∧ op.toNat ∉ [1, 2, 3, 4, 5, 6, 7] :=
  let s : State := { ask 3 2 6 [] {} with lint := { ring := [rec' 5, rec' 6], nextSeq := 7 } }
  let g : State := { ask 3 2 4 [] {} with lint := { ring := [rec' 5, rec' 6], nextSeq := 7 } }
  ⟨⟨ask 0 1 0 [] {}, 9, 0, ⟨rfl, rfl⟩, asked_of rfl (by decide +kernel)⟩,
   ⟨s, 9, 6, rec' 6, [], ⟨rfl, rfl⟩, asked_of (m := {}) rfl (by decide +kernel), by decide +kernel⟩,
   ⟨g, 9, 4, rec' 5, [rec' 6], ⟨rfl, rfl⟩, asked_of (m := {}) rfl (by decide +kernel), by decide +kernel⟩,
   ⟨ask 3 3 0 [600, 850] {}, 9, 0, 600, 850, ⟨rfl, rfl⟩, asked_of rfl (by decide +kernel), by decide +kernel⟩,
   ⟨ask 0 6 0 [] {}, 9, 0, ⟨rfl, rfl⟩, asked_of rfl (by decide +kernel)⟩, ⟨ask 0 7 0 [] {}, 9, 0, ⟨rfl, rfl⟩, asked_of rfl (by decide +kernel)⟩,
   ⟨ask 0 8 0 [] {}, 9, 0, 8, ⟨rfl, rfl⟩, asked_of rfl (by decide +kernel), by decide⟩⟩

/-- The three power messages, and one while an update is open. -/
theorem witness_PowerMessages :
    (∃ s tag arg, Quiet s ∧ s.mgt.update = none ∧ s.seq.down = 0 ∧ asked s 0 0x04 tag arg []) ∧
    (∃ s tag, ∃ arg : Word, Quiet s ∧ s.mgt.update = none ∧ s.seq.down = 0 ∧ asked s 0 0x05 tag arg [] ∧ bitOf arg.toNat 0 = true) ∧
    (∃ s tag, ∃ arg : Word, Quiet s ∧ s.mgt.update = none ∧ asked s 0 0x05 tag arg [] ∧ bitOf arg.toNat 0 = false) ∧
    ∃ s tag arg, Quiet s ∧ s.mgt.update ≠ none ∧ asked s 0 0x04 tag arg [] :=
  ⟨⟨ask 0 4 0 [] {}, 9, 0, ⟨rfl, rfl⟩, rfl, rfl, asked_of rfl (by decide +kernel)⟩,
   ⟨ask 0 5 1 [] {}, 9, 1, ⟨rfl, rfl⟩, rfl, rfl, asked_of rfl (by decide +kernel), by decide⟩,
   ⟨ask 0 5 2 [] {}, 9, 2, ⟨rfl, rfl⟩, rfl, asked_of rfl (by decide +kernel), by decide⟩,
   ⟨ask 0 4 0 [] { update := some { target := false, bytes := 4096 } }, 9, 0, ⟨rfl, rfl⟩, nofun, asked_of rfl (by decide +kernel)⟩⟩

/-- The digest of no bytes (FIPS 180-4), as words. -/
def emptyDigest : List Word :=
  [0x35E183CF, 0xBDB8EF7E, 0x502854F1, 0x07806DD6, 0x05E420D6, 0xDC15570B, 0x21A9F483, 0xCEE96CD3,
   0x3CD1D047, 0xB0F2855D, 0xD21883FF, 0x2FEC7E87, 0xBD31B963, 0x817A4147, 0x7A3238A5, 0x3EDA27F9]

/-- The words of a header sector of firmware of length 0 with that digest. -/
def fwHeader : List Word := List.replicate 16 0 ++ emptyDigest ++ List.replicate 992 0

/-- What a firmware update can meet: a header that fills up to its last word but one, and its body after it; the end, in which all words
of the header alone stand; and the messages without more. -/
theorem witness_FirmwareUpdates :
    (∃ s tag arg c, Quiet s ∧ asked s 8 0x40 tag arg [] ∧ s.mgt.update = none ∧ s.mgt.copy = some c) ∧
    (∃ s tag arg ws, ∃ u : Update, Quiet s ∧ asked s 8 0x41 tag arg ws ∧ ws ≠ [] ∧ ws.length = 256 ∧ s.mgt.update = some u ∧
      u.words + ws.length ≤ (u.bytes + 3) / 4 ∧ u.words + ws.length = 1023) ∧
    (∃ s tag arg ws, ∃ u : Update, Quiet s ∧ asked s 11 0x41 tag arg ws ∧ ws ≠ [] ∧ ws.length ≤ 256 ∧ s.mgt.update = some u ∧
      u.words + ws.length = (u.bytes + 3) / 4 ∧ u.words = 1024) ∧
    (∃ s tag arg, ∃ u : Update, Quiet s ∧ asked s 8 0x42 tag arg [] ∧ s.mgt.update = some u ∧ (u.bytes + 3) / 4 ≤ u.words ∧ u.erased = true ∧
      u.hdr.length = 1024 ∧ sha512 (s.flashBytes ((if u.target then 0x1000000 else 0) + 0x1000) (hdLen (wordBytes u.hdr))) =
        hdDigest (wordBytes u.hdr)) ∧
    ∃ s tag arg, Quiet s ∧ asked s 8 0x43 tag arg [] ∧ s.vilothRuns = true :=
  let u := { target := true, bytes := 4096, words := 767, hdr := List.replicate 767 0 }
  let v := { target := true, bytes := 4097, words := 1024, hdr := List.replicate 1024 0, erased := true }
  let w := { target := true, bytes := 4096, words := 1024, hdr := fwHeader, erased := true }
  ⟨⟨ask 8 0x40 4096 [] { copy := some false }, 9, 4096, false, ⟨rfl, rfl⟩, asked_of rfl (by decide +kernel), rfl, rfl⟩,
   ⟨ask 8 0x41 0 (List.replicate 256 0) { update := some u }, 9, 0, List.replicate 256 0, u, ⟨rfl, rfl⟩, asked_of rfl (by decide +kernel), by decide +kernel⟩,
   ⟨ask 11 0x41 0 [7] { update := some v }, 9, 0, [7], v, ⟨rfl, rfl⟩, asked_of rfl (by decide +kernel), by decide +kernel⟩,
   ⟨ask 8 0x42 0 [] { update := some w }, 9, 0, w, ⟨rfl, rfl⟩, asked_of rfl (by decide +kernel), rfl, by decide +kernel, rfl, by decide +kernel, by decide +kernel⟩,
   ⟨ask 8 0x43 0 [] {}, 9, 0, ⟨rfl, rfl⟩, asked_of rfl (by decide +kernel), rfl⟩⟩

/-- The last free generation, and no free one; and a request to unlock with no settings. -/
theorem witness_ThimbleMessages :
    (∃ s tag arg ws k, Quiet s ∧ asked s 8 0x44 tag arg ws ∧ ws.length = 8 ∧ k = 3 ∧ s.settingsGen k = 0 ∧ ∀ j < k, s.settingsGen j ≠ 0) ∧
    (∃ s tag arg ws, Quiet s ∧ asked s 8 0x44 tag arg ws ∧ ws.length = 8 ∧ ∀ k < 4, s.settingsGen k ≠ 0) ∧
    (∃ s tag arg c, Quiet s ∧ asked s 8 0x45 tag arg [] ∧ s.mgt.copy = some c) ∧ (∃ s tag arg, Quiet s ∧ asked s 11 0x46 tag arg []) ∧
    ∃ s tag arg ws, Quiet s ∧ asked s 8 0x47 tag arg ws ∧ ws.length = 24 :=
  let otp := fun n : Nat => BitVec.ofNat 8192 (((upto n).map fun k => 2 ^ (8 * (0x300 + 32 * k))).sum)
  ⟨⟨ask 8 0x44 0 (List.replicate 8 0) { otp := otp 3 }, 9, 0, List.replicate 8 0, 3, ⟨rfl, rfl⟩, asked_of rfl (by decide +kernel), by decide +kernel⟩,
   ⟨ask 8 0x44 0 (List.replicate 8 0) { otp := otp 4 }, 9, 0, List.replicate 8 0, ⟨rfl, rfl⟩, asked_of rfl (by decide +kernel), by decide +kernel⟩,
   ⟨ask 8 0x45 0 [] { copy := some true }, 9, 0, true, ⟨rfl, rfl⟩, asked_of rfl (by decide +kernel), rfl⟩,
   ⟨ask 11 0x46 0 [] {}, 9, 0, ⟨rfl, rfl⟩, asked_of rfl (by decide +kernel)⟩,
   ⟨ask 8 0x47 0 (List.replicate 24 0) {}, 9, 0, List.replicate 24 0, ⟨rfl, rfl⟩, asked_of rfl (by decide +kernel), rfl⟩⟩

/-! ### Witnesses: readings, supplies, start-up and resets -/

/-- Temperatures that reach 95 C and 105 C, the limits at reset. -/
theorem witness_StackTemperatures : ∃ s, ∃ temps : List Byte, Quiet s ∧ s.vilothRuns = true ∧ s.seq.still = none ∧ 8 ≤ s.mgt.phase.toNat ∧ temps.length = 8 :=
  ⟨live, [95, 105, 94, 104, 90, 91, 0, 255], ⟨rfl, rfl⟩, by decide +kernel⟩

/-- A reading of a highest temperature. -/
def reading (tj : BitVec 16) : PolicyReading :=
  { temps := tj :: List.replicate 255 0, powerW := 2400, pace := 5 :: List.replicate 31 6, hotN := true }

theorem reading_le {tj : BitVec 16} (h : 0 ≤ tj.toInt) : ∀ x ∈ (reading tj).temps, x.toInt ≤ tj.toInt := by
  intro x hx
  simp only [reading, List.mem_cons] at hx
  obtain rfl | hx := hx
  · exact Int.le_refl _
  · rw [List.eq_of_mem_replicate hx]; exact h

/-- At 105 C and 115 C, with the policy off and on, in a Fold too, at 10 mV below and 3 mV above the setpoint. -/
theorem witness_CoreVoltage :
    (∃ s, ∃ r : PolicyReading, ∃ tj, Quiet s ∧ s.vilothRuns = true ∧ r.temps.length = 256 ∧ r.pace.length = 32 ∧ (∀ x ∈ r.temps, x.toInt ≤ tj) ∧
      (∃ x ∈ r.temps, x.toInt = tj) ∧ s.mgt.pol.on = false ∧ tj = 1680) ∧
    (∀ b, ∃ s, ∃ r : PolicyReading, ∃ tj, Quiet s ∧ s.vilothRuns = true ∧ r.temps.length = 256 ∧ r.pace.length = 32 ∧
      (∀ x ∈ r.temps, x.toInt ≤ tj) ∧ (∃ x ∈ r.temps, x.toInt = tj) ∧ s.mgt.pol.on = true ∧ tj = 1840 ∧ s.ft.bridge = b) ∧
    (∃ s now, Quiet s ∧ s.vilothRuns = true ∧ s.mgt.pol.on = true ∧ s.mgt.pol.now < s.mgt.pol.v ∧ now = min s.mgt.pol.v (s.mgt.pol.now + 10)) ∧
    ∃ s now, Quiet s ∧ s.vilothRuns = true ∧ s.mgt.pol.on = true ∧ s.mgt.pol.v < s.mgt.pol.now ∧ now = max s.mgt.pol.v (s.mgt.pol.now - 10) :=
  ⟨⟨{ live with mgt := {} }, reading 1680, 1680, ⟨rfl, rfl⟩, by decide +kernel, by decide +kernel, by decide +kernel, reading_le (by decide),
      ⟨1680, .head _, by decide⟩, by decide +kernel, rfl⟩,
   fun b => ⟨{ live with ft := { folded := b, bridge := b } }, reading 1840, 1840, ⟨rfl, rfl⟩, by cases b <;> decide +kernel, by decide +kernel,
      by decide +kernel, reading_le (by decide), ⟨1840, .head _, by decide⟩, rfl, rfl, rfl⟩,
   ⟨{ live with mgt := { pol := { on := true, v := 750, now := 740 } } }, 750, ⟨rfl, rfl⟩, by decide +kernel⟩,
   ⟨{ live with mgt := { pol := { on := true, v := 750, now := 753 } } }, 750, ⟨rfl, rfl⟩, by decide +kernel⟩⟩

/-- A device that runs; and a power-down in which the other planes have been read at 99 mV. -/
theorem witness_PmbusReads :
    (∃ s, Quiet s ∧ s.vilothRuns = true ∧ s.seq.down = 0) ∧
    ∃ s, ∃ plane : Fin 4, ∃ v : BitVec 16, Quiet s ∧ s.vilothRuns = true ∧ s.seq.down = 1 ∧ s.pins.pgCore = 0 ∧ s.pins.pgIo = true ∧
      v.toNat = 99 ∧ ∀ e : Fin 4, e ≠ plane → (s.mgt.vread.get 0 e).toNat % 2 ^ 16 = 99 :=
  ⟨⟨live, ⟨rfl, rfl⟩, by decide +kernel⟩,
   ⟨{ live with
      seq := { live.seq with down := 1 }, pins := { live.pins with pgCore := 0 }
      mgt := { live.mgt with vread := ⟨[(0, 99), (1, 99), (2, 99), (3, 700)]⟩ } }, 3, 99, ⟨rfl, rfl⟩, by decide +kernel⟩⟩

/-- A device at a phase of power-up, with power-good inputs as given. -/
def upTo (up : Nat) (p : Pins) : State := { State.reset with pins := { p with vaux := true, rstN := true }, seq := { up := up }, mgt := { phase := 1 } }

theorem witness_SuppliesRise :
    (∃ s, Quiet s ∧ s.pins.vaux = false) ∧
    (∃ s, Quiet s ∧ s.vilothRuns = true ∧ s.seq.down = 0 ∧ s.seq.up = 3 ∧ (s.pins.pgIo && s.pins.pgMem) = false) ∧
    (∃ s g, Quiet s ∧ s.vilothRuns = true ∧ s.seq.down = 0 ∧ s.seq.up = 4 ∧ s.mgt.recovery = false ∧
      s.pins.pgCore &&& s.diesOn ≠ s.diesOn ∧ (g = PowerGroup.io ∧ s.pins.pgMem = true)) ∧
    (∃ s g, Quiet s ∧ s.vilothRuns = true ∧ s.seq.down = 0 ∧ s.seq.up = 4 ∧ s.mgt.recovery = false ∧
      s.pins.pgCore &&& s.diesOn ≠ s.diesOn ∧ (g = PowerGroup.mem ∧ s.pins.pgIo = true)) ∧
    (∃ s, ∃ d : Fin 4, Quiet s ∧ s.vilothRuns = true ∧ s.seq.down = 0 ∧ s.seq.up = 5 ∧ s.pins.rstN = true ∧
      ∀ e : Fin 4, e ≠ d → bitOf s.diesOn.toNat e = true → bitOf s.pins.pgCore.toNat e = true) ∧
    (∃ s, Quiet s ∧ s.vilothRuns = true ∧ s.seq.down = 0 ∧ s.seq.retry = true ∧ s.seq.up = 0 ∧ s.pins.pgAna = false) ∧
    ∃ s, Quiet s ∧ s.vilothRuns = true ∧ s.seq.down = 0 ∧ s.seq.restart = true ∧ s.seq.up = 0 :=
  ⟨⟨.reset, ⟨rfl, rfl⟩, rfl⟩, ⟨upTo 3 {}, ⟨rfl, rfl⟩, by decide +kernel⟩, ⟨upTo 4 { pgMem := true }, .io, ⟨rfl, rfl⟩, by decide +kernel⟩,
   ⟨upTo 4 { pgIo := true }, .mem, ⟨rfl, rfl⟩, by decide +kernel⟩, ⟨upTo 5 { pgCore := 7 }, 3, ⟨rfl, rfl⟩, by decide +kernel⟩,
   ⟨{ upTo 0 {} with seq := { retry := true } }, ⟨rfl, rfl⟩, by decide +kernel⟩, ⟨{ upTo 0 {} with seq := { restart := true } }, ⟨rfl, rfl⟩, by decide +kernel⟩⟩

/-- An input that has not come, at the second failure and the third; a supply that is lost; and a core plane that is lost. -/
theorem witness_SuppliesFall :
    (∃ s, Quiet s ∧ s.vilothRuns = true ∧ s.seq.down = 0 ∧ s.seq.up = 3 ∧ s.pins.good .ana = false ∧ s.pins.enabled .ana = true ∧ s.seq.fails = 1) ∧
    (∃ s, ∃ d : Fin 4, Quiet s ∧ s.vilothRuns = true ∧ s.seq.down = 0 ∧ s.seq.up = 5 ∧ s.pins.good (.core d) = false ∧
      s.pins.enabled (.core d) = true ∧ s.seq.fails = 2) ∧
    (∃ s, Quiet s ∧ s.vilothRuns = true ∧ s.seq.down = 0 ∧ s.seq.up = 4 ∧ s.pins.good .io = false ∧ s.pins.enabled .io = true) ∧
    (∃ s g, Quiet s ∧ s.vilothRuns = true ∧ s.seq.down = 0 ∧ (g = PowerGroup.ana ∨ g = .io ∨ g = .mem) ∧ s.pins.good g = true ∧
      s.pins.enabled g = true) ∧
    (∃ s, ∃ d : Fin 4, Quiet s ∧ s.vilothRuns = true ∧ s.seq.down = 0 ∧ bitOf s.pins.pgCore.toNat d = true ∧ bitOf s.pins.enCore.toNat d = true ∧
      s.seq.coreRun = true) ∧
    ∃ s, Quiet s ∧ s.vilothRuns = true ∧ s.seq.down = 0 ∧ s.pins.thermtrip = false :=
  ⟨⟨{ upTo 3 { enAna := true } with seq := { up := 3, fails := 1 } }, ⟨rfl, rfl⟩, by decide +kernel⟩,
   ⟨{ upTo 5 { enCore := 8 } with seq := { up := 5, fails := 2 } }, 3, ⟨rfl, rfl⟩, by decide +kernel⟩,
   ⟨upTo 4 { enIo := true }, ⟨rfl, rfl⟩, by decide +kernel⟩, ⟨live, .mem, ⟨rfl, rfl⟩, by decide +kernel⟩, ⟨live, 3, ⟨rfl, rfl⟩, by decide +kernel⟩,
   ⟨live, ⟨rfl, rfl⟩, by decide +kernel⟩⟩

/-- A fold over bytes with each step taken before the next, so that the kernel can run it. -/
def foldRun (f : Nat → Byte → Nat) : List Byte → Nat → Nat
  | [], c => c
  | b :: l, c => match f c b with
    | 0 => foldRun f l 0
    | n + 1 => foldRun f l (n + 1)

theorem foldRun_eq (f : Nat → Byte → Nat) (l : List Byte) (c : Nat) : foldRun f l c = l.foldl f c := by
  induction l generalizing c with
  | nil => rfl
  | cons b l ih =>
    rw [foldRun, List.foldl_cons]
    split <;> rename_i h <;> rw [ih, h]

/-- An OTP of zeros but for the two CRCs, which are good. -/
def otp0 : BitVec 8192 := BitVec.ofNat 8192 (0x2A45 * 2 ^ (8 * 0x1E) + 0x36C5 * 2 ^ (8 * 0x2C0))

theorem otp0_good (s : State) (h : s.mgt.otp = otp0) : s.otpGood = true := by
  have key : let t : State := { State.reset with mgt := { otp := otp0 } }
      (t.otpNat 0x1E 2 == foldRun (fun c b => crc16Byte c b.toNat) (t.otpBytes 0 30) 0xFFFF && 
        t.otpNat 0x2C0 2 == foldRun (fun c b => crc16Byte c b.toNat) (t.otpBytes 0x90 (0x2C0 - 0x90)) 0xFFFF) = true := by
    decide +kernel
  simpa only [foldRun_eq, State.otpGood, State.otpNat, State.otpBytes, crc16, h] using key

/-- What ROM can observe, in its order. -/
theorem witness_RomStarts :
    (∃ s, Quiet s ∧ s.pins.vaux = true ∧ s.pins.mgtClk = false) ∧
    (∃ s, ∃ o : BootObs, Quiet s ∧ s.pins.vaux = true ∧ s.pins.mgtClk = true ∧ s.seq.up = 1 ∧ s.seq.down = 0 ∧ s.seq.stopped = false ∧
      s.mgt.phase = 1 ∧ o.mgtClk = false) ∧
    (∃ s, ∃ o : BootObs, Quiet s ∧ s.pins.vaux = true ∧ s.pins.mgtClk = true ∧ s.seq.up = 1 ∧ s.seq.down = 0 ∧ s.seq.stopped = false ∧
      o.mgtClk = true ∧ o.thimbleOk = false) ∧
    (∃ s, ∃ o : BootObs, Quiet s ∧ s.pins.vaux = true ∧ s.pins.mgtClk = true ∧ s.seq.up = 1 ∧ s.seq.down = 0 ∧ s.seq.stopped = false ∧
      o.mgtClk = true ∧ o.thimbleOk = true ∧ s.otpGood = false) ∧
    (∃ s, ∃ o : BootObs, Quiet s ∧ s.pins.vaux = true ∧ s.pins.mgtClk = true ∧ s.seq.up = 1 ∧ s.seq.down = 0 ∧ s.seq.stopped = false ∧
      o.mgtClk = true ∧ o.thimbleOk = true ∧ s.otpGood = true ∧ o.sfdpOk = false) ∧
    ∃ s, ∃ o : BootObs, Quiet s ∧ s.pins.vaux = true ∧ s.pins.mgtClk = true ∧ s.seq.up = 1 ∧ s.seq.down = 0 ∧ s.seq.stopped = false ∧
      s.mgt.phase ≠ 1 ∧ o.thimbleOk = true ∧ s.otpGood = true ∧ o.sfdpOk = true ∧ s.pins.pgAna = false :=
  let s : State := { upTo 1 {} with mgt := { phase := 2, otp := otp0 } }
  ⟨⟨upTo 1 { mgtClk := false }, ⟨rfl, rfl⟩, by decide +kernel⟩, ⟨upTo 1 {}, ⟨false, true, true⟩, ⟨rfl, rfl⟩, by decide +kernel⟩,
   ⟨upTo 1 {}, ⟨true, false, true⟩, ⟨rfl, rfl⟩, by decide +kernel⟩,
   ⟨{ upTo 1 {} with mgt := { phase := 1, otp := 1 } }, ⟨true, true, true⟩, ⟨rfl, rfl⟩, by decide +kernel⟩,
   ⟨s, ⟨true, true, false⟩, ⟨rfl, rfl⟩, (by rw [show s.otpGood = true from otp0_good _ rfl]; decide +kernel)⟩,
   ⟨s, ⟨true, true, true⟩, ⟨rfl, rfl⟩, (by rw [show s.otpGood = true from otp0_good _ rfl]; decide +kernel)⟩⟩

/-- A flash whose copy A is a header of length 0 with its digest. -/
def flashA : Tab Byte := ⟨memAt 0 (wordBytes fwHeader)⟩

theorem goodA (s : State) (h : s.mgt.flash = flashA) :
    sha512 (s.flashBytes ((if false then 0x1000000 else 0) + 0x1000) (hdLen (s.header false))) = hdDigest (s.header false) := by
  have key : let t : State := { State.reset with mgt := { flash := flashA } }
      sha512 (t.flashBytes ((if false then 0x1000000 else 0) + 0x1000) (hdLen (t.header false))) = hdDigest (t.header false) := by
    decide +kernel
  simpa only [State.flashBytes, State.flashByte, State.header, h] using key

/-- The ends of phases 7 to 10. -/
theorem witness_FirmwareStarts :
    (∃ s c, Quiet s ∧ s.vilothRuns = true ∧ s.mgt.copy = some c ∧ s.seq.up = 7 ∧ s.mgt.phase = 7 ∧ s.seq.still = none ∧
      sha512 (s.flashBytes ((if c then 0x1000000 else 0) + 0x1000) (hdLen (s.header c))) = hdDigest (s.header c)) ∧
    (∃ s c, Quiet s ∧ s.vilothRuns = true ∧ s.mgt.copy = some c ∧ s.seq.up = 7 ∧ s.mgt.phase = 7 ∧ s.seq.still = none ∧ s.seq.badA = false ∧ s.seq.badB = false ∧
      s.seq.down = 0 ∧ ¬ sha512 (s.flashBytes ((if c then 0x1000000 else 0) + 0x1000) (hdLen (s.header c))) = hdDigest (s.header c)) ∧
    (∃ s c, Quiet s ∧ s.vilothRuns = true ∧ s.mgt.copy = some c ∧ s.seq.still.isSome = true ∧
      sha512 (s.flashBytes ((if c then 0x1000000 else 0) + 0x1000) (hdLen (s.header c))) = hdDigest (s.header c)) ∧
    (∃ s, Quiet s ∧ s.vilothRuns = true ∧ s.mgt.phase = 9 ∧ s.seq.still = none) ∧
    (∃ s, ∃ k : Fin 8, Quiet s ∧ s.vilothRuns = true ∧ s.mgt.phase = 9 ∧ bitOf s.seq.trained.toNat k = false ∧
      s.seq.trained ||| BitVec.ofNat 8 (2 ^ k.val) = 0xFF ∧ s.stackFailed k = false ∧ s.running = []) ∧
    (∃ s, Quiet s ∧ s.vilothRuns = true ∧ s.mgt.phase = 9 ∧ s.seq.selfDone = false) ∧
    (∃ s, Quiet s ∧ s.vilothRuns = true ∧ s.mgt.phase = 10 ∧ s.fab.worms = ⟨[]⟩ ∧ s.seq.foldAtStart = false) ∧
    ∃ s, Quiet s ∧ s.vilothRuns = true ∧ s.mgt.phase = 10 ∧ s.fab.worms = ⟨[]⟩ ∧ s.seq.foldAtStart = true ∧ s.ft.folded = false ∧ s.ft.want = none :=
  let s := fun (ph : BitVec 4) q => { upTo 7 {} with mgt := { phase := ph, flash := flashA, copy := some false }, seq := q }
  ⟨⟨s 7 { up := 7 }, false, ⟨rfl, rfl⟩, rfl, rfl, rfl, rfl, rfl, goodA _ rfl⟩,
   ⟨{ upTo 7 {} with mgt := { phase := 7, flash := ⟨[(0xC, 0), (0xD, 0), (0xE, 0), (0xF, 0)]⟩, copy := some false } }, false, ⟨rfl, rfl⟩, by decide +kernel⟩,
   ⟨s 11 { still := some ({}, {}) }, false, ⟨rfl, rfl⟩, rfl, rfl, rfl, goodA _ rfl⟩, ⟨s 9 {}, ⟨rfl, rfl⟩, by decide +kernel⟩, ⟨s 9 { trained := 0x7F }, 7, ⟨rfl, rfl⟩, by decide +kernel⟩,
   ⟨s 9 {}, ⟨rfl, rfl⟩, rfl, rfl, rfl⟩, ⟨s 10 {}, ⟨rfl, rfl⟩, rfl, rfl, rfl, rfl⟩, ⟨s 10 { foldAtStart := true }, ⟨rfl, rfl⟩, rfl, rfl, rfl, rfl, rfl, rfl⟩⟩

/-- A device under a reset of a cause, one part of it or all of them done. -/
def under (c : BitVec 3) (a b d : Bool) : State := { live with seq := { live.seq with reset := some ⟨c, a, b, d⟩ } }

theorem witness_ResetsRun :
    (∃ s, Quiet s ∧ s.vilothRuns = true ∧ s.mgt.phase ≠ 11) ∧ (∃ s, Quiet s ∧ s.vilothRuns = true ∧ s.mgt.phase = 11) ∧
    (∃ s r, Quiet s ∧ s.vilothRuns = true ∧ s.seq.down = 0 ∧ s.seq.reset = some r ∧ r.cause = 1 ∧ s.seq.up = 7) ∧
    (∃ s, Quiet s ∧ s.vilothRuns = true ∧ s.seq.down = 0 ∧ s.seq.reset = none ∧ s.seq.up = 6) ∧
    (∃ s, Quiet s ∧ s.hif.linkUp = true ∧ s.pins.vaux = true) ∧ (∃ s r, Quiet s ∧ s.seq.reset = some r ∧ r.wbDone = false) ∧
    (∃ s r, Quiet s ∧ s.seq.reset = some r ∧ r.causeDone = true ∧ r.wbDone = true ∧ r.linkDone = true) ∧
    (∃ s r, Quiet s ∧ s.pins.vaux = true ∧ s.pins.peClk = true ∧ s.pins.pgIo = true ∧ s.hif.linkUp = false ∧ s.fab.worms = ⟨[]⟩ ∧ s.seq.reset = some r ∧ r.cause = 4 ∧
      s.ft.folded = false ∧ s.pins.mgtClk = true ∧ s.mgt.phase = 11) ∧
    ∃ s, Quiet s ∧ s.pins.vaux = true ∧ s.pins.peClk = true ∧ s.pins.pgIo = true ∧ s.hif.linkUp = false ∧ s.fab.worms = ⟨[]⟩ ∧ s.ft.folded = true :=
  ⟨⟨upTo 3 {}, ⟨rfl, rfl⟩, by decide +kernel⟩, ⟨live, ⟨rfl, rfl⟩, by decide +kernel⟩, ⟨under 1 false true true, _, ⟨rfl, rfl⟩, rfl, rfl, rfl, rfl, rfl⟩,
   ⟨upTo 6 {}, ⟨rfl, rfl⟩, by decide +kernel⟩, ⟨live, ⟨rfl, rfl⟩, by decide +kernel⟩, ⟨under 2 true false true, _, ⟨rfl, rfl⟩, rfl, rfl⟩,
   ⟨under 2 true true true, _, ⟨rfl, rfl⟩, rfl, rfl, rfl, rfl⟩,
   ⟨{ under 4 false true false with hif := {} }, ⟨4, false, true, false⟩, ⟨rfl, rfl⟩, by decide +kernel⟩,
   ⟨{ live with hif := {}, ft := { folded := true } }, ⟨rfl, rfl⟩, by decide +kernel⟩⟩

/-- A record of the error class at the window's last place and beyond it, and an event that waits behind it. -/
theorem witness_LintMoves :
    (∃ s r q, Quiet s ∧ s.vilothRuns = true ∧ s.lint.queue = r :: q ∧ s.lint.lostNew = 0 ∧ s.lint.waiting = [] ∧
      0x80 ≤ r.code.toNat % 256 ∧ s.lint.winCount = 63) ∧
    (∃ s r q, Quiet s ∧ s.vilothRuns = true ∧ s.lint.queue = r :: q ∧ s.lint.lostNew = 0 ∧ s.lint.waiting = [] ∧
      0x80 ≤ r.code.toNat % 256 ∧ s.lint.winCount = 64) ∧
    (∃ s r q e w, Quiet s ∧ s.vilothRuns = true ∧ s.lint.queue = r :: q ∧ s.lint.lostNew = 0 ∧ s.lint.waiting = e :: w ∧ q.length = 255 ∧
      ∀ y ∈ q, e.same y = false) ∧
    (∃ s, Quiet s ∧ s.vilothRuns = true ∧ s.lint.winSkip = 0) ∧ ∃ s, Quiet s ∧ s.vilothRuns = true ∧ s.lint.winSkip ≠ 0 :=
  let r := { rec' 0 with code := 0x0E84 }
  let s := fun l => { live with lint := l }
  ⟨⟨s { queue := [r], winCount := 63 }, r, [], ⟨rfl, rfl⟩, by decide +kernel⟩, ⟨s { queue := [r], winCount := 64 }, r, [], ⟨rfl, rfl⟩, by decide +kernel⟩,
   ⟨s { queue := r :: List.replicate 255 r, waiting := [rec' 0] }, r, List.replicate 255 r, rec' 0, [], ⟨rfl, rfl⟩, by decide +kernel⟩,
   ⟨live, ⟨rfl, rfl⟩, rfl, rfl⟩, ⟨s { winSkip := 2 }, ⟨rfl, rfl⟩, rfl, nofun⟩⟩

/-! ### Witnesses: the fabric -/

theorem crc32_run (l : List Byte) : crc32 l =
    (foldRun (fun c b => (upto 8).foldl (fun c _ => crcBit c) (c ^^^ b.toNat)) l 0xFFFFFFFF) ^^^ 0xFFFFFFFF := by rw [foldRun_eq]; rfl

/-- Frames of SEQ 0: one with a control block, and the first flit of a packet of 300 bytes. -/
def frameBlock : BitVec 2176 := BitVec.ofNat 2176 (1 + 2 ^ 48 + 5 * 2 ^ 64 + 0x051DD742 * 2 ^ 2144)
def frameFlit : BitVec 2176 := BitVec.ofNat 2176 (2 + 300 * 2 ^ 112 + 0x0397C41B * 2 ^ 2144)
/-- A state with port 12 as given, and all else of the fabric as given. -/
def pst (p : Port) (f : Fabric) : State := { live with fab := { f with ports := ⟨[(12, p)]⟩ } }

/-- A port that is UP, and a frame that FEC and CRC find good. -/
def FrameWit (P : State → Fin 13 → Port → BitVec 2176 → Prop) : Prop := ∃ (s : State) (n : Fin 13) (f : BitVec 2176) (fec : FecResult), Quiet s ∧
  let p := s.port n
  p.state = 2 ∧ p.owe = ⟨[]⟩ ∧ p.outq = [] ∧ p.nakDue = false ∧ (decide (fec ≠ .uncorrected) && crc32 (leBytes 268 f.toNat) == fld f.toNat 2144 32) = true ∧
  P s n p f

def upPort : Port := { state := 2, noProg := 31 }

theorem frameWit (p : Port) (f : BitVec 2176) {P : State → Fin 13 → Port → BitVec 2176 → Prop}
    (h : (foldRun (fun c b => (upto 8).foldl (fun c _ => crcBit c) (c ^^^ b.toNat)) (leBytes 268 f.toNat) 0xFFFFFFFF) ^^^ 0xFFFFFFFF =
      fld f.toNat 2144 32) (hs : p.state = 2 ∧ p.owe = ⟨[]⟩ ∧ p.outq = [] ∧ p.nakDue = false) (hp : P (pst p {}) 12 p f) : FrameWit P :=
  ⟨pst p {}, 12, f, .clean, ⟨rfl, rfl⟩, hs.1, hs.2.1, hs.2.2.1, hs.2.2.2, by rw [crc32_run, h]; simp, hp⟩

/-- The frame that is due, at the last step before the port gives up: a control block and a flit, with room in the replay store and with
none; the frame after a missing one, before and after its NAK; and a bad one, with room for the NAK and with none. -/
theorem witness_FramesReceived :
    (∃ (s : State) (n : Fin 13), Quiet s ∧ (s.port n).state ≠ 2) ∧
    (∀ k ∈ [1023, 1024], ∃ (s : State) (n : Fin 13), Quiet s ∧ let p := s.port n
      p.state = 2 ∧ p.owe = ⟨[]⟩ ∧ p.outq = [] ∧ p.nakDue = false ∧ p.replay.length = k ∧ p.err ≠ 0xFFFFFFFF) ∧
    (∀ b, FrameWit fun _ _ p f => fSeq f ≠ p.rxSeq ∧ p.nakSent = b) ∧
    (FrameWit fun s n p f => fSeq f = p.rxSeq ∧ fNak f = false ∧ p.noProg = 31 ∧ fType f = 1 ∧ s.overBreak n = false ∧ p.replay = []) ∧
    FrameWit fun _ _ p f => fSeq f = p.rxSeq ∧ fNak f = false ∧ p.noProg = 31 ∧ fType f = 2 ∧
      (p.replay.filter fun x => decide ((fSeq x - fAck f - 1).toNat < 2048)).length = 1023 :=
  let held := { upPort with replay := List.replicate 1023 20#2176 }
  ⟨⟨live, 0, ⟨rfl, rfl⟩, by decide +kernel⟩, fun k _ => ⟨pst { upPort with replay := List.replicate k 0 } {}, 12, ⟨rfl, rfl⟩, rfl, rfl, rfl, rfl,
      List.length_replicate .., (by show (0 : Word) ≠ _; decide)⟩,
   fun b => frameWit { upPort with rxSeq := 4095, nakSent := b } frameBlock (by decide +kernel) ⟨rfl, rfl, rfl, rfl⟩
      ⟨(by show fSeq frameBlock ≠ 4095; decide +kernel), rfl⟩,
   frameWit upPort frameBlock (by decide +kernel) (by decide +kernel) (by decide +kernel),
   frameWit held frameFlit (by decide +kernel) ⟨rfl, rfl, rfl, rfl⟩ (by decide +kernel)⟩

/-- Port 12 of device 0 of two along Z, with no axis of more: its partner to come is device 8. -/
theorem witness_PortStates :
    (∃ (s : State) (n : Fin 13), Quiet s ∧ s.fab.worms = ⟨[]⟩ ∧ s.portClock n = false) ∧
    (∃ (s : State) (n : Fin 13), Quiet s ∧ s.fab.worms = ⟨[]⟩ ∧ s.portClock n = true ∧ (s.port n).state = 1 ∧ s.expectedPeer n = some 8) ∧
    (∃ (s : State) (n : Fin 13), Quiet s ∧ s.fab.worms = ⟨[]⟩ ∧ s.portClock n = true ∧ (s.port n).state = 0 ∧ s.expectedPeer n = none) ∧
    (∃ (s : State) (n : Fin 13), Quiet s ∧ s.fab.worms = ⟨[]⟩ ∧ s.portClock n = true ∧ (s.port n).state = 1 ∧ s.expectedPeer n = some 8 ∧
      s.running = []) ∧
    (∃ (s : State) (n : Fin 13), Quiet s ∧ s.fab.worms = ⟨[]⟩ ∧ (s.port n).state = 1 ∧ (s.port n).outq = [] ∧ s.portEnabled n = false) ∧
    ∃ (s : State) (n : Fin 13), Quiet s ∧ s.fab.worms = ⟨[]⟩ ∧ (s.port n).state = 2 ∧ (s.port n).outq = [] ∧ s.portEnabled n = true ∧
      ∃ k j, s.job k = some j ∧ j.ended = false ∧ j.halt = none :=
  ⟨⟨{ pst {} {} with pins := { live.pins with sdClk := 0 } }, 12, ⟨rfl, rfl⟩, by decide +kernel⟩,
   ⟨pst { state := 1 } { rt := some (rt alongZ) }, 12, ⟨rfl, rfl⟩, by decide +kernel⟩, ⟨pst {} {}, 12, ⟨rfl, rfl⟩, by decide +kernel⟩,
   ⟨{ pst { state := 1 } { rt := some (rt alongZ) } with jobs := ⟨[]⟩ }, 12, ⟨rfl, rfl⟩, by decide +kernel⟩,
   ⟨pst { state := 1 } {}, 12, ⟨rfl, rfl⟩, by decide +kernel⟩,
   ⟨pst { state := 2 } { rt := some (rt alongZ) }, 12, ⟨rfl, rfl⟩, rfl, by decide +kernel, by decide +kernel, by decide +kernel, 0, job0, by decide +kernel⟩⟩

/-- A state with one packet to inject, two devices along Z, and port 11 or 12 as given. -/
def inj (k : Packet) (en : BitVec 13) (p : Port) : State :=
  { pst p { rt := some { rt alongZ with portEn := en }, inject := [k] } with jobs := ⟨[]⟩ }

def FwdWit (P : State → Packet → RouteTable → Prop) : Prop :=
  ∃ s k rest r, Quiet s ∧ s.fab.rt = some r ∧ r.brk = 0 ∧ s.ft.folded = false ∧ hData k.hdr = false ∧ s.fab.inject = k :: rest ∧
    s.fab.discard ≠ 0xFFFFFFFF ∧ P s k r

/-- A packet of a kind to a node, with no fields that matter here. -/
def pk (kind dst : Nat) : Packet := mkPacket kind dst 8 7 1 0 0 false [] []

theorem fwdWit (k : Packet) (en : BitVec 13) (p : Port) {P : State → Packet → RouteTable → Prop}
    (h : hData k.hdr = false ∧ P (inj k en p) k { rt alongZ with portEn := en }) : FwdWit P :=
  ⟨inj k en p, k, [], _, ⟨rfl, rfl⟩, rfl, rfl, rfl, h.1, rfl, (by show (0 : Word) ≠ _; decide), h.2⟩

def knows (k : Packet) : Bool := (kindInfo (hKind k.hdr)).isSome
def within (s : State) (k : Packet) : Bool := decide (hDst k.hdr < 8 * s.dims.1 * s.dims.2.1 * s.dims.2.2)

/-- The nodes at both ends: 15, the last of two devices along Z with their hems, and 16, the first beyond. A packet that a port took
goes by the table before the one in effect. -/
theorem witness_PacketsForwarded :
    (FwdWit fun _ k _ => knows k = false) ∧ (FwdWit fun s k _ => knows k = true ∧ within s k = false ∧ hDst k.hdr = 16) ∧
    (FwdWit fun s k r => knows k = true ∧ within s k = true ∧ hMcast k.hdr = false ∧ hDst k.hdr = r.myPhys.toNat ∧ hKind k.hdr ≠ 0x21) ∧
    (FwdWit fun s k r => knows k = true ∧ within s k = true ∧ hMcast k.hdr = false ∧ hDst k.hdr = 15 ∧ hDst k.hdr ≠ r.myPhys.toNat ∧
      s.portEnabled (nextLink s.dims (coordOf s.dims r.myPhys.toNat) (coordOf s.dims (hDst k.hdr)) k.hdr).1 = false) ∧
    (FwdWit fun s k r => let hop := nextLink s.dims (coordOf s.dims r.myPhys.toNat) (coordOf s.dims (hDst k.hdr)) k.hdr
      let p := s.port hop.1
      knows k = true ∧ within s k = true ∧ hMcast k.hdr = false ∧ hDst k.hdr ≠ r.myPhys.toNat ∧ p.state = 2 ∧ s.portEnabled hop.1 = true ∧
        p.replay.length = 1022 ∧ p.held.get false (vcOn hop.1 hop.2) = false ∧ p.hasRoom hop.1 (vcOn hop.1 hop.2) 1 = true ∧ p.owe = ⟨[]⟩) ∧
    ∃ s k r, ∃ q : Fin 13, ∃ v : BitVec 3, ∃ c cs r', Quiet s ∧ s.fab.rt = some r ∧ r.brk = 0 ∧ s.ft.folded = false ∧ hData k.hdr = false ∧
      (s.port q).inq.get [] v.toNat = c :: cs ∧ c.load = .ctl k ∧ (if c.old.isSome then c.old else s.fab.rt) = some r' ∧ c.old.isSome = true ∧
      knows k = true ∧ hMcast k.hdr = false ∧ hKind k.hdr ≠ 0x21 ∧ hDst k.hdr = r'.myPhys.toNat ∧ outside r' (hDst k.hdr) = false :=
  let full : Port := { state := 2, replay := List.replicate 1022 0 }
  let old := { rt alongZ with myPhys := 8 }
  let c : Cell := { load := .ctl (pk 1 8), old := some old }
  ⟨fwdWit (pk 0x0F 0) 0 {} (by decide +kernel), fwdWit (pk 1 16) 0 {} (by decide +kernel), fwdWit (pk 1 0) 0 {} (by decide +kernel),
   fwdWit (pk 1 15) 0 {} (by decide +kernel),
   ⟨{ inj (pk 1 8) 0x1FFF {} with fab := { (inj (pk 1 8) 0x1FFF {}).fab with ports := ⟨[(11, full)]⟩ } },
      pk 1 8, [], _, ⟨rfl, rfl⟩, rfl, rfl, rfl, by decide +kernel⟩,
   ⟨pst { state := 2, inq := ⟨[(7, [c])]⟩ } { rt := some (rt alongZ) }, pk 1 8, rt alongZ, 12, 7, c, [], old,
      ⟨rfl, rfl⟩, rfl, rfl, rfl, by decide +kernel⟩⟩

/-- A data packet of 700 bytes for device 8, over port 11. -/
def long : Packet := mkPacket 0x02 8 0 7 1 0 0 false [] (List.replicate 636 3)
def wst (w : Option Worm) : State :=
  { live with fab := { rt := some (rt alongZ), inject := [long], ports := ⟨[(11, { state := 2, replay := List.replicate 1022 0 })]⟩
                       worms := ⟨w.toList.map fun w => (104, some w)⟩ } }

/-- The head flit, the flit before the last, and the last. -/
theorem witness_FlitsForwarded : let hop := nextLink (wst none).dims (coordOf (wst none).dims 0) (coordOf (wst none).dims 8) long.hdr
    hop.1 = 11 ∧ ∀ w ∈ [none, some { hdr := hop.2, out := some 11, moved := 1 }, some { hdr := hop.2, out := some 11, moved := 2 }],
      let s := wst w
      let p := s.port 11
      let v := vcOn 11 hop.2
      Quiet s ∧ s.fab.rt = some (rt alongZ) ∧ s.ft.folded = false ∧ (rt alongZ).brk = 0 ∧ hData long.hdr = true ∧ s.fab.inject = [long] ∧ hVcc long.hdr = 0 ∧
      s.fab.worms.get none 104 = w ∧ (kindInfo (hKind long.hdr)).isSome = true ∧ hMcast long.hdr = false ∧
      hDst long.hdr < 8 * s.dims.1 * s.dims.2.1 * s.dims.2.2 ∧ hDst long.hdr ≠ (rt alongZ).myPhys.toNat ∧ hLen hop.2 = hLen long.hdr ∧
      256 * 2 < 64 + hLen long.hdr ∧ 64 + hLen long.hdr ≤ 256 * 3 ∧ p.state = 2 ∧ p.replay.length + 1 < 1024 ∧
      p.hasRoom 11 v 4 = true ∧ p.owe = ⟨[]⟩ ∧ s.portEnabled 11 = true ∧ p.held.get false v = false ∧ p.outq = [] ∧ p.nakDue = false := by
  refine ⟨by decide +kernel, fun w hw => ?_⟩
  simp only [List.mem_cons, List.not_mem_nil, or_false] at hw
  obtain rfl | rfl | rfl := hw <;> exact ⟨⟨rfl, rfl⟩, by decide +kernel⟩

/-- An image for device 0, alone, with one entry; and one whose device is another. -/
def imgSt (node : Nat) : State :=
  { live with mem := ⟨memAt 0x10000 (bytesOf [node, 0x010101, 0, 0]) ++ [(0x10041, 0x80)]⟩, fab := { rtWait := some 0x10000 } }

/-- A table's rules, as `RouteTableApplied` says them. -/
def imageGood (s : State) (a : DWord) : Bool :=
  let w := fun (k : Nat) => s.natAt (a.toNat + 4 * k) 4
  let dim := (fld (w 1) 0 7, fld (w 1) 8 7, fld (w 1) 16 7)
  let es := ((upto 16384).map fun k => (k, s.natAt (a.toNat + 64 + 2 * k) 2)).filter fun e => e.2 != 0
  let limit := 8 * dim.1 * dim.2.1 * dim.2.2
  decide (a.toNat + 32832 ≤ hbmEnd) && decide (a.toNat % 64 = 0) && decide (w 0 = s.physNode) && rtSizesGood (w 1) (w 2) &&
    decide (w 0 < limit) && rtPortsGood dim (w 0) (w 2) (w 3) && decide (s.natAt (a.toNat + 16) 48 = 0) && rtMapGood limit es

theorem cellsGet_above (l : List (Nat × Byte)) {b k : Nat} (h : l.all (fun e => decide (e.1 < b)) = true) (hk : b ≤ k) :
    cellsGet 0 l k = 0 := by
  induction l with
  | nil => rfl
  | cons e r ih =>
    simp only [List.all_cons, Bool.and_eq_true, decide_eq_true_eq] at h
    rw [cellsGet, if_neg (by omega)]
    exact ih h.2

theorem natAt_above {s : State} (hw : s.wlog = []) {b a : Nat} (h : s.mem.cells.all (fun e => decide (e.1 < b)) = true)
    (hb : b ≤ a) (ha : a + 1 < hbmEnd) : s.natAt a 2 = 0 := by
  have hz (k : Nat) (h1 : b ≤ k) (h2 : k < hbmEnd) : s.byteAt k = 0 := by
    rw [State.byteAt, State.place, if_pos h2]
    show s.rd k = 0
    rw [State.rd, hw]
    exact cellsGet_above _ h h1
  simp [State.natAt, State.bytesAt, hz a hb (by omega), hz (a + 1) (by omega) ha, leNat]

theorem rangeFrom_mem (a n k : Nat) (h : k ∈ rangeFrom a n) : a ≤ k ∧ k < a + n := by
  induction n generalizing a with
  | zero => simp [rangeFrom] at h
  | succ n ih =>
    rcases List.mem_cons.mp h with rfl | h
    · omega
    · have := ih _ h; omega

/-- The image's entries that are not 0: the first. -/
theorem img_entries : (((upto 16384).map fun k => (k, (imgSt 0).natAt (0x10000 + 64 + 2 * k) 2)).filter fun e => e.2 != 0) = [(0, 0x8000)] := by
  have hr : ((rangeFrom 1 16383).map fun k => (k, (imgSt 0).natAt (0x10000 + 64 + 2 * k) 2)).filter (fun e => e.2 != 0) = [] := by
    rw [List.filter_eq_nil_iff]
    intro e he
    obtain ⟨k, hk, rfl⟩ := List.mem_map.mp he
    have hk := rangeFrom_mem _ _ _ hk
    simp [natAt_above (s := imgSt 0) rfl (b := 0x10042) (a := 0x10000 + 64 + 2 * k) (by decide +kernel) (by omega) (by unfold hbmEnd; omega)]
  have h0 : (imgSt 0).natAt (0x10000 + 64 + 2 * 0) 2 = 0x8000 := by decide +kernel
  rw [show upto 16384 = 0 :: rangeFrom 1 16383 from rfl, List.map_cons, List.filter_cons, h0, hr]
  rfl

theorem img_good : imageGood (imgSt 0) 0x10000 = true := by
  rw [imageGood]
  dsimp only
  rw [show (0x10000 : DWord).toNat = 0x10000 from rfl, img_entries]
  decide +kernel

theorem witness_RouteTableApplied :
    (∃ s a, Quiet s ∧ s.fab.rtWait = some a ∧ imageGood s a = true ∧ ∀ n : Fin 13, (s.port n).state ≠ 2) ∧
    ∃ s a, Quiet s ∧ s.fab.rtWait = some a ∧ imageGood s a = false :=
  ⟨⟨imgSt 0, 0x10000, ⟨rfl, rfl⟩, rfl, img_good, by decide +kernel⟩, ⟨imgSt 1, 0x10000, ⟨rfl, rfl⟩, rfl, by decide +kernel⟩⟩

/-! ### Witnesses: requests, replies and messages of other devices -/

/-- A job's window with every permission and REMOTE, up to an address. -/
def winTo (n : Nat) : BitVec 256 := BitVec.ofNat 256 (n * 2 ^ 64 + 2 ^ 128 + 2 ^ 129 + 2 ^ 131)

/-- One packet of a class has come, for the job of key 7. -/
def got (cls : Nat) (p : Packet) : State :=
  { st {} {} [] with jobs := ⟨[(0, some { job0 with wins := [winTo 0x2000] })]⟩, fab := { rt := some (rt alongZ), eject := ⟨[(cls, [p])]⟩ } }

/-- A request for an address from device 8. -/
def req (kind a w6 : Nat) (bs : List Byte) : Packet := mkPacket kind 0 8 7 1 0 0 false [a, 0, w6, 0, 0, 0, 0, 0, 0, 0, 0, 0] bs

/-- The longest read and the shortest, at the window's end; a write and an atomic that just fit, and ones that do not. -/
theorem witness_RequestsServed :
    (∃ s p rest, Quiet s ∧ s.ejected 0 = p :: rest ∧ hKind p.hdr = 0x01 ∧ p.word 6 = 4096 ∧
      s.serves (hKey p.hdr) .read p.addr (p.word 6) = true ∧ s.poisonIn p.addr (p.word 6) = none) ∧
    (∃ s p rest, Quiet s ∧ s.ejected 0 = p :: rest ∧ hKind p.hdr = 0x01 ∧ p.word 6 = 1 ∧
      s.serves (hKey p.hdr) .read p.addr (p.word 6) = true ∧ s.poisonIn p.addr (p.word 6) = none) ∧
    (∃ s p rest, Quiet s ∧ s.ejected 0 = p :: rest ∧ hKind p.hdr = 0x01 ∧ s.serves (hKey p.hdr) .read p.addr (p.word 6) = false) ∧
    (∃ s p rest, Quiet s ∧ s.ejected 0 = p :: rest ∧ hKind p.hdr = 0x02 ∧
      s.serves (hKey p.hdr) .write p.addr p.payload.length = true ∧ s.poisonPart p.addr p.payload.length = none) ∧
    (∃ s p rest, Quiet s ∧ s.ejected 0 = p :: rest ∧ hKind p.hdr = 0x02 ∧ s.serves (hKey p.hdr) .write p.addr p.payload.length = false) ∧
    (∃ s p rest, Quiet s ∧ s.ejected 0 = p :: rest ∧ hKind p.hdr = 0x03 ∧
      let x := fld (p.word 6) 0 4
      let a := p.addr
      let bs := p.payload
      x = 12 ∧ a % atomicSize x = 0 ∧ bs.length % atomicSize x = 0 ∧ bs ≠ [] ∧ a + bs.length ≤ hbmEnd ∧
      s.serves (hKey p.hdr) .atomic a bs.length = true ∧ s.poisonIn a bs.length = none) ∧
    (∃ s p rest, Quiet s ∧ s.ejected 0 = p :: rest ∧ hKind p.hdr = 0x03 ∧ s.serves (hKey p.hdr) .atomic p.addr p.payload.length = false) ∧
    (∃ s p rest, Quiet s ∧ s.ejected 2 = p :: rest ∧ hKind p.hdr = 0x22 ∧
      s.serves (hKey p.hdr) .write p.addr p.payload.length = true ∧ s.poisonPart p.addr p.payload.length = none) ∧
    ∃ s p rest, Quiet s ∧ s.ejected 2 = p :: rest ∧ hKind p.hdr = 0x22 ∧ s.serves (hKey p.hdr) .write p.addr p.payload.length = false :=
  let far := 0x1FFD
  ⟨⟨got 0 (req 1 0x1000 4096 []), _, [], ⟨rfl, rfl⟩, rfl, by decide +kernel⟩,
   ⟨got 0 (req 1 0x1FFF 1 []), _, [], ⟨rfl, rfl⟩, rfl, by decide +kernel⟩,
   ⟨got 0 (req 1 0x2000 1 []), _, [], ⟨rfl, rfl⟩, rfl, by decide +kernel⟩,
   ⟨got 0 (req 2 0x1FFC 0 [1, 2, 3, 4]), _, [], ⟨rfl, rfl⟩, rfl, by decide +kernel⟩,
   ⟨got 0 (req 2 0x2000 0 [1, 2, 3, 4]), _, [], ⟨rfl, rfl⟩, rfl, by decide +kernel⟩,
   ⟨got 0 (req 3 0x1FFC 12 [1, 2, 3, 4]), _, [], ⟨rfl, rfl⟩, rfl, by decide +kernel⟩,
   ⟨got 0 (req 3 0x2000 12 [1, 2, 3, 4]), _, [], ⟨rfl, rfl⟩, rfl, by decide +kernel⟩,
   ⟨got 2 (req 0x22 0x1FFC 0 [1, 2, 3, 4]), _, [], ⟨rfl, rfl⟩, rfl, by decide +kernel⟩,
   ⟨got 2 (req 0x22 0x2000 0 [1, 2, 3, 4]), _, [], ⟨rfl, rfl⟩, rfl, by decide +kernel⟩⟩

/-- Core 0's one command in flight has made one request of device 8, and a reply has come. -/
def asked (r : Remote) (f : Flight) (p : Packet) : State :=
  { st {} { acc := { flight := [f] } } [] with fab := { rt := some (rt alongZ), eject := ⟨[(1, [p])]⟩, remote := [r] } }

def rq (k : ReqKind) : Remote := { txn := 1, kind := k, owner := .core 0, node := 8, idx := 2, addr := 0x1000, dst := 0x3000, len := 8, got := 4 }
def fl (n : Nat) : Flight := { idx := 2, cmd := cmd [0x10, 0, 0, 0, 8, 0, 0x3000, 0], reqs := n }

def ReplyWit (P : State → Remote → Flight → Packet → Prop) : Prop :=
  ∃ s r c f p, Quiet s ∧ oneRequest s r c f ∧ s.ejected 1 = [p] ∧ r.txn.toNat = hTxn p.hdr ∧ r.node.toNat = hSrc p.hdr ∧ P s r f p

theorem replyWit (k : ReqKind) (n kind : Nat) (fs : List Nat) (bs : List Byte) {P : State → Remote → Flight → Packet → Prop}
    (h : hTxn (mkPacket kind 0 8 7 1 0 0 false fs bs).hdr = 1 ∧ hSrc (mkPacket kind 0 8 7 1 0 0 false fs bs).hdr = 8)
    (hp : P (asked (rq k) (fl n) (mkPacket kind 0 8 7 1 0 0 false fs bs)) (rq k) (fl n) (mkPacket kind 0 8 7 1 0 0 false fs bs)) : ReplyWit P :=
  ⟨_, rq k, 0, fl n, _, ⟨rfl, rfl⟩, ⟨rfl, rfl, rfl, rfl, rfl, rfl, rfl⟩, rfl, h.1.symm, h.2.symm, hp⟩

/-- The byte before the last of a request's, and the last, of the command's last request and of one before. -/
theorem witness_RepliesTaken :
    (ReplyWit fun _ r _ p => hKind p.hdr = 0x10 ∧ r.got + p.payload.length + 1 = r.len) ∧
    (ReplyWit fun _ r f p => hKind p.hdr = 0x10 ∧ r.len = r.got + p.payload.length ∧ f.reqs = 2) ∧
    (ReplyWit fun _ r f p => hKind p.hdr = 0x10 ∧ r.len = r.got + p.payload.length ∧ f.reqs = 1 ∧ f.fin = false ∧ f.got = [] ∧
      cmdOp f.cmd = 0x10 ∧ cmdXop f.cmd = 0 ∧ plainDev (cmdDst f.cmd) = true ∧ inRegs (cmdDst f.cmd) = false) ∧
    (ReplyWit fun _ _ _ p => hKind p.hdr = 0x11 ∧ bitOf (p.word 4) 0 = false) ∧
    (ReplyWit fun _ r _ p => hKind p.hdr = 0x11 ∧ bitOf (p.word 4) 0 = true ∧ r.kind = .atomic) ∧
    ReplyWit fun _ r _ p => hKind p.hdr = 0x12 ∧ r.kind = .read :=
  ⟨replyWit .read 1 0x10 [4] [1, 2, 3] (by decide +kernel) (by decide +kernel),
   replyWit .read 2 0x10 [4] [1, 2, 3, 4] (by decide +kernel) (by decide +kernel),
   replyWit .read 1 0x10 [4] [1, 2, 3, 4] (by decide +kernel) (by decide +kernel),
   replyWit .write 1 0x11 [0, 0] [] (by decide +kernel) (by decide +kernel),
   replyWit .atomic 1 0x11 [1, 0] [] (by decide +kernel) (by decide +kernel),
   replyWit .read 1 0x12 [] [] (by decide +kernel) (by decide +kernel)⟩

theorem witness_SchedulerMessages :
    (∃ s p rest n j, Quiet s ∧ s.ejected 2 = p :: rest ∧ hKind p.hdr = 0x20 ∧ s.running = [n] ∧ s.job n = some j ∧ j.key.toNat = hKey p.hdr ∧
      hKspec p.hdr = 1 ∧ (s.ifc (.gang n (BitVec.ofNat 12 (fld (p.word 4) 0 12)))).span = none) ∧
    (∃ s p rest n j, Quiet s ∧ s.ejected 2 = p :: rest ∧ hKind p.hdr = 0x20 ∧ s.running = [n] ∧ s.job n = some j ∧ j.key.toNat = hKey p.hdr ∧
      hKspec p.hdr = 2) ∧
    ∃ s p rest n j, Quiet s ∧ s.ejected 2 = p :: rest ∧ hKind p.hdr = 0x20 ∧ s.running = [n] ∧ s.job n = some j ∧ j.key.toNat = hKey p.hdr ∧
      hKspec p.hdr = 3 ∧ s.fab.waiting = [] :=
  ⟨⟨got 2 (mkPacket 0x20 0 8 7 0 1 0 false [0, 0] []), _, [], 0, _, ⟨rfl, rfl⟩, rfl, by decide +kernel, by decide +kernel, rfl, by decide +kernel⟩,
   ⟨got 2 (mkPacket 0x20 0 8 7 0 2 0 false [0, 0] []), _, [], 0, _, ⟨rfl, rfl⟩, rfl, by decide +kernel, by decide +kernel, rfl, by decide +kernel⟩,
   ⟨got 2 (mkPacket 0x20 0 8 7 0 3 0 false [] []), _, [], 0, _, ⟨rfl, rfl⟩, rfl, by decide +kernel, by decide +kernel, rfl, by decide +kernel⟩⟩

/-- A fault note of device 8, and what is known of notes, at time 10^9. -/
def noted (seen : List (BitVec 14 × Word × Nat)) (key : Nat) : State :=
  { st {} {} [] with
    hif := { time := 1000000000 }
    fab := { noteIn := [(some 12, mkPacket 0x21 0 8 key 0 0 0 false [8 * 2 ^ 16, 3] [])], seen := seen } }

/-- Seen one nanosecond within the last second, and a second ago; of no job's key, and of job 0's. -/
theorem witness_FaultNotes :
    (∃ s src p rest, Quiet s ∧ s.fab.noteIn = (src, p) :: rest ∧
      (s.fab.seen.any fun e => e.1 == BitVec.ofNat 14 (fld (p.word 4) 16 14) && e.2.1 == BitVec.ofNat 32 (p.word 5) &&
        decide (s.hif.time.toNat < e.2.2 + 10 ^ 9)) = true) ∧
    (∃ s src p rest, Quiet s ∧ s.fab.noteIn = (src, p) :: rest ∧
      (s.fab.seen.any fun e => e.1 == BitVec.ofNat 14 (fld (p.word 4) 16 14) && e.2.1 == BitVec.ofNat 32 (p.word 5) &&
        decide (s.hif.time.toNat < e.2.2 + 10 ^ 9)) = false ∧
      s.fab.notes.length < 256 ∧ (∀ n : Fin 13, 7 ≤ n.val → (s.port n).state ≠ 2) ∧
      ∀ n j, s.job n = some j → j.ended = false → j.key.toNat ≠ hKey p.hdr) ∧
    ∃ s src p rest n j, Quiet s ∧ s.fab.noteIn = (src, p) :: rest ∧
      (s.fab.seen.any fun e => e.1 == BitVec.ofNat 14 (fld (p.word 4) 16 14) && e.2.1 == BitVec.ofNat 32 (p.word 5) &&
        decide (s.hif.time.toNat < e.2.2 + 10 ^ 9)) = false ∧
      s.fab.notes.length < 256 ∧ (∀ n : Fin 13, 7 ≤ n.val → (s.port n).state ≠ 2) ∧
      s.running = [n] ∧ s.job n = some j ∧ j.key.toNat = hKey p.hdr ∧ j.halt = none := by
  refine ⟨⟨noted [(8, 3, 1)] 7, _, _, [], ⟨rfl, rfl⟩, rfl, by decide +kernel⟩,
   ⟨noted [(8, 3, 0)] 9, _, _, [], ⟨rfl, rfl⟩, rfl, by decide +kernel, by decide +kernel, by decide +kernel, ?_⟩,
   ⟨noted [(8, 3, 0)] 7, _, _, [], 0, job0, ⟨rfl, rfl⟩, rfl, by decide +kernel, by decide +kernel, by decide +kernel, by decide +kernel⟩⟩
  intro n j h _
  have h : cellsGet none [(0, some job0)] n = some j := h
  have : j = job0 := by
    rw [cellsGet] at h
    split at h
    · exact (Option.some.inj h).symm
    · cases h
  rw [this]
  decide +kernel

/-! ### Witnesses: the rest -/

theorem witness_JtagInstructions : ∃ s, Quiet s ∧ s.pins.vaux = true := ⟨live, ⟨rfl, rfl⟩, rfl⟩

theorem witness_ClocksLost : ∃ s, Quiet s ∧ s.vilothRuns = true := ⟨live, ⟨rfl, rfl⟩, by decide +kernel⟩

/-- The line after one that the cache holds, and the last address of HBM and the first beyond. -/
theorem witness_SpeculativeFetches :
    let may := fun (s : State) i (addr : DWord) => ((s.ifc i).fetchable.any (s.warms i addr.toNat) || s.nextLine addr.toNat) = true ∧
      addr.toNat < 2 ^ 39 ∧ s.stackFailed (addr.toNat / 2 ^ 36) = false ∧ reasonAt (s.winsOf i) (s.gangsAbove i) .read addr.toNat = 0 ∧ s.streams i addr.toNat = false
    (∃ s i, ∃ addr : DWord, Quiet s ∧ may s i addr ∧ addr = 0x7FFFFFFFFF ∧ s.caches (addr.toNat / 256) = true) ∧
    ∃ s i, ∃ addr : DWord, Quiet s ∧ ¬ may s i addr ∧ addr = 0x8000000000 :=
  ⟨⟨{ st {} {} [] with ms := { home := { lines := ⟨[(2 ^ 31 - 2, 1)]⟩ } } }, .core 0, 0x7FFFFFFFFF, ⟨rfl, rfl⟩, by decide +kernel, rfl, by decide +kernel⟩,
   ⟨st {} {} [], .core 0, 0x8000000000, ⟨rfl, rfl⟩, by decide +kernel, rfl⟩⟩

theorem witness_StepRunsFrontCommand : ∃ (s : State) (c : Instr) (rest : List Instr), s.pending = c :: rest ∧ rest ≠ [] :=
  ⟨{ State.reset with pending := [.bypass, .highz] }, .bypass, [.highz], rfl, by decide +kernel⟩

theorem witness_IdleTickPasses :
    (∃ s : State, s.pending = [] ∧ s.pins.vaux = false) ∧ ∃ s : State, s.pending = [] ∧ s.pins.vaux = true ∧
      s.running = [] ∧ s.chans = ⟨[]⟩ ∧ s.cores.wf {} = true ∧ (∃ r, (s.core r).iron.state = 1 ∧ (s.core r).iron.phase < (s.core r).iron.last) ∧
      (∃ n : Fin 13, (s.port n).state = 2 ∧ (s.port n).replay = [] ∧ s.overBreak n = false ∧ (s.port n).owe = ⟨[]⟩) :=
  ⟨⟨State.reset, rfl, rfl⟩, { pst upPort {} with jobs := ⟨[]⟩, cores := ⟨[(0, { iron := { state := 1, phase := 4, last := 5 } })]⟩ }, rfl, rfl, by decide +kernel, rfl,
    by decide +kernel, ⟨0, by decide +kernel⟩, 12, by decide +kernel⟩

theorem witness_EveryCommandAnswers : (∃ c : Instr, c.wf = true) ∧ ∃ c : Instr, c.wf = false :=
  ⟨⟨.bar2Read 0x7FFFFFF000 4096, by decide +kernel⟩, .bar2Read 0x7FFFFFF001 4096, by decide +kernel⟩

theorem witness_StepKeepsInvariant : ∃ (s t : State), Inv s ∧ step s = .next t ∧ s.pending ≠ [] :=
  ⟨{ State.reset with pending := [.highz] }, _, ⟨rfl, rfl, rfl⟩, rfl, by decide +kernel⟩

/-! ### Ill-formed operands -/

/-- One byte past a request's 4,096, and past the end of HBM. -/
theorem test_wf_bar2Read : (Instr.bar2Read 0 4097).wf = false ∧ (Instr.bar2Read 0x7FFFFFFFFF 2).wf = false := by decide +kernel
theorem test_wf_bar2Write : (Instr.bar2Write 0 (List.replicate 513 0)).wf = false ∧ (Instr.bar2Write 0x7FFFFFFFFF [0, 0]).wf = false := by
  decide +kernel
theorem test_wf_hbmTempTick : (Instr.hbmTempTick (List.replicate 7 0)).wf = false := by decide +kernel
theorem test_wf_samplePreload : (Instr.samplePreload [true] []).wf = false := by decide +kernel
theorem test_wf_vcorePolicyTick : (Instr.vcorePolicyTick { temps := [], powerW := 0, pace := [], hotN := false }).wf = false := by decide +kernel

/-! ### Small steps, with results worked out by hand from the spec's rules -/

/-- A step on one command gives a state in which `p` holds. -/
def after (s : State) (c : Instr) (p : State → Bool) : Bool := match step { s with pending := [c] } with
  | .next t => p t && (t.pending == [])
  | _ => false

/-- The scalar register 1 of core 0 after a word whose operands are S2 and S3. -/
def s1 (fn : Nat) (c : Instr) (x y r : Nat) : Bool :=
  after (vst (word 0x10 1 2 3 0 fn) { s := ⟨[(2, BitVec.ofNat 64 x), (3, BitVec.ofNat 64 y)]⟩ } [] run0) c fun t => (t.core 0).vec.sreg 1 == r

/-- R303: 64-bit addition wraps. -/
theorem test_add_wraps : s1 0 (.add 0) (2 ^ 64 - 1) 2 1 = true := by decide +kernel

/-- R303: FP64 1.5 + 2.25 is 3.75. -/
theorem test_fadd : s1 0x10 (.fadd 0) 0x3FF8000000000000 0x4002000000000000 0x400E000000000000 = true := by decide +kernel

/-- R284: FP32 (1, 2, 3, 4) + (1, 1, 1, -4) is (2, 3, 4, 0). -/
theorem test_vadd : after (vst (word 0x01 1 2 3 0 0)
      { vec4 1 with v := ⟨[(2, BitVec.ofNat 2048 0x4080000040400000400000003F800000), (3, BitVec.ofNat 2048 0xC08000003F8000003F8000003F800000)]⟩ } [] run0)
    (.vadd 0) (fun t => (t.core 0).vec.v.get 0 1 == BitVec.ofNat 2048 0x00000000408000004040000040000000) = true := by decide +kernel

/-- R233: SIGNAL adds 1 to a token. -/
theorem test_signal : after (cst {} {} .exe (cmd [2, 0, 2]) []) (.signal (.core 0) .exe) (fun t => (t.ifc (.core 0)).tok 1 == 1) = true := by
  decide +kernel

/-- R526: the device's identity comes out of the data register least significant byte first. -/
theorem test_idcode : after live .idcode (fun t => t.reply == [0xEF, 0x75, 0x40, 0x15]) = true := by decide +kernel

/-- A command that nothing enables leaves the device as it was. -/
theorem test_not_enabled : after State.reset (.fadd 3) (fun t => t == State.reset) = true := by decide +kernel

/-- R393: CRC-32 of the digits 1 to 9 is the published check value, CBF43926. -/
theorem test_crc32 : crc32 [0x31, 0x32, 0x33, 0x34, 0x35, 0x36, 0x37, 0x38, 0x39] = 0xCBF43926 := by decide +kernel

/-- FIPS 180-4: the SHA-512 of the empty message starts CF83E1357EEFB8BD. -/
theorem test_sha512 : (sha512 []).take 8 = [0xCF, 0x83, 0xE1, 0x35, 0x7E, 0xEF, 0xB8, 0xBD] := by decide +kernel

/-- The words of the worked example of the vector engine (07, 'Worked example'), which the spec writes out. -/
theorem test_example_words : rowOf 0x02C2233F 0 = some (.setvl 0) ∧ rowOf 0x00007020 0 = some (.vld 0) ∧
    rowOf 0x86000801 0 = some (.vcvt 0) ∧ rowOf 0xFF320130 0 = some (.bne 0) := by decide +kernel

/-- In its first iteration S2 is 1,000, VL becomes 512, and S6 holds VL. -/
theorem test_example_setvl : after (vst 0x02C2233F { s := ⟨[(2, 1000)]⟩ } [] run0) (.setvl 0)
    (fun t => (t.core 0).vec.vl == 512 && (t.core 0).vec.sreg 6 == 512) = true := by decide +kernel

/-- Its branch at index 18 goes back to index 5 while S2 is not 0. -/
theorem test_example_bne : after
      (st { vec := { s := ⟨[(2, 488)]⟩, prog := 0x1000, run := some { run0 with next := 18 } } } {} (memAt 0x1048 (leBytes 4 0xFF320130)))
    (.bne 0) (fun t => ((t.core 0).vec.run.map (·.next)) == some 5) = true := by decide +kernel

end Sys2Proof.Tests
end

section
/-! PROOFS. The rules that every vector instruction's proof uses: an instruction's check passes, the access rules see through
the home caches, and a committed instruction changes nothing but its engine (R291, R306, R354). -/

namespace Sys2Proof.Machine

/-- An instruction whose fields are legal goes on (R283). -/
theorem need_bind {α : Type} {b : Bool} (h : b = true) (f : Unit → Except VStop α) : (need b >>= f) = f () := by
  subst h; rfl

/-- Reading bytes does not depend on the line states of the home caches. -/
theorem State.bytesAt_home (s : State) (m : Home) (a n : Nat) :
    ({ s with ms := { s.ms with home := m } } : State).bytesAt a n = s.bytesAt a n := by
  induction n generalizing a with
  | zero => rfl
  | succ n ih => rw [State.bytesAt, ih]; rfl

/-- Climbing from gang to gang does not depend on the line states of the home caches. -/
theorem State.aboveGo_home (s : State) (m : Home) (j : Job) (f g : Nat) :
    ({ s with ms := { s.ms with home := m } } : State).aboveGo j f g = s.aboveGo j f g := by
  induction f generalizing g with
  | zero => rfl
  | succ f ih =>
    have hp : ({ s with ms := { s.ms with home := m } } : State).parentOfGang j g = s.parentOfGang j g := rfl
    simp only [State.aboveGo, ih, hp]

/-- The gangs above an interface do not depend on the line states of the home caches. -/
theorem State.gangsAbove_home (s : State) (m : Home) (i : IfaceId) :
    ({ s with ms := { s.ms with home := m } } : State).gangsAbove i = s.gangsAbove i := by
  have habove : ∀ j, ({ s with ms := { s.ms with home := m } } : State).above j i = s.above j i := by
    intro j
    cases i with
    | core r => simp only [State.above, State.aboveGo_home]; rfl
    | gang n g => exact s.aboveGo_home m j 257 g.toNat
  simp only [State.gangsAbove, habove]
  rfl

/-- A check of an access does not depend on the line states of the home caches (R366). -/
theorem State.denied_home (s : State) (m : Home) (i : IfaceId) (reg : Bool) (k : Acc) (a n : Nat) :
    ({ s with ms := { s.ms with home := m } } : State).denied i reg k a n = s.denied i reg k a n := by
  unfold State.denied
  rw [State.gangsAbove_home]
  rfl

/-- The bytes that an instruction reads are those of the state before its fetch. -/
theorem VecAt.ctx_bytesAt (s : State) (c : CoreRef) (x : VRun) (w a n : Nat) :
    (VecAt.ctx s c x w).s.bytesAt a n = s.bytesAt a n := by
  obtain ⟨m, hm⟩ := s.touchAll_eq (.core c) [(.fetch, instrAddr (s.core c).vec x, 4)]
  rw [VecAt.ctx, hm, State.bytesAt_home]

/-- An access that is good in the state before the fetch passes the instruction's check (R291, R293). -/
theorem VecAt.ctx_check {s : State} {c : CoreRef} {x : VRun} {w al a n : Nat} {k : Acc} (h : accessOk s c k al a n) :
    (VecAt.ctx s c x w).check k al a n = .ok () := by
  obtain ⟨hp, hal, hd⟩ := h
  obtain ⟨m, hm⟩ := s.touchAll_eq (.core c) [(.fetch, instrAddr (s.core c).vec x, 4)]
  have hd' : (VecAt.ctx s c x w).s.denied (.core c) false k a n = none := by
    rw [VecAt.ctx, hm, State.denied_home, hd]
  have hr : (VecAt.ctx s c x w).r = c := rfl
  simp [VCtx.check, hr, hp, hal, hd']

/-- Ending a command leaves the cores as the command left them. -/
@[simp] theorem commit_core (s t : State) (r : CoreRef) : (commit s t).core r = t.core r := rfl

/-- Committing an instruction that passed some home lookups and wrote no memory changes nothing but its engine. -/
theorem commit_vecCommit_onlyVec {s : State} {c : CoreRef} {y : VStep} {m : Home} (hq : Quiet s)
    (hs : y.s = { s with ms := { s.ms with home := m } }) (he : y.ends = false) :
    OnlyVec s (commit s (vecCommit c y)) c (y.v.retired y.x y.conds (y.target.getD (y.x.next + 1))) := by
  obtain ⟨hw, -⟩ := hq
  simp only [vecCommit, hs, he, Bool.false_eq_true, if_false, State.updVec]
  refine ⟨?_, fun r hr => ?_, ⟨⟨rfl, rfl⟩, rfl, ?_⟩, rfl⟩
  · rw [commit_core, State.core_updCore]; rfl
  · rw [commit_core, State.core_updCore_other _ hr]; rfl
  · intro p hp
    cases p
    case mem => simp [Part.same, State.updCore, hw, writeAll]
    case cores => simp at hp
    case ms => simp at hp
    case reply => exact ⟨rfl, rfl⟩
    all_goals rfl

/-- An instruction that reads memory and changes registers only: the row completes, and nothing but its engine changes. -/
theorem vecRun_done_touched {s : State} {c : CoreRef} {x : VRun} {w : Nat} {row : Instr} {sem : VCtx → VAct} {v : Vec}
    {k : Conds} {rs : Ranges} (hq : Quiet s) (h : VecAt s c x w) (hr : rowOf w c = some row) (hw : row.wf = true)
    (hs : sem (VecAt.ctx s c x w) = .ok { s := (VecAt.ctx s c x w).s.touchAll (.core c) rs, v := v, x := x, conds := k }) :
    ∃ t, vecRun c row s sem = .next t ∧ Retires s t c x v k (x.next + 1) := by
  obtain ⟨m, hm⟩ := s.touchAll_eq (.core c) [(.fetch, instrAddr (s.core c).vec x, 4)]
  obtain ⟨m', hm'⟩ := (VecAt.ctx s c x w).s.touchAll_eq (.core c) rs
  have hy : (VecAt.ctx s c x w).s.touchAll (.core c) rs = { s with ms := { s.ms with home := m' } } := by
    rw [hm', VecAt.ctx, hm]
  refine ⟨_, vecRun_at h hr hw, ?_⟩
  rw [hs]
  exact commit_vecCommit_onlyVec (m := m') hq hy rfl

/-- An instruction that leaves the registers `v'` and writes one scalar register: the row completes, Sd holds the value, and
nothing else changes. -/
theorem vecRun_setS_on {s : State} {c : CoreRef} {x : VRun} {w : Nat} {row : Instr} {sem : VCtx → VAct} {v' : Vec}
    {d y : Nat} {k : Conds} (hq : Quiet s) (h : VecAt s c x w) (hr : rowOf w c = some row) (hw : row.wf = true)
    (hs : sem (VecAt.ctx s c x w) = (VecAt.ctx s c x w).done (v'.setS d y) k) (hv : v'.s = (s.core c).vec.s) :
    ∃ t, vecRun c row s sem = .next t ∧ ∃ regs,
      Retires s t c x { v' with s := regs } k (x.next + 1) ∧ ScalarIs (s.core c).vec regs d (BitVec.ofNat 64 y) := by
  obtain ⟨t, ht, hret⟩ := vecRun_done (target := none) hq h hr hw hs
  rw [Vec.setS_eq] at hret
  have hsc : ScalarIs (s.core c).vec (v'.setS d y).s d (BitVec.ofNat 64 y) := by
    have := Vec.setS_scalarIs v' d y
    rwa [ScalarIs, hv] at this
  exact ⟨t, ht, _, hret, hsc⟩

end Sys2Proof.Machine
end

section
/-! PROOFS. The system instructions (R272, R298, R299, R305). -/

namespace Sys2Proof.Machine

/-! ### What their work is once they are legal -/

/-- The fields of the VTYPE that setvl writes (R272). -/
theorem fld_vtype {b g : Nat} (hb : b < 32) (hg : g < 4) :
    fld (BitVec.ofNat 7 (b + 32 * g)).toNat 0 5 = b ∧ fld (BitVec.ofNat 7 (b + 32 * g)).toNat 5 2 = g := by
  simp only [fld, BitVec.toNat_ofNat, Nat.shiftRight_eq_div_pow]
  omega

/-- VLMAX under the VTYPE that setvl writes (R271, R272). -/
theorem vlmax_of_vtype (v : Vec) {b g : Nat} (hb : b < 32) (hg : g < 4) :
    ({ v with vtype := BitVec.ofNat 7 (b + 32 * g) } : Vec).vlmax = 2048 * 2 ^ g / (fmtOf b).width := by
  obtain ⟨hb', hg'⟩ := fld_vtype hb hg
  simp only [Vec.vlmax, vlen, Vec.grp, Vec.ew, Vec.fmt, Vec.fmtCode, hb', hg']

theorem bitOf_eq_false_of_fld {w n : Nat} (h : fld w n 1 = 0) : bitOf w n = false := by
  simpa [bitOf, fld, Nat.testBit_eq_decide_div_mod_eq, Nat.shiftRight_eq_div_pow] using h

/-- The VL that setvl gives (R272). -/
def setvlVl (v : Vec) (w : Nat) : Nat :=
  min (sval v (wA w)).toNat (2048 * 2 ^ fld w 22 2 / (fmtOf (wB w)).width)

theorem setvlSem_legal (k : VCtx) (hb : wB k.w < 16) (h24 : fld k.w 24 1 = 0) :
    setvlSem k = k.done (({ k.v with
      vtype := BitVec.ofNat 7 (wB k.w + 32 * fld k.w 22 2), vl := BitVec.ofNat 13 (setvlVl k.v k.w) } : Vec).setS
        (wD k.w) (setvlVl k.v k.w)) {} := by
  have hg : fld k.w 22 2 < 4 := Nat.mod_lt _ (by decide)
  unfold setvlSem
  rw [need_bind (by simp [hb, bitOf_eq_false_of_fld h24]), show fld k.w 22 2 * 2 ^ 5 = 32 * fld k.w 22 2 by omega]
  simp only [vlmax_of_vtype k.v (show wB k.w < 32 by omega) hg, sreg_eq_sval]
  rfl

theorem cvtsetSem_legal (k : VCtx) (hd : wD k.w = 0) (hm : wMk k.w = 0) (ha : (sval k.v (wA k.w)).toNat < 2 ^ 35) :
    cvtsetSem k = k.done { k.v with cvtCtl := sval k.v (wA k.w), cvtIdx := (sval k.v (wB k.w)).setWidth 48 } {} := by
  have hz : zeroBits (sval k.v (wA k.w)).toNat 35 29 = true := by
    rw [zeroBits, fld, Nat.shiftRight_eq_div_pow, Nat.div_eq_of_lt ha]; rfl
  unfold cvtsetSem
  rw [need_bind (by simp [hd, hm, sreg_eq_sval, hz])]
  simp only [sreg_eq_sval, BitVec.ofNat_toNat, BitVec.setWidth_eq]

theorem psetpSem_legal (k : VCtx) (hd : wD k.w < 16) :
    psetpSem k = .ok { s := k.s, v := k.v
                       x := { k.x with preds := k.x.preds ++ [(wD k.w, decide (sval k.v (wA k.w) ≠ 0))] } } := by
  have hne : (k.v.sreg (wA k.w) ≠ 0) ↔ (sval k.v (wA k.w) ≠ 0) := by
    rw [sreg_eq_sval, ne_eq, ne_eq, ← BitVec.toNat_inj]; rfl
  unfold psetpSem
  rw [need_bind (by simp [hd])]
  simp only [hne]

theorem vcondSem_eq (k : VCtx) :
    vcondSem k = k.done (({ k.v with cond := 0 } : Vec).setS (wD k.w) k.v.cond.toNat) {} := by
  unfold vcondSem Vec.setS
  split <;> rfl

theorem vtblSem_legal (k : VCtx) (hd : wD k.w < 4) (hc : k.check .read 1 (sval k.v (wA k.w)).toNat 4128 = .ok ())
    (hg : tableGood (leWords (k.s.bytesAt (sval k.v (wA k.w)).toNat 4128)) = true) :
    vtblSem k = .ok
      { s := k.s.touchAll (.core k.r) [(.read, (sval k.v (wA k.w)).toNat, 4128)]
        v := { k.v with
          tbl := k.v.tbl.set {} (wD k.w)
            { valid := true, deriv := false, image := leWords (k.s.bytesAt (sval k.v (wA k.w)).toNat 4128) } }
        x := k.x } := by
  unfold vtblSem
  rw [need_bind (by simp [hd])]
  simp only [sreg_eq_sval, hc, hg, Bool.not_true, Bool.false_eq_true, if_false]
  rfl

/-! ### What each row does -/

section SystemRows

variable {s : State} {c : CoreRef} {x : VRun} {w : Nat}

/-- The row of setvl: VL and Sd take min(Sa, VLMAX) under the new VTYPE (R272). -/
theorem completes_setvl (hq : Quiet s) (h : VecAt s c x w) (hr : rowOf w c = some (.setvl c)) (hb : wB w < 16)
    (h24 : fld w 24 1 = 0) :
    Completes (.setvl c) s fun t => ∃ regs,
      Retires s t c x { (s.core c).vec with
        s := regs, vl := BitVec.ofNat 13 (setvlVl (s.core c).vec w)
        vtype := BitVec.ofNat 7 (wB w + 32 * fld w 22 2) } {} (x.next + 1) ∧
      ScalarIs (s.core c).vec regs (wD w) (BitVec.ofNat 64 (setvlVl (s.core c).vec w)) :=
  vecRun_setS_on hq h hr rfl (setvlSem_legal (VecAt.ctx s c x w) hb h24) rfl

/-- The row of cvtset: a CVT_CTL whose reserved bits are zero, and CVT_IDX (R299). -/
theorem completes_cvtset (hq : Quiet s) (h : VecAt s c x w) (hr : rowOf w c = some (.cvtset c)) (hd : wD w = 0)
    (hm : wMk w = 0) (ha : (sval (s.core c).vec (wA w)).toNat < 2 ^ 35) :
    Completes (.cvtset c) s fun t => Retires s t c x { (s.core c).vec with
      cvtCtl := sval (s.core c).vec (wA w), cvtIdx := (sval (s.core c).vec (wB w)).setWidth 48 } {} (x.next + 1) :=
  vecRun_done (target := none) hq h hr rfl (cvtsetSem_legal (VecAt.ctx s c x w) hd hm ha)

/-- The row of psetp: the write joins those that take effect with the VRUN (R305). -/
theorem completes_psetp (hq : Quiet s) (h : VecAt s c x w) (hr : rowOf w c = some (.psetp c)) (hd : wD w < 16) :
    Completes (.psetp c) s fun t => Retires s t c
      { x with preds := x.preds ++ [(wD w, decide (sval (s.core c).vec (wA w) ≠ 0))] } (s.core c).vec {} (x.next + 1) :=
  vecRun_done (target := none) hq h hr rfl (psetpSem_legal (VecAt.ctx s c x w) hd)

/-- The row of vcond: Sd takes VEC_COND as it stood before the instruction clears it (R305). -/
theorem completes_vcond (hq : Quiet s) (h : VecAt s c x w) (hr : rowOf w c = some (.vcond c)) :
    Completes (.vcond c) s fun t => ∃ regs,
      Retires s t c x { (s.core c).vec with s := regs, cond := 0 } {} (x.next + 1) ∧
      ScalarIs (s.core c).vec regs (wD w) ((s.core c).vec.cond.setWidth 64) := by
  rw [← BitVec.ofNat_toNat]
  exact vecRun_setS_on hq h hr rfl (vcondSem_eq (VecAt.ctx s c x w)) rfl

/-- The row of vlen: Sd takes VLEN (R305). -/
theorem completes_vlen (hq : Quiet s) (h : VecAt s c x w) (hr : rowOf w c = some (.vlen c)) :
    Completes (.vlen c) s fun t => ∃ regs,
      Retires s t c x { (s.core c).vec with s := regs } {} (x.next + 1) ∧ ScalarIs (s.core c).vec regs (wD w) 2048 :=
  vecRun_setS (target := none) hq h hr rfl rfl

/-- The row of vtbl: the image that the fetch's home lookup leaves as it was fills the slot (R298). -/
theorem completes_vtbl (hq : Quiet s) (h : VecAt s c x w) (hr : rowOf w c = some (.vtbl c)) (hd : wD w < 4)
    (ha : accessOk s c .read 1 (sval (s.core c).vec (wA w)).toNat 4128)
    (hg : tableGood (leWords (s.bytesAt (sval (s.core c).vec (wA w)).toNat 4128)) = true) :
    Completes (.vtbl c) s fun t => Retires s t c x { (s.core c).vec with
      tbl := (s.core c).vec.tbl.set {} (wD w)
        { valid := true, deriv := false, image := leWords (s.bytesAt (sval (s.core c).vec (wA w)).toNat 4128) } }
      {} (x.next + 1) := by
  rw [← VecAt.ctx_bytesAt s c x w] at hg ⊢
  exact vecRun_done_touched hq h hr rfl (vtblSem_legal (VecAt.ctx s c x w) hd (VecAt.ctx_check ha) hg)

end SystemRows

/-- Settles O2: each instruction's work, once its fields are legal, is the registers that its rule names. -/
theorem systemInstructions : Obligations.SystemInstructions := by
  unfold Obligations.SystemInstructions
  intro s c x w hq h
  exact ⟨completes_setvl hq h, completes_cvtset hq h, completes_psetp hq h, completes_vcond hq h, completes_vlen hq h,
    completes_vtbl hq h⟩

end Sys2Proof.Machine
end

section
/-! PROOFS. Elements below VL as a list over their numbers, and the reductions over the active ones (R281, R295). -/

namespace Sys2Proof.Machine

/-! ### Lists over element numbers -/

theorem rangeFrom_eq_range' (lo n : Nat) : rangeFrom lo n = List.range' lo n := by
  induction n generalizing lo with
  | zero => rfl
  | succ n ih => rw [rangeFrom, ih, List.range'_succ]

theorem upto_eq_range (n : Nat) : upto n = List.range n := by
  rw [upto, rangeFrom_eq_range', List.range_eq_range']

/-- Numbering a list over element numbers gives each value its element's number. -/
theorem zipIdx_map_upto {α : Type} (f : Nat → α) (n : Nat) : ((upto n).map f).zipIdx = (upto n).map fun k => (f k, k) := by
  rw [upto_eq_range]
  refine List.ext_getElem (by simp) fun i h1 h2 => ?_
  simp

theorem Vec.elems_eq (v : Vec) (n : Nat) : v.elems n = (upto v.vlN).map (elem v n) := rfl

theorem onActive_filterMap {α : Type} (v : Vec) (mk : Nat) (f : Nat → α) :
    (onActive v mk f).filterMap id = ((upto v.vlN).filter (v.active mk)).map f := by
  rw [onActive, List.filterMap_map, ← List.filterMap_eq_map, List.filterMap_filter]
  rfl

/-! ### Integers as their low bits -/

theorem toSigned_eq_toInt {w : Nat} (hw : 0 < w) (n : Nat) : toSigned w n = (BitVec.ofNat w n).toInt := by
  have hmsb : (BitVec.ofNat w n).msb = n.testBit (w - 1) := by
    rw [BitVec.msb_eq_getLsbD_last, BitVec.getLsbD_ofNat, decide_eq_true (Nat.sub_one_lt_of_lt hw), Bool.true_and]
  rw [toSigned, BitVec.toInt_eq_msb_cond, hmsb, BitVec.toNat_ofNat]

theorem ofNat_ofSigned (w : Nat) (i : Int) : BitVec.ofNat w (ofSigned w i) = BitVec.ofInt w i := by
  rw [ofSigned, ← BitVec.toNat_ofInt, BitVec.ofNat_toNat, BitVec.setWidth_eq]

theorem Fmt.width_pos (f : Fmt) : 0 < f.width := by cases f <;> decide

/-! ### The reductions -/

/-- The formats in which a reduction or a segment instruction is legal. -/
theorem redFmt_legal {n : Nat} (h : n ≤ 3 ∨ n = 0x0C ∨ n = 0x0D) : (isF n || isI n) = true := by
  simpa [isF, isI] using h

/-- The active pairs that a reduction is over; one of A alone pairs its elements with zeros. -/
def redPairs (v : Vec) (w : Nat) (two : Bool) : List (Nat × Nat) :=
  (onActive v (wMk w) fun k => (elem v (wA w) k, if two then elem v (wB w) k else 0)).filterMap id

/-- Pairing, numbering and filtering the elements gives the active pairs. -/
theorem activePairs_eq (v : Vec) (w : Nat) (two : Bool) :
    (((v.elems (wA w)).zip (if two then v.elems (wB w) else List.replicate v.vlN 0)).zipIdx.filter
      fun x => v.active (wMk w) x.2).map (·.1) = redPairs v w two := by
  have hb : (if two then v.elems (wB w) else List.replicate v.vlN 0) =
      (upto v.vlN).map fun k => if two then elem v (wB w) k else 0 := by
    cases two with
    | false =>
      show List.replicate v.vlN 0 = (upto v.vlN).map fun _ => 0
      rw [upto_eq_range, List.map_const', List.length_range]
    | true => rfl
  rw [hb, Vec.elems_eq, List.zip_map', zipIdx_map_upto, List.filter_map, List.map_map, redPairs, onActive_filterMap]
  rfl

/-- A legal reduction: nothing for VL = 0, else Sd takes a 64-bit integer that wraps, or a value rounded once (R274, R295). -/
theorem redOp_legal {r : RedKind} {k : VCtx} (hf : (isF k.v.fmtCode || isI k.v.fmtCode) = true)
    (ha : groupOk (wA k.w) k.v.grp = true) (hb : (r == .sad) = true → groupOk (wB k.w) k.v.grp = true) :
    redOp r k =
      let on := redPairs k.v k.w (r == .sad)
      let f := k.v.fmt
      let d := (sval k.v (wD k.w)).toNat
      let x := redFloat r f [f.dec 0 (d % 2 ^ k.v.ew)] (on.map fun y => (f.dec 0 y.1, f.dec 0 y.2))
      if k.v.vlN = 0 then k.done k.v {}
      else if f.isInt then
        k.done (k.v.setS (wD k.w) (ofSigned 64 (redInt r [(BitVec.ofNat 64 d).toInt]
          (on.map fun y => ((BitVec.ofNat f.width y.1).toInt, (BitVec.ofNat f.width y.2).toInt))))) {}
      else k.done (k.v.setS (wD k.w) x.1) (condsOf [x.2]) := by
  have hb' : (!(r == .sad) || groupOk (wB k.w) k.v.grp) = true := by
    cases h : (r == .sad) with
    | false => rfl
    | true => simpa using hb h
  unfold redOp
  rw [need_bind (by simp only [hf, ha, hb', Bool.and_self])]
  simp only [activePairs_eq, sreg_eq_sval, toSigned_eq_toInt (Fmt.width_pos _), toSigned_eq_toInt (show 0 < 64 by decide)]
  rfl

/-- The row of a reduction (R295). -/
def RedKind.redRow : RedKind → CoreRef → Instr
  | .sum => .vredsum
  | .sad => .vredsad
  | .max => .vredmax
  | .min => .vredmin

theorem exec_redRow (r : RedKind) (c : CoreRef) (s : State) : exec (r.redRow c) s = vecRun c (r.redRow c) s (redOp r) := by
  cases r <;> rfl

theorem redRow_wf (r : RedKind) (c : CoreRef) : (r.redRow c).wf = true := by cases r <;> rfl

/-- The table of the reductions says what each kind's reduction over Sd's value and the active pairs is. -/
theorem redRows_spec {p} (hp : p ∈ Sys2Proof.redRows) : ∃ r : RedKind, p.1 = r.redRow ∧ p.2.1 = (r == .sad) ∧
    (∀ f d l, p.2.2.1 f d l = redFloat r f [d] l) ∧ ∀ d l, p.2.2.2 d l = redInt r [d] l := by
  have hsum : ∀ (d : Int) (l : List Int), l.foldl (· + ·) d = ([d] ++ l).foldl (· + ·) 0 := by simp
  simp only [Sys2Proof.redRows, List.mem_cons, List.not_mem_nil, or_false] at hp
  rcases hp with rfl | rfl | rfl | rfl
  · exact ⟨.sum, rfl, rfl, fun _ _ _ => rfl, fun _ _ => hsum _ _⟩
  · exact ⟨.max, rfl, rfl, fun _ _ _ => rfl, fun _ _ => rfl⟩
  · exact ⟨.min, rfl, rfl, fun _ _ _ => rfl, fun _ _ => rfl⟩
  · exact ⟨.sad, rfl, rfl, fun _ _ _ => rfl, fun _ _ => hsum _ _⟩

/-- Every row of the table of reductions is one kind's, and a kind's reduction ends in one of three ways: nothing to do, an
integer, or a rounded value (R295, R274). -/
theorem reductionResults : Sys2Proof.Says.ReductionResults := by
  intro s c x w hq h p hp hr v hf ha hb on d
  obtain ⟨r, hrow, htwo, hflt, hint⟩ := redRows_spec hp
  rw [hrow] at hr ⊢
  have hs := redOp_legal (r := r) (k := VecAt.ctx s c x w) (redFmt_legal hf) ha (htwo ▸ hb)
  have hon : on = redPairs v w (r == .sad) := by rw [redPairs, ← htwo]
  have hw := redRow_wf r c
  refine ⟨fun hvl => ?_, fun hvl hi => ?_, fun hvl hi => ?_⟩ <;> rw [Completes, exec_redRow]
  · exact vecRun_done (target := none) hq h hr hw (hs.trans (if_pos hvl))
  · rw [hint, hon, ← ofNat_ofSigned]
    exact vecRun_setS (target := none) hq h hr hw (hs.trans ((if_neg (Nat.ne_of_gt hvl)).trans (if_pos hi)))
  · rw [hflt, hon]
    exact vecRun_setS (target := none) hq h hr hw
      (hs.trans ((if_neg (Nat.ne_of_gt hvl)).trans (if_neg (Bool.eq_false_iff.mp hi))))

end Sys2Proof.Machine
end

section
/-! PROOFS. The segments of a group, by the element in which each begins, and the segment instructions (R296, R297). -/

namespace Sys2Proof.Machine

/-! ### Cutting a list into segments -/

theorem segments_cons_start (a b : Nat) (i : Bool) (r : List (Nat × Bool)) :
    segments ((a, i) :: (b, true) :: r) = [a] :: segments ((b, true) :: r) := rfl

theorem segments_cons_same {a b : Nat} {i : Bool} {r : List (Nat × Bool)} {h : List Nat} {t : List (List Nat)}
    (e : segments ((b, false) :: r) = h :: t) : segments ((a, i) :: (b, false) :: r) = (a :: h) :: t := by
  rw [segments, e]; rfl

/-- No segment is lost: the segments in order are the elements. -/
theorem segments_flatten (l : List (Nat × Bool)) : (segments l).flatten = l.map (·.1) := by
  induction l with
  | nil => rfl
  | cons p r ih =>
    obtain ⟨a, i⟩ := p
    match r, ih with
    | [], _ => rfl
    | (b, true) :: r, ih => rw [segments_cons_start, List.flatten_cons, ih]; rfl
    | (b, false) :: r, ih =>
      cases e : segments ((b, false) :: r) with
      | nil => rw [e] at ih; cases ih
      | cons h t =>
        rw [e, List.flatten_cons] at ih
        rw [segments_cons_same e, List.flatten_cons, List.cons_append, ih]; rfl

/-! ### Where a segment stops -/

section Stops

variable (st : Nat → Bool) (n : Nat)

/-- The index after the last element of the segment that holds element `k`, of `n` elements of which those of `st` start one. -/
def segStop (k : Nat) : Nat := ((rangeFrom (k + 1) (n - (k + 1))).find? st).getD n

/-- The elements from `k` to the end of its segment. -/
def segRun (e : Nat → Nat) (k : Nat) : List Nat := (rangeFrom k (segStop st n k - k)).map e

variable {st n}

theorem segStop_last {k : Nat} (h : k + 1 = n) : segStop st n k = n := by
  subst h; simp [segStop, rangeFrom]

theorem segStop_succ {k : Nat} (h : k + 1 < n) : segStop st n k = if st (k + 1) then k + 1 else segStop st n (k + 1) := by
  have hr : rangeFrom (k + 1) (n - (k + 1)) = (k + 1) :: rangeFrom (k + 1 + 1) (n - (k + 1 + 1)) := by
    rw [show n - (k + 1) = n - (k + 1 + 1) + 1 by omega, rangeFrom]
  rw [segStop, hr, List.find?_cons]
  cases st (k + 1) <;> rfl

theorem segStop_bounds {k : Nat} (h : k < n) : k < segStop st n k ∧ segStop st n k ≤ n := by
  obtain ⟨m, rfl⟩ : ∃ m, n = k + 1 + m := ⟨n - (k + 1), by omega⟩
  induction m generalizing k with
  | zero => rw [segStop_last rfl]; omega
  | succ m ih =>
    rw [segStop_succ (by omega)]
    split
    · omega
    · have := ih (k := k + 1) (by omega)
      rw [show k + 1 + 1 + m = k + 1 + (m + 1) by omega] at this
      omega

theorem segRun_cons {e : Nat → Nat} {k : Nat} (h : k < n) :
    segRun st n e k = e k :: (rangeFrom (k + 1) (segStop st n k - (k + 1))).map e := by
  have := (segStop_bounds (st := st) h).1
  rw [segRun, show segStop st n k - k = segStop st n k - (k + 1) + 1 by omega, rangeFrom, List.map_cons]

/-- The segments of the elements from `lo` up are the runs from `lo` and from each later element that starts one. -/
theorem segments_from (e : Nat → Nat) {lo m : Nat} (h : lo + (m + 1) = n) :
    segments ((rangeFrom lo (m + 1)).map fun k => (e k, st k)) =
      (lo :: (rangeFrom (lo + 1) m).filter st).map (segRun st n e) := by
  induction m generalizing lo with
  | zero =>
    have hr : segRun st n e lo = [e lo] := by
      rw [segRun_cons (by omega), segStop_last h, ← h, Nat.sub_self]; rfl
    simp [rangeFrom, segments, hr]
  | succ m ih =>
    have hs := ih (lo := lo + 1) (by omega)
    have hst := segStop_succ (st := st) (n := n) (k := lo) (by omega)
    simp only [rangeFrom, List.map_cons, List.filter_cons] at hs ⊢
    cases hb : st (lo + 1) with
    | true =>
      rw [hb] at hs
      rw [segments_cons_start, hs, segRun_cons (k := lo) (by omega), hst, hb]
      simp [rangeFrom]
    | false =>
      rw [hb] at hs
      rw [segments_cons_same hs, segRun_cons (k := lo) (by omega), hst, hb]
      simp [segRun]

end Stops

/-! ### The segment of an element -/

section Segments

variable (v : Vec) (mk : Nat)

/-- Element `j` starts a segment by its bit of the mask (R296). -/
def maskStarts (j : Nat) : Bool := decide (mk ≠ 0) && Sys2Proof.mbit v mk j

/-- Element `j` starts a segment (R296). -/
def segStarts (j : Nat) : Bool := j == 0 || maskStarts v mk j

theorem segEnd_eq (k : Nat) : Sys2Proof.segEnd v mk k = segStop (maskStarts v mk) v.vlN k := rfl

theorem segFirst_eq (k : Nat) :
    Sys2Proof.segFirst v mk k = (((List.range (k + 1)).filter (segStarts v mk)).getLast?).getD 0 := by
  rw [← upto_eq_range]; rfl

variable {v mk}

theorem segFirst_of_starts {k : Nat} (h : segStarts v mk k = true) : Sys2Proof.segFirst v mk k = k := by
  rw [segFirst_eq, List.range_succ, List.filter_append]
  simp [h]

theorem segFirst_succ {k : Nat} (h : segStarts v mk (k + 1) = false) :
    Sys2Proof.segFirst v mk (k + 1) = Sys2Proof.segFirst v mk k := by
  rw [segFirst_eq, segFirst_eq, List.range_succ, List.filter_append]
  simp [h]

/-- The first element of a segment starts it. -/
theorem segStarts_segFirst (k : Nat) : segStarts v mk (Sys2Proof.segFirst v mk k) = true := by
  induction k with
  | zero => rw [segFirst_of_starts rfl]; rfl
  | succ k ih =>
    cases h : segStarts v mk (k + 1) with
    | true => rw [segFirst_of_starts h, h]
    | false => rw [segFirst_succ h, ih]

theorem segFirst_beq_self (k : Nat) : (Sys2Proof.segFirst v mk k == k) = segStarts v mk k := by
  cases h : segStarts v mk k with
  | true => rw [segFirst_of_starts h, beq_self_eq_true]
  | false =>
    rw [beq_eq_false_iff_ne]
    intro e
    have := segStarts_segFirst (v := v) (mk := mk) k
    rw [e, h] at this
    cases this

/-- The elements up to the end of a segment begin and end with it. -/
theorem segment_of_run {a k : Nat} (ha : segStarts v mk a = true) (hn : a < v.vlN) (hak : a ≤ k)
    (hk : k < Sys2Proof.segEnd v mk a) :
    Sys2Proof.segFirst v mk k = a ∧ Sys2Proof.segEnd v mk k = Sys2Proof.segEnd v mk a := by
  obtain ⟨i, rfl⟩ := Nat.exists_eq_add_of_le hak
  induction i with
  | zero => exact ⟨segFirst_of_starts ha, rfl⟩
  | succ i ih =>
    obtain ⟨hf, he⟩ := ih (by omega) (by omega)
    have hle : Sys2Proof.segEnd v mk a ≤ v.vlN := (segStop_bounds hn).2
    have hs := segStop_succ (st := maskStarts v mk) (n := v.vlN) (k := a + i) (by omega)
    rw [← segEnd_eq, ← segEnd_eq, he] at hs
    cases hb : maskStarts v mk (a + i + 1) with
    | true => rw [hb, if_pos rfl] at hs; omega
    | false =>
      rw [hb, if_neg Bool.false_ne_true] at hs
      exact ⟨(segFirst_succ (by simp [segStarts, hb])).trans hf, hs.symm⟩

/-- The values of the elements of the segment of element `k`. -/
def segOf (v : Vec) (mk : Nat) (e : Nat → Nat) (k : Nat) : List Nat :=
  (rangeFrom (Sys2Proof.segFirst v mk k) (Sys2Proof.segEnd v mk k - Sys2Proof.segFirst v mk k)).map e

/-- The elements below VL that start a segment. -/
def segHeads (v : Vec) (mk : Nat) : List Nat := (upto v.vlN).filter fun k => Sys2Proof.segFirst v mk k == k

theorem mem_segHeads {a : Nat} : a ∈ segHeads v mk ↔ a < v.vlN ∧ segStarts v mk a = true := by
  simp [segHeads, upto_eq_range, segFirst_beq_self]

theorem segOf_head {e : Nat → Nat} {a : Nat} (h : a ∈ segHeads v mk) :
    segOf v mk e a = (rangeFrom a (Sys2Proof.segEnd v mk a - a)).map e := by
  rw [segOf, segFirst_of_starts (mem_segHeads.mp h).2]

/-- The segments of the elements below VL are those of the elements that start one. -/
theorem segments_eq (e : Nat → Nat) :
    segments ((upto v.vlN).map fun k => (e k, maskStarts v mk k)) = (segHeads v mk).map (segOf v mk e) := by
  cases hn : v.vlN with
  | zero => simp [segHeads, hn, upto, rangeFrom, segments]
  | succ m =>
    have hheads : segHeads v mk = 0 :: (rangeFrom 1 m).filter (maskStarts v mk) := by
      simp only [segHeads, segFirst_beq_self, hn, upto, rangeFrom]
      rw [List.filter_cons_of_pos rfl]
      congr 1
      refine List.filter_congr fun k hk => ?_
      have : k ≠ 0 := by have := (mem_rangeFrom _ _ _).mp hk; omega
      simp [segStarts, this]
    rw [upto, segments_from (n := v.vlN) e (by omega), ← hheads]
    refine List.map_congr_left fun a ha => ?_
    rw [segOf_head ha]; rfl

/-- Every element below VL takes what its segment gives. -/
theorem segments_flatMap_replicate {α : Type} (e : Nat → Nat) (g : List Nat → α) :
    (segments ((upto v.vlN).map fun k => (e k, maskStarts v mk k))).flatMap (fun sg => List.replicate sg.length (g sg)) =
      (upto v.vlN).map fun k => g (segOf v mk e k) := by
  have hcover : (segHeads v mk).flatMap (segOf v mk id) = upto v.vlN := by
    rw [List.flatMap_def, ← segments_eq, segments_flatten, List.map_map]
    exact List.map_id _
  rw [segments_eq, List.flatMap_map, ← hcover, List.map_flatMap, List.flatMap_def, List.flatMap_def]
  refine congrArg List.flatten (List.map_congr_left fun a ha => ?_)
  obtain ⟨hn, hst⟩ := mem_segHeads.mp ha
  have hlen : (segOf v mk e a).length = (segOf v mk id a).length := by simp only [segOf, List.length_map]
  rw [hlen, eq_comm, List.map_eq_replicate_iff]
  intro k hk
  rw [segOf_head ha, List.map_id, mem_rangeFrom] at hk
  obtain ⟨hf, he⟩ := segment_of_run hst hn hk.1 (by omega)
  rw [segOf, hf, he, ← segOf_head ha]

end Segments

/-! ### The segment instructions -/

/-- What a segment instruction gives the elements of a segment, with its conditions (R296). -/
def segValue (r : RedKind) (f : Fmt) (sg : List Nat) : Nat × Cnd :=
  if f.isInt then (ofSigned f.width (redInt r [] (sg.map fun a => (toSigned f.width a, 0))), {})
  else redFloat r f (if r = .sum then [FVal.zero] else []) (sg.map fun a => (f.dec 0 a, FVal.zero))

/-- Values for all elements: no mask (R297). -/
theorem onActive_zero {α : Type} (v : Vec) (f : Nat → α) : onActive v 0 f = (upto v.vlN).map fun k => some (f k) := rfl

/-- The value, its conditions and the length of a segment, as the instruction lists them. -/
theorem segValue_listed (r : RedKind) (f : Fmt) (sg : List Nat) :
    (if f.isInt then (ofSigned f.width (redInt r [] (sg.map fun a => (toSigned f.width a, 0))), {}, sg.length)
      else
        let x := redFloat r f (if r = .sum then [FVal.zero] else []) (sg.map fun a => (f.dec 0 a, FVal.zero))
        (x.1, x.2, sg.length)) = ((segValue r f sg).1, (segValue r f sg).2, sg.length) := by
  unfold segValue
  split <;> rfl

/-- A legal segment instruction: every element takes the value of its segment, and each segment notes its conditions once. -/
theorem segOp_legal {r : RedKind} {k : VCtx} (hf : (isF k.v.fmtCode || isI k.v.fmtCode) = true)
    (hd : groupOk (wD k.w) k.v.grp = true) (ha : groupOk (wA k.w) k.v.grp = true) :
    segOp r k =
      let val := fun j => segValue r k.v.fmt (segOf k.v (wMk k.w) (elem k.v (wA k.w)) j)
      k.done (k.v.putElems (wD k.w) k.v.grp k.v.ew (onActive k.v 0 fun j => (val j).1))
        (condsOf ((segHeads k.v (wMk k.w)).map fun j => (val j).2)) := by
  have hes : ((k.v.elems (wA k.w)).zipIdx.map fun y => (y.1, decide (wMk k.w ≠ 0) && bitOf (k.v.mreg (wMk k.w)) y.2)) =
      (upto k.v.vlN).map fun j => (elem k.v (wA k.w) j, maskStarts k.v (wMk k.w) j) := by
    rw [Vec.elems_eq, zipIdx_map_upto, List.map_map]; rfl
  unfold segOp
  rw [need_bind (by simp only [hf, hd, ha, Bool.and_self])]
  simp only [hes, segValue_listed, List.flatMap_map, List.map_map, Function.comp_def]
  rw [segments_flatMap_replicate _ fun sg => some (segValue r k.v.fmt sg).1, segments_eq, List.map_map,
    onActive_zero]
  rfl

/-- The row of a segment instruction is run as its kind says. -/
theorem exec_segRow {p : (CoreRef → Instr) × RedKind} (hp : p ∈ Sys2Proof.segRows) (c : CoreRef) (s : State) :
    (p.1 c).wf = true ∧ exec (p.1 c) s = vecRun c (p.1 c) s (segOp p.2) := by
  simp only [Sys2Proof.segRows, List.mem_cons, List.not_mem_nil, or_false] at hp
  rcases hp with rfl | rfl | rfl <;> exact ⟨rfl, rfl⟩

/-- A segment instruction writes all elements below VL, and notes the conditions of each segment once (R296, R297). -/
theorem segmentResults : Sys2Proof.Says.SegmentResults := by
  intro s c x w hq h p hp hr v hf hd ha seg val cnd
  obtain ⟨hw, he⟩ := exec_segRow hp c s
  have hs := segOp_legal (r := p.2) (k := VecAt.ctx s c x w) (redFmt_legal hf) hd ha
  have hval : ∀ k, (val k, cnd k) = segValue p.2 v.fmt (segOf v (wMk w) (elem v (wA w)) k) := by
    intro k
    simp only [val, cnd, segValue]
    split <;> rfl
  have hv : val = _ := funext fun k => congrArg Prod.fst (hval k)
  have hc : cnd = _ := funext fun k => congrArg Prod.snd (hval k)
  obtain ⟨t, ht, hret⟩ := vecRun_done (target := none) hq h hr hw hs
  rw [Vec.putElems_eq] at hret
  rw [Completes, he, hv, hc]
  exact ⟨t, ht, _, hret, Vec.putElems_elemsAre v (wD w) v.grp (Fmt.width_pos v.fmt) _⟩

/-- Settles O29: a reduction is over the list of the active elements, and a segment instruction gives each element the value
of the run of elements from the last start at or before it to the next. -/
theorem acrossElements : Obligations.AcrossElements := ⟨reductionResults, segmentResults⟩

end Sys2Proof.Machine
end
